-- ==== Sys2Proof/Word.lean ====
section
/-! DEFINITION. The word types of EOX and their plainest arithmetic (spec 00 R3, 02 R32). -/

namespace Sys2Proof

/-- A 32-bit register value, instruction word or slot. -/
abbrev Word := BitVec 32

/-- A 64-bit register pair or device virtual address: low word in the even register (R32). -/
abbrev DWord := BitVec 64

/-- A set of lanes of a cohort: bit i is lane i (R18, R155). -/
abbrev LaneSet := BitVec 96

/-- One byte. -/
abbrev Byte := BitVec 8

/-- Bits `[31:0]` of a pair. -/
abbrev DWord.low (x : DWord) : Word := x.extractLsb' 0 32

/-- Bits `[63:32]` of a pair. -/
abbrev DWord.high (x : DWord) : Word := x.extractLsb' 32 32

/-- The pair `{high, low}` (R32). -/
abbrev pairOf (high low : Word) : DWord := high ++ low

end Sys2Proof
end

