-- ==== Sys2Proof/Syntax.lean ====
section
/-! DEFINITION. The syntax of the part: one constructor of `Instr` per row of spec/opcode_table.json. The 186
instructions carry the raw fields of their format (spec 03 R64-R75), every bit that the format names and nothing else;
the meaning of a field is given by the accessors of Operands and by each instruction's meaning. The 102 events (moves
of the device's other agents) carry what the move brings from outside the machine and the names of what it acts on. -/

namespace Sys2Proof

/-- Format L (R67): settle marker, D, A, b-code, and the literal word, used when B is 255. -/
structure LForm where
  s : Bool
  d : BitVec 7
  a : BitVec 7
  b : BitVec 8
  lit : Word
  deriving DecidableEq, Repr

/-- Format LQ (R67): an L word with the extension C, MOD, IMM16; the literal comes last. -/
structure LqForm where
  s : Bool
  d : BitVec 7
  a : BitVec 7
  b : BitVec 8
  c : BitVec 8
  mod : BitVec 8
  imm : BitVec 16
  lit : Word
  deriving DecidableEq, Repr

/-- Format LM (R67): an L word with the memory extension. -/
structure LmForm where
  s : Bool
  d : BitVec 7
  a : BitVec 7
  b : BitVec 8
  scope : BitVec 3
  order : BitVec 3
  xs : BitVec 2
  size : BitVec 3
  sx : Bool
  disp : BitVec 20
  deriving DecidableEq, Repr

/-- Format U (R71). -/
structure UForm where
  s : Bool
  d : BitVec 8
  a : BitVec 8
  b : BitVec 8
  deriving DecidableEq, Repr

/-- Format UI (R71). -/
structure UiForm where
  s : Bool
  d : BitVec 8
  imm : BitVec 16
  deriving DecidableEq, Repr

/-- Format UB, unconditional (R71). -/
structure UbForm where
  s : Bool
  off : BitVec 24
  deriving DecidableEq, Repr

/-- Format UB, conditional (R71). -/
structure UcForm where
  s : Bool
  reg : BitVec 8
  off : BitVec 16
  deriving DecidableEq, Repr

/-- Format UE (R71): a U word and a whole extension word. -/
structure UeForm where
  s : Bool
  d : BitVec 8
  a : BitVec 8
  b : BitVec 8
  ext : Word
  deriving DecidableEq, Repr

/-- Format UX (R71): a U word of OP6 0x3F and extension bits `[23:0]`; XOP8 is the constructor. -/
structure UxForm where
  s : Bool
  d : BitVec 8
  a : BitVec 8
  b : BitVec 8
  ext : BitVec 24
  deriving DecidableEq, Repr

/-- Head of an inbound fabric message (R420): source device, end-to-end transaction id, target address. -/
structure FabHead where
  src : Nat
  tid : Word
  va : DWord
  deriving DecidableEq, Repr

/-- Operation of a fabric read-modify-write (R420): an AOP of R278 over 4 or 8 bytes, an exchange, or a
compare and swap. -/
inductive FabOp where
  | atom (aop : Nat) (wide : Bool) (v : DWord)
  | xchg (wide : Bool) (v : DWord)
  | cas (wide : Bool) (cmp new : DWord)
  deriving DecidableEq, Repr

/-- One partial accumulator of R58: the exact sum in units of 2^-149 (or the integer sum) with its side flags, or the
running extremum. -/
structure RedAcc where
  sum : Int
  nan : Bool
  pinf : Bool
  ninf : Bool
  ext : Option DWord
  deriving DecidableEq, Repr

/-- Reduction piece (R420, R433): plan, chunk, first element and the partial accumulators of one device. -/
structure RedPiece where
  plan : DWord
  chunk : Nat
  ranks : Nat
  header : List Word
  accs : List RedAcc
  deriving DecidableEq, Repr

/-- What a link receiver finds of one flit (R420, R422): its SEQ and KIND, the ACK and CRED it carries, whether its tag
verifies and every codeword was corrected. -/
structure RxFlit where
  seq : BitVec 16
  ack : BitVec 16
  kind : Nat
  cred : Nat
  tagGood : Bool
  fecGood : Bool
  deriving DecidableEq, Repr

/-- What the width policy of a transmitter saw (R423): utilisation below 25 % for 20 us, above 75 % over 2 us, and the
queue length in flits. -/
structure WidthSense where
  idle20 : Bool
  busy2 : Bool
  queue : Nat
  deriving DecidableEq, Repr

/-- Device registers with no behaviour of their own that the firmware, the agent or the host writes (R406, R423, R427,
R432, R440). -/
inductive DevReg where
  | linkWpol (link : Nat)
  | linkThresh (link : Nat)
  | window (w word : Nat)
  | traceSelect (core word : Nat)
  | route (device link : Nat)
  | deviceId
  | groupSize
  | groupRank
  | breakpoints (launch : Nat)
  | recording
  | mailboxLen
  | mailboxBuf (word : Nat)
  deriving DecidableEq, Repr

/-- Operands of MAP (R440, R244): virtual address, size, page size (0: 64 KiB, 1: 2 MiB, 2: 1 GiB), rights, and the
physical address in the named tier that the firmware chose. -/
structure MapReq where
  va : DWord
  size : DWord
  level : Nat
  x : Bool
  w : Bool
  r : Bool
  pa : DWord
  deriving DecidableEq, Repr

/-- Operands of REGIONS (R440): base and size of the profiling, trace, log and task-arena regions. -/
structure RegionReq where
  profile : DWord
  profileSize : DWord
  trace : DWord
  traceSize : DWord
  log : DWord
  logSize : DWord
  arena : DWord
  arenaSize : DWord
  deriving DecidableEq, Repr

/-- What one step of bring-up finds (R439): whether its verification passed, and what the firmware writes. -/
structure BringUp where
  good : Bool
  err : Nat
  cxl0 : Nat
  cxl1 : Nat
  root : DWord
  qtbase : DWord
  saveArena : DWord
  codeArena : DWord
  deadLinks : List Nat
  deriving DecidableEq, Repr

/-- One constructor per row of spec/opcode_table.json, in the table's order. -/
inductive Instr where
  /-- `IADD` (R120). -/
  | iadd (o : LForm)
  /-- `ISUB` (R120). -/
  | isub (o : LForm)
  /-- `IMUL` (R120). -/
  | imul (o : LForm)
  /-- `IMULH` (R120). -/
  | imulh (o : LForm)
  /-- `LANE_UMULH` (R120). -/
  | laneUmulh (o : LForm)
  /-- `IMAD` (R120). -/
  | imad (o : LqForm)
  /-- `IAND` (R120). -/
  | iand (o : LForm)
  /-- `IOR` (R120). -/
  | ior (o : LForm)
  /-- `IXOR` (R120). -/
  | ixor (o : LForm)
  /-- `INOT` (R120). -/
  | inot (o : LForm)
  /-- `INEG` (R120). -/
  | ineg (o : LForm)
  /-- `SHL` (R120). -/
  | shl (o : LForm)
  /-- `SHR` (R120). -/
  | shr (o : LForm)
  /-- `SAR` (R120). -/
  | sar (o : LForm)
  /-- `ROL` (R120). -/
  | rol (o : LForm)
  /-- `ROR` (R120). -/
  | ror (o : LForm)
  /-- `IMIN` (R120). -/
  | imin (o : LForm)
  /-- `IMAX` (R120). -/
  | imax (o : LForm)
  /-- `LANE_UMIN` (R120). -/
  | laneUmin (o : LForm)
  /-- `LANE_UMAX` (R120). -/
  | laneUmax (o : LForm)
  /-- `IABS` (R120). -/
  | iabs (o : LForm)
  /-- `POPC` (R120). -/
  | popc (o : LForm)
  /-- `CLZ` (R120). -/
  | clz (o : LForm)
  /-- `BREV` (R120). -/
  | brev (o : LForm)
  /-- `BFE` (R122). -/
  | bfe (o : LqForm)
  /-- `BFI` (R122). -/
  | bfi (o : LqForm)
  /-- `IADDS` (R120). -/
  | iadds (o : LForm)
  /-- `ISUBS` (R120). -/
  | isubs (o : LForm)
  /-- `SEL` (R123). -/
  | sel (o : LqForm)
  /-- `MOV` (R123). -/
  | mov (o : LForm)
  /-- `SWAP` (R123). -/
  | swap (o : LForm)
  /-- `ICMP` (R124). -/
  | icmp (o : LqForm)
  /-- `FCMP` (R125). -/
  | fcmp (o : LqForm)
  /-- `LREAD` (R126). -/
  | lread (o : LqForm)
  /-- `FADD` (R127). -/
  | fadd (o : LForm)
  /-- `FSUB` (R127). -/
  | fsub (o : LForm)
  /-- `FMUL` (R127). -/
  | fmul (o : LForm)
  /-- `FFMA` (R127). -/
  | ffma (o : LqForm)
  /-- `FFMA3` (R127). -/
  | ffma3 (o : LqForm)
  /-- `FMIN` (R128). -/
  | fmin (o : LForm)
  /-- `FMAX` (R128). -/
  | fmax (o : LForm)
  /-- `FABS` (R128). -/
  | fabs (o : LForm)
  /-- `FNEG` (R128). -/
  | fneg (o : LForm)
  /-- `FDIV` (R129). -/
  | fdiv (o : LForm)
  /-- `FSQRT` (R129). -/
  | fsqrt (o : LForm)
  /-- `FRCP` (R129). -/
  | frcp (o : LForm)
  /-- `FRSQ` (R129). -/
  | frsq (o : LForm)
  /-- `FEXP2` (R129). -/
  | fexp2 (o : LForm)
  /-- `FLOG2` (R129). -/
  | flog2 (o : LForm)
  /-- `FSIN` (R129). -/
  | fsin (o : LForm)
  /-- `FCOS` (R129). -/
  | fcos (o : LForm)
  /-- `FTANH` (R129). -/
  | ftanh (o : LForm)
  /-- `FSIGM` (R129). -/
  | fsigm (o : LForm)
  /-- `FRINT` (R128). -/
  | frint (o : LqForm)
  /-- `FSCALE` (R127). -/
  | fscale (o : LForm)
  /-- `FCLASS` (R128). -/
  | fclass (o : LForm)
  /-- `PADD` (R131). -/
  | padd (o : LqForm)
  /-- `PSUB` (R131). -/
  | psub (o : LqForm)
  /-- `PMUL` (R131). -/
  | pmul (o : LqForm)
  /-- `PFMA` (R131). -/
  | pfma (o : LqForm)
  /-- `PMIN` (R131). -/
  | pmin (o : LqForm)
  /-- `PMAX` (R131). -/
  | pmax (o : LqForm)
  /-- `PABS` (R131). -/
  | pabs (o : LqForm)
  /-- `PNEG` (R131). -/
  | pneg (o : LqForm)
  /-- `PSHL` (R131). -/
  | pshl (o : LqForm)
  /-- `PSHR` (R131). -/
  | pshr (o : LqForm)
  /-- `PSAR` (R131). -/
  | psar (o : LqForm)
  /-- `PAVG` (R131). -/
  | pavg (o : LqForm)
  /-- `PCMP` (R133). -/
  | pcmp (o : LqForm)
  /-- `PDOT` (R132). -/
  | pdot (o : LqForm)
  /-- `PSAD` (R132). -/
  | psad (o : LqForm)
  /-- `CVT` (R134). -/
  | cvt (o : LqForm)
  /-- `PACK` (R135). -/
  | pack (o : LqForm)
  /-- `UNPK` (R135). -/
  | unpk (o : LqForm)
  /-- `QBLK` (R136). -/
  | qblk (o : LqForm)
  /-- `DQBLK` (R137). -/
  | dqblk (o : LqForm)
  /-- `SHFL` (R138). -/
  | shfl (o : LqForm)
  /-- `SHFLX` (R138). -/
  | shflx (o : LqForm)
  /-- `SHFLU` (R138). -/
  | shflu (o : LqForm)
  /-- `SHFLD` (R138). -/
  | shfld (o : LqForm)
  /-- `BPICK` (R139). -/
  | bpick (o : LqForm)
  /-- `SCAN` (R140). -/
  | scan (o : LqForm)
  /-- `LD` (R273). -/
  | ld (o : LmForm)
  /-- `LDX` (R274). -/
  | ldx (o : LmForm)
  /-- `ST` (R273). -/
  | st (o : LmForm)
  /-- `XCHG` (R277). -/
  | xchg (o : LmForm)
  /-- `LDBLK` (R275). -/
  | ldblk (o : LmForm)
  /-- `STBLK` (R276). -/
  | stblk (o : LmForm)
  /-- `ATOM` (R279). -/
  | atom (o : LmForm)
  /-- `ACAS` (R279). -/
  | acas (o : LmForm)
  /-- `ACC` (R280). -/
  | acc (o : LmForm)
  /-- `PFETCH` (R281). -/
  | pfetch (o : LmForm)
  /-- `LDS` (R273). -/
  | lds (o : LmForm)
  /-- `STS` (R273). -/
  | sts (o : LmForm)
  /-- `XCHGS` (R277). -/
  | xchgs (o : LmForm)
  /-- `ATOMS` (R279). -/
  | atoms (o : LmForm)
  /-- `LDF` (R282). -/
  | ldf (o : LmForm)
  /-- `LDSX` (R274). -/
  | ldsx (o : LmForm)
  /-- `QPUSH` (R220). -/
  | qpush (o : LForm)
  /-- `QPOP` (R220). -/
  | qpop (o : LForm)
  /-- `QPEEK` (R220). -/
  | qpeek (o : LForm)
  /-- `UADD` (R94). -/
  | uadd (o : UForm)
  /-- `USUB` (R94). -/
  | usub (o : UForm)
  /-- `UMUL` (R94). -/
  | umul (o : UForm)
  /-- `UMULH` (R94). -/
  | umulh (o : UForm)
  /-- `UAND` (R94). -/
  | uand (o : UForm)
  /-- `UOR` (R94). -/
  | uor (o : UForm)
  /-- `UXOR` (R94). -/
  | uxor (o : UForm)
  /-- `UNOT` (R94). -/
  | unot (o : UForm)
  /-- `USHL` (R94). -/
  | ushl (o : UForm)
  /-- `USHR` (R94). -/
  | ushr (o : UForm)
  /-- `USAR` (R94). -/
  | usar (o : UForm)
  /-- `UROL` (R94). -/
  | urol (o : UForm)
  /-- `UMIN` (R94). -/
  | umin (o : UForm)
  /-- `UMAX` (R94). -/
  | umax (o : UForm)
  /-- `UMOV` (R94). -/
  | umov (o : UForm)
  /-- `USWAP` (R95). -/
  | uswap (o : UForm)
  /-- `UADDI` (R96). -/
  | uaddi (o : UiForm)
  /-- `UMOVI` (R96). -/
  | umovi (o : UiForm)
  /-- `UMOVH` (R96). -/
  | umovh (o : UiForm)
  /-- `UXORI` (R96). -/
  | uxori (o : UiForm)
  /-- `UADD64` (R97). -/
  | uadd64 (o : UForm)
  /-- `UMOV64` (R97). -/
  | umov64 (o : UForm)
  /-- `UCMP` (R98). -/
  | ucmp (o : UeForm)
  /-- `NOP` (R99). -/
  | nop (o : UForm)
  /-- `USEL` (R101). -/
  | usel (o : UxForm)
  /-- `UBFE` (R101). -/
  | ubfe (o : UxForm)
  /-- `UBFI` (R101). -/
  | ubfi (o : UxForm)
  /-- `UPOPC` (R101). -/
  | upopc (o : UxForm)
  /-- `UCLZ` (R101). -/
  | uclz (o : UxForm)
  /-- `BR` (R102). -/
  | br (o : UbForm)
  /-- `BRZ` (R102). -/
  | brz (o : UcForm)
  /-- `BRNZ` (R102). -/
  | brnz (o : UcForm)
  /-- `CALL` (R103). -/
  | call (o : UbForm)
  /-- `RET` (R104). -/
  | ret (o : UForm)
  /-- `JMPR` (R105). -/
  | jmpr (o : UForm)
  /-- `BRL` (R204). -/
  | brl (o : UcForm)
  /-- `BRLZ` (R204). -/
  | brlz (o : UcForm)
  /-- `REGANG` (R206). -/
  | regang (o : UForm)
  /-- `EXIT` (R207). -/
  | exit (o : UForm)
  /-- `MBALLOT` (R208). -/
  | mballot (o : UForm)
  /-- `VOTE` (R209). -/
  | vote (o : UForm)
  /-- `RDLANE` (R210). -/
  | rdlane (o : UForm)
  /-- `WRLANE` (R210). -/
  | wrlane (o : UForm)
  /-- `ULD` (R285). -/
  | uld (o : UeForm)
  /-- `UST` (R285). -/
  | ust (o : UeForm)
  /-- `UATOM` (R286). -/
  | uatom (o : UeForm)
  /-- `UXCHG` (R285). -/
  | uxchg (o : UxForm)
  /-- `UACAS` (R286). -/
  | uacas (o : UxForm)
  /-- `BAR` (R291). -/
  | bar (o : UeForm)
  /-- `BARA` (R291). -/
  | bara (o : UeForm)
  /-- `BARI` (R292). -/
  | bari (o : UxForm)
  /-- `WAITQ` (R293). -/
  | waitq (o : UeForm)
  /-- `WAKE` (R293). -/
  | wake (o : UeForm)
  /-- `FENCE` (R294). -/
  | fence (o : UForm)
  /-- `WAITC` (R115). -/
  | waitc (o : UForm)
  /-- `WAITK` (R356). -/
  | waitk (o : UForm)
  /-- `COMMIT` (R22). -/
  | commit (o : UForm)
  /-- `REWIND` (R23). -/
  | rewind (o : UForm)
  /-- `REWINDT` (R24). -/
  | rewindt (o : UxForm)
  /-- `HPUSH` (R112). -/
  | hpush (o : UForm)
  /-- `HPOP` (R112). -/
  | hpop (o : UForm)
  /-- `SPAWN` (R212). -/
  | spawn (o : UeForm)
  /-- `TEND` (R214). -/
  | tend (o : UForm)
  /-- `TJOIN` (R213). -/
  | tjoin (o : UForm)
  /-- `TCLAIM` (R215). -/
  | tclaim (o : UForm)
  /-- `QPOST` (R216). -/
  | qpost (o : UeForm)
  /-- `QSTAT` (R223). -/
  | qstat (o : UxForm)
  /-- `RFLUSH` (R295). -/
  | rflush (o : UxForm)
  /-- `TWAIT` (R296). -/
  | twait (o : UxForm)
  /-- `COPY` (R345). -/
  | copy (o : UeForm)
  /-- `GATHER` (R346). -/
  | gather (o : UxForm)
  /-- `LAYCHK` (R347). -/
  | laychk (o : UxForm)
  /-- `MMA` (R349). -/
  | mma (o : UeForm)
  /-- `ZNEW` (R350). -/
  | znew (o : UForm)
  /-- `ZCLR` (R350). -/
  | zclr (o : UxForm)
  /-- `ZRD` (R351). -/
  | zrd (o : UeForm)
  /-- `ZST` (R352). -/
  | zst (o : UxForm)
  /-- `COLL` (R354). -/
  | coll (o : UeForm)
  /-- `LEAVE` (R357). -/
  | leave (o : UxForm)
  /-- `TRAP` (R113). -/
  | trap (o : UiForm)
  /-- `TRET` (R30). -/
  | tret (o : UxForm)
  /-- `YIELD` (R389). -/
  | yield (o : UxForm)
  /-- `SNAP` (R403). -/
  | snap (o : UxForm)
  /-- `TMARK` (R403). -/
  | tmark (o : UxForm)
  /-- `DBRK` (R403). -/
  | dbrk (o : UxForm)
  /-- Event `STALL_CYCLE` (R191). -/
  | stallCycle (co : Nat)
  /-- Event `ILLEGAL_INSTRUCTION` (R72). -/
  | illegalInstruction (word ext : Word)
  /-- Event `RESULT_LANDING` (R65). -/
  | resultLanding (co st k : Nat)
  /-- Event `CHECK_MISMATCH` (R25). -/
  | checkMismatch (co st : Nat) (count : DWord)
  /-- Event `LATE_FAULT` (R27). -/
  | lateFault (co : Nat)
  /-- Event `PAGE_WALK` (R245). -/
  | pageWalk (die : Nat) (va : DWord)
  /-- Event `CODE_FILL` (R63). -/
  | codeFill (launch : Nat) (line : DWord)
  /-- Event `LINE_FILL` (R236). -/
  | lineFill (core line : Nat)
  /-- Event `STORE_ACK` (R257). -/
  | storeAck (co st : Nat)
  /-- Event `HORIZON_PASSED` (R257). -/
  | horizonPassed (co st : Nat)
  /-- Event `RDC_FILL` (R416). -/
  | rdcFill (die line : Nat)
  /-- Event `L1_WRITEBACK_TIMER` (R253). -/
  | l1WritebackTimer (core : Nat)
  /-- Event `UPDATE_ONLY_REQUEST` (R239). -/
  | updateOnlyRequest (slice : Nat)
  /-- Event `ACC_WINDOW_ROLLOVER` (R239). -/
  | accWindowRollover (slice : Nat)
  /-- Event `EDDY_AGE_EXPIRY` (R242). -/
  | eddyAgeExpiry (block : Nat)
  /-- Event `FORCED_DELIVERY` (R242). -/
  | forcedDelivery (block : Nat)
  /-- Event `STORE_ARRIVAL` (R451). -/
  | storeArrival (k : Nat)
  /-- Event `LINK_ENTRY_ARRIVAL` (R332). -/
  | linkEntryArrival (k : Nat)
  /-- Event `COPY_COMPLETION` (R320). -/
  | copyCompletion (core k : Nat)
  /-- Event `COPY_FAULT` (R321). -/
  | copyFault (core k : Nat)
  /-- Event `REPORT_DELIVERY` (R343). -/
  | reportDelivery (co : Nat)
  /-- Event `MMA_EXECUTE` (R349). -/
  | mmaExecute (pair : Nat)
  /-- Event `MMA_CHECK` (R329). -/
  | mmaCheck (pair : Nat) (agree : Bool)
  /-- Event `ZST_ENGINE` (R353). -/
  | zstEngine (core k : Nat)
  /-- Event `COLL_CHUNK` (R336). -/
  | collChunk (plan : DWord) (chunk rank : Nat)
  /-- Event `LAUNCH_RECORD` (R183). -/
  | launchRecord (queue : Nat)
  /-- Event `BLOCK_PLACEMENT` (R185). -/
  | blockPlacement (launch : Nat)
  /-- Event `LAUNCH_COMPLETION` (R183). -/
  | launchCompletion (launch : Nat)
  /-- Event `TASK_GATHER` (R195). -/
  | taskGather (launch : Nat)
  /-- Event `PRESS` (R200). -/
  | press (entry : DWord)
  /-- Event `LEAVE_GRANT` (R193). -/
  | leaveGrant (die : Nat)
  /-- Event `SLUICE_LEND` (R193). -/
  | sluiceLend (die : Nat)
  /-- Event `LEAVE_CHAIN_RELEASE` (R192). -/
  | leaveChainRelease (co tile : Nat)
  /-- Event `LEAVE_UNUSED_EXPIRY` (R358). -/
  | leaveUnusedExpiry (co : Nat)
  /-- Event `PREEMPT_REQUEST` (R187). -/
  | preemptRequest (launch : Nat)
  /-- Event `PREEMPT_TRAP` (R387). -/
  | preemptTrap (co : Nat)
  /-- Event `FORCED_SAVE` (R393). -/
  | forcedSave (co : Nat)
  /-- Event `BLOCK_LEAVE` (R391). -/
  | blockLeave (block : Nat)
  /-- Event `BLOCK_RESTORE` (R392). -/
  | blockRestore (block : Nat)
  /-- Event `FIRMWARE_ABORT` (R384). -/
  | firmwareAbort (launch : Nat)
  /-- Event `FIRMWARE_RESUME` (R384). -/
  | firmwareResume (co : Nat)
  /-- Event `FIRMWARE_PRESS_RESUME` (R218). -/
  | firmwarePressResume (entry : DWord)
  /-- Event `FIRMWARE_DECLARE_INVALID` (R245). -/
  | firmwareDeclareInvalid (va : DWord)
  /-- Event `HALT_REQUEST` (R399). -/
  | haltRequest (co : Nat)
  /-- Event `PROGRAM_BUFFER` (R400). -/
  | programBuffer (co : Nat) (words : List Word)
  /-- Event `DARG_WRITE` (R401). -/
  | dargWrite (value : DWord)
  /-- Event `RESUME` (R402). -/
  | resume (co : Nat)
  /-- Event `SINGLE_STEP` (R402). -/
  | singleStep (co : Nat)
  /-- Event `RESUME_AT_PC` (R402). -/
  | resumeAtPc (co : Nat) (pc : DWord)
  /-- Event `TRACE_TIME_PACKET` (R407). -/
  | traceTimePacket (core : Nat)
  /-- Event `TRACE_SUMMARY` (R407). -/
  | traceSummary (co : Nat)
  /-- Event `TRACE_ROOM_RETURN` (R408). -/
  | traceRoomReturn (core : Nat)
  /-- Event `SNAPSHOT_AGENT_TRIGGER` (R409). -/
  | snapshotAgentTrigger
  /-- Event `SNAPSHOT_INPUT` (R409). -/
  | snapshotInput
  /-- Event `SNAPSHOT_ARM` (R409). -/
  | snapshotArm (block : Nat)
  /-- Event `CROSSBAR_PACKET` (R415). -/
  | crossbarPacket (channel : Nat) (crcGood : Bool)
  /-- Event `FLIT_RECEIVE` (R422). -/
  | flitReceive (link : Nat) (flit : RxFlit)
  /-- Event `NAK` (R422). -/
  | nak (link : Nat) (seq : BitVec 16)
  /-- Event `WREQ` (R424). -/
  | wreq (link : Nat) (mask : Byte)
  /-- Event `WCHG` (R424). -/
  | wchg (link : Nat) (mask : Byte)
  /-- Event `WACK` (R424). -/
  | wack (link : Nat) (seq : BitVec 16)
  /-- Event `RETRAIN_WINDOW` (R425). -/
  | retrainWindow (link wave count : Nat)
  /-- Event `TRAINING_COMPLETE` (R425). -/
  | trainingComplete (link wave count : Nat)
  /-- Event `WIDTH_POLICY` (R423). -/
  | widthPolicy (link : Nat) (sense : WidthSense)
  /-- Event `LINK_REKEY` (R444). -/
  | linkRekey (link : Nat)
  /-- Event `READ` (R420). -/
  | read (h : FabHead) (size : Nat)
  /-- Event `WRITE` (R430). -/
  | write (h : FabHead) (mask : List Bool) (data : List Byte)
  /-- Event `READ_MODIFY_WRITE` (R420). -/
  | readModifyWrite (h : FabHead) (op : FabOp)
  /-- Event `ACCUMULATE` (R428). -/
  | accumulate (h : FabHead) (op : Nat) (addend : DWord)
  /-- Event `ARRIVE` (R431). -/
  | arrive (h : FabHead) (designator : DWord)
  /-- Event `RESPONSE` (R429). -/
  | response (tid : Word) (good : Bool) (data : List Byte)
  /-- Event `WRITE_ACKNOWLEDGEMENT` (R430). -/
  | writeAcknowledgement (tid : Word) (good : Bool)
  /-- Event `REDUCTION_PIECE` (R433). -/
  | reductionPiece (h : FabHead) (piece : RedPiece)
  /-- Event `CHUNK_BIT` (R434). -/
  | chunkBit (h : FabHead) (plan : DWord) (rank chunk : Nat)
  /-- Event `HOST_WRITE` (R264). -/
  | hostWrite (offset : Nat) (data : List Byte)
  /-- Event `HOST_READ` (R437). -/
  | hostRead (offset len : Nat)
  /-- Event `DOORBELL_TICKET` (R437). -/
  | doorbellTicket (queue : Nat)
  /-- Event `DOORBELL_HEAD` (R437). -/
  | doorbellHead (queue : Nat)
  /-- Event `APBASE_WRITE` (R438). -/
  | apbaseWrite (value : DWord)
  /-- Event `REGISTER_WRITE` (R423). -/
  | registerWrite (reg : DevReg) (value : Word)
  /-- Event `MAP` (R440). -/
  | map (r : MapReq)
  /-- Event `UNMAP` (R441). -/
  | unmap (va size : DWord)
  /-- Event `SETREG_BASE_ALLOWANCE` (R440). -/
  | setregBaseAllowance (watts : Nat)
  /-- Event `SETREG_ACC_CONTROL` (R239). -/
  | setregAccControl (slice : Nat) (value : Word)
  /-- Event `SETREG_LEASE` (R255). -/
  | setregLease (slice : Nat) (value : Word)
  /-- Event `SETREG_DEBUG_KEY` (R445). -/
  | setregDebugKey (digest : List Byte)
  /-- Event `ATTEST` (R442). -/
  | attest (nonce : List Byte)
  /-- Event `SESSION` (R443). -/
  | session (ciphertext : List Byte)
  /-- Event `DEBUG` (R445). -/
  | debugReq (key signature : List Byte)
  /-- Event `REGIONS` (R440). -/
  | regions (r : RegionReq)
  /-- Event `STATS` (R440). -/
  | stats
  /-- Event `RESET` (R440). -/
  | reset
  /-- Event `BRING_UP` (R439). -/
  | bringUp (b : BringUp)
  /-- Event `POWER_SAMPLE` (R446). -/
  | powerSample (watts : Nat) (temps : List Nat)
  /-- Event `CLOCK_STEP_DOWN` (R446). -/
  | clockStepDown
  /-- Event `CLOCK_STEP_UP` (R446). -/
  | clockStepUp
  /-- Event `THERMAL_TRIP` (R446). -/
  | thermalTrip
  /-- Event `MCTP_CONTROL` (R448). -/
  | mctpControl (message : List Byte)
  /-- Event `PLDM_MONITORING` (R448). -/
  | pldmMonitoring (sensor : Nat)
  /-- Event `VENDOR_ATTEST` (R448). -/
  | vendorAttest (nonce : List Byte)
  /-- Event `PLACEMENT_REPORT` (R432). -/
  | placementReport (launch device : Nat) (status : Option Byte)
  /-- Event `RELIGHT` (R423). -/
  | relight (link wave : Nat)
  deriving DecidableEq, Repr

end Sys2Proof
end

