-- ==== Sys2Proof/Config.lean ====
section
/-! DEFINITION. What the spec leaves to an implementation, and the free values: constants without a body, so that no
proof can see what they are. Each is named in the assumption log. -/

namespace Sys2Proof.Config

/-- Further cycles that one move takes beyond its first: the spec gives times only as bounds and nominal figures
(log 2). FREE VALUE, applied to the tick of the move. -/
opaque stepCycles : Nat → Nat

/-- The byte of a device memory address that nothing has written (log 3). DESIGN CHOICE. -/
def blankByte : Byte := 0

/-- The byte of a scratchpad offset that nothing has written (10 R228, log 4). DESIGN CHOICE. -/
def blankScratch : Byte := 0

/-- Bytes of a scratchpad that a restored block did not keep (19 R392, log 4). FREE VALUE, applied to the tick of the
restore and the offset. -/
opaque lostByte : Nat → Nat → Byte

/-- Which of the representable values around an inexact result a special function delivers (05 R129, log 8). FREE
VALUE: one fixed function of the instruction (its opcode), the input bits and FTZ. -/
opaque ulpPick : Nat → Word → Bool → Nat
/-- FSIN on inputs that R129 does not list as exact or special (log 8). FREE VALUE, used where it lies within the
bound. -/
opaque fsin : Word → Bool → Word
/-- FCOS, as `fsin` (log 8). FREE VALUE. -/
opaque fcos : Word → Bool → Word

/-- The shared secret that decapsulating a ciphertext gives (22 R443, log 9). FREE VALUE. -/
opaque sessionKey : List Byte → List Byte
/-- The 8,922 bytes of an attestation report beyond the nonce and flags (22 R442, log 9). FREE VALUE: the digest, keys
and signature, applied to nonce, version and flag bits. -/
opaque attestBytes : List Byte → Nat → List Byte
/-- SHA3-512 (22 R439, R445, log 9). FREE VALUE. -/
opaque sha3 : List Byte → List Byte
/-- ML-DSA-87 verification of a signed debug challenge: key, signature (22 R445, log 9). FREE VALUE. -/
opaque verifies : List Byte → List Byte → Bool
/-- The link that the route hash picks, an index into the links of the set that are up (21 R426, log 20). FREE VALUE,
applied to device, address bits and set size. -/
opaque routeHash : Nat → Nat → Nat → Nat
/-- The root die that the engine chooses for a chunk of KIND 0 or 4 (15 R335, log 20). FREE VALUE. -/
opaque chunkRoot : Nat → Nat → Nat
/-- Firmware image version and count of blown rollback fuses (22 R442, log 9). FREE VALUES. -/
opaque imageVersion : Nat
/-- Response of the management port to an MCTP control message (22 R448, log 9). FREE VALUE. -/
opaque mctpAnswer : List Byte → List Byte

end Sys2Proof.Config
end

