-- ==== Sys2Proof/Machine/State.lean ====
section
/-! DEFINITION. The state of the module: everything the spec gives the machine, as plain data, and its state after
reset. One cohort, with one of its strands, stands in focus (`co`, `co.st`): the instruction meanings act on it; the
others are in `others` and `sibs`. -/

namespace Sys2Proof.Machine

/-- What stops the machine. -/
inductive Fault where
  /-- A step after the thermal trip cut the power (22 R446): all state is lost and nothing runs. Safe. -/
  | poweredOff
  deriving DecidableEq, Repr

/-- What the model has no meaning for. -/
inductive Refusal where
  /-- An instruction without a meaning yet, by mnemonic. Safe. -/
  | notModelled (mnemonic : String)
  deriving DecidableEq, Repr

/-- Bytes by address, in canonical form: addresses rising, no entry equal to the blank byte. -/
abbrev Mem := List Host.Cell

/-- Bytes at offsets of a scratchpad, in the same form. -/
abbrev Scratch := List Host.Cell

/-! ### History (01 R14-R19, 07 R163) -/

/-- One merged strand of a Rejoin record (01 R18 kind 6): id, mask, held set and count bits 31:0 at arrival. -/
structure RejoinPart where
  id : Nat
  mask : LaneSet
  held : LaneSet
  count : Word
  deriving DecidableEq, Repr

/-- Kind and payload of a whey record (01 R18). -/
inductive RecBody where
  /-- kind 1: destination, lane mask, old values of the masked lanes in ascending order -/
  | lane (v : Nat) (mask : LaneSet) (old : List Word)
  /-- kind 2: operand code, old value -/
  | uni (code : Nat) (old : Word)
  /-- kind 3: lane (127 for a uniform access), scratchpad, address, old and new bytes -/
  | mem (lane : Nat) (sp : Bool) (addr : DWord) (old new : List Byte)
  /-- kind 4: RUN and predecessor -/
  | come (run : Nat) (pred : DWord)
  /-- kind 5: taken and not-taken ids, SER, JN, taken and not-taken masks, address -/
  | div (taken notTaken : Nat) (ser jn : Bool) (tmask nmask : LaneSet) (addr : DWord)
  /-- kind 6: resulting id, merged strands, `REGANG` address -/
  | rejoin (result : Nat) (parts : List RejoinPart) (addr : DWord)
  /-- kind 7: the three mask registers -/
  | mask (old : LaneSet)
  /-- kind 8: the sticky flags before the instruction -/
  | flags (old : BitVec 5)
  deriving DecidableEq, Repr

/-- A whey record: pusher, word B, body. -/
structure Rec where
  strand : Nat
  count : Word
  body : RecBody
  deriving DecidableEq, Repr

/-- A reconvergence entry (07 R163). -/
structure Entry where
  parent : Nat
  cha : Nat
  chb : Nat
  ser : Bool
  join : Option DWord
  second : Bool
  arra : Bool
  arrb : Bool
  pmask : LaneSet
  dmask : LaneSet
  dstart : DWord
  deriving DecidableEq, Repr

/-- What ends a walk: nothing more (`REWIND`, and any walk that `TRET` takes up again), the trap of `REWINDT`, or
re-execution (a walk of the device, 01 R25). -/
inductive WalkKind where
  | plain | trap | device
  deriving DecidableEq, Repr

/-- A pending or running reverse walk (01 R23, R30): target count, strand, kind. -/
structure Walk where
  target : DWord
  strand : Nat
  kind : WalkKind
  deriving DecidableEq, Repr

/-! ### What a strand waits for (08 R191) -/

/-- A resource behind park code 12. -/
inductive Res where
  /-- a `%tickets` field at its maximum (04 R93): class index 0-5 -/
  | ticket (cls : Nat)
  /-- all 128 miss-status entries taken (10 R236) -/
  | mse
  /-- an answer to this strand's accumulate, or a full eddy tile (10 R241, 12 R280) -/
  | eddy
  /-- an answer to the accumulate with which a walk undoes one (12 R280) -/
  | undoing
  /-- the forced deliveries of an `RFLUSH` still to be made (12 R295) -/
  | flush (left : Nat)
  /-- acknowledgements and the horizon of a release (11 R257); `time` when the horizon counts -/
  | acks (time : Bool)
  /-- room in the task arena (08 R199) -/
  | arena
  /-- earlier `MMA`s of the strand still read scratchpad operands (15 R330) -/
  | reading
  /-- a copy slot (15 R311) -/
  | slot
  /-- a fresh tile pair (15 R328) -/
  | tile
  /-- whey records of an unchecked instruction (19 R382) -/
  | whey
  deriving DecidableEq, Repr

/-- An entry still to be posted by a `SPAWN` or `QPOST` that holds its ticket (08 R177, 09 R212, R216). -/
structure PostEntry where
  ticket : Nat
  bytes : List Byte
  deriving DecidableEq, Repr

/-- A fabric message whose answer an instruction awaits (21 R429): transaction, lane, address, and the answer: good or
not, data. -/
structure FabWait where
  tid : Word
  lane : Nat
  va : DWord
  answer : Option (Bool × List Byte)
  deriving DecidableEq, Repr

/-- Why a strand is parked, with what its instruction holds while it waits (08 R191). -/
inductive Wait where
  /-- code 1: settle marker, or a write waiting on an outstanding result -/
  | settle
  /-- code 1: a walk waits for the outstanding results of every strand (01 R23) -/
  | landed
  /-- code 2: `WAITC` with class mask and threshold -/
  | waitc (classes n : Nat)
  /-- code 3: a scratchpad line, or a peer block that is pre-empted -/
  | line
  /-- code 4: the arrival stands; phase arrived in; the status once the phase completed -/
  | barrier (dsg : DWord) (phase : Bool) (status : Option Word)
  /-- code 4: `BAR.w`, which arrives nowhere -/
  | barW (dsg : DWord) (token : Bool)
  /-- code 5: ticket in a wait queue -/
  | waitq (dsg : DWord) (ticket : Word)
  /-- code 6: `WAITK` on a chunk bit -/
  | chunk (addr : DWord) (bit : Nat)
  /-- code 6: `TWAIT` on a view-table entry -/
  | task (entry : DWord)
  /-- code 6: joins and presses (09 R213, R214) -/
  | join
  /-- code 7: leave of a class -/
  | leave (cls : Nat)
  /-- code 8: the pair's array queue is full -/
  | array
  /-- code 11: parked at `REGANG` -/
  | regang
  /-- code 12 -/
  | resource (r : Res)
  /-- code 13: absent page of an address -/
  | page (va : DWord)
  /-- code 14: a register-mapped queue -/
  | queue (q : Nat)
  /-- code 14: entries still to be posted to a memory queue -/
  | post (q : Nat) (entries : List PostEntry)
  /-- code 15: fetch line -/
  | fill (line : DWord)
  /-- a page walk is running: latency, no park code (19 R385) -/
  | walking (die : Nat) (va : DWord)
  /-- fabric responses are awaited: no park code (21 R429) -/
  | fabric (ms : List FabWait)
  /-- a late fault of this strand's access is to be delivered (01 R27): no park code -/
  | late
  deriving DecidableEq, Repr

/-- Class of a variable-latency result: the fields of `%tickets` (04 R93). -/
inductive ResClass where
  | dm | sp | qr | zr | sf
  deriving DecidableEq, Repr

/-- Values that wait to be written: a vector register in some lanes, or a uniform code. -/
inductive Dest where
  | v (n : Nat) (mask : LaneSet) (vals : List Word)
  | u (code : Nat) (val : Word)
  /-- `ZRD`: registers v d to d+7 in the masked lanes from columns 8g to 8g+7 of a renamed tile (16 R351) -/
  | tile (d g : Nat) (mask : LaneSet) (pair id : Nat)
  deriving DecidableEq, Repr

/-- An outstanding variable-latency result (03 R65): class, count of its instruction, destinations. -/
structure Outst where
  cls : ResClass
  count : DWord
  dests : List Dest
  deriving DecidableEq, Repr

/-- A store of the strand that its home has not acknowledged (11 R257): an id, the line, whether the home lies on another
die, or the transaction of a fabric write (21 R430). -/
structure Unack where
  id : Nat
  line : Nat
  remote : Bool
  tid : Option Word
  deriving DecidableEq, Repr

/-- A report of an engine or of a dropped arrival (16 R343): SUB and address. -/
structure Report where
  sub : Nat
  addr : DWord
  deriving DecidableEq, Repr

/-- A late event of an access: cause, SUB, information (01 R27). -/
structure LateEv where
  code : Nat
  sub : Nat
  info : DWord
  deriving DecidableEq, Repr

/-- A strand (01 R7-R10, 07 R155). -/
structure Strand where
  id : Nat
  /-- program counter -/
  pc : BitVec 56
  /-- `%icnt`:`%icnth` -/
  icnt : DWord
  /-- `%rind`:`%rindh` -/
  floor : DWord
  /-- M(T): `mk0`-`mk2` -/
  mask : LaneSet
  /-- H(T), hidden -/
  held : LaneSet
  /-- `%cfr` -/
  cfr : Word
  outst : List Outst
  park : Option Wait
  /-- passed-over count (08 R189) -/
  passed : Nat
  /-- completion horizon in ns of package time (11 R257) -/
  horizon : Nat
  unacked : List Unack
  /-- fabric error (21 R429) -/
  fabErr : Option DWord
  reports : List Report
  /-- copies in issue order: id, and whether it has completed (15 R311) -/
  copies : List (Nat × Bool)
  late : Option LateEv
  /-- count below which every instruction has passed its check (01 R25) -/
  checked : DWord
  deriving DecidableEq, Repr

/-! ### Cohorts (01 R7, 07, 08) -/

/-- A leave grant of a cohort (08 R192, 16 R358): class, watts, die, tile of a chain or `none` while unused, cycle. -/
structure Grant where
  cls : Nat
  watts : Nat
  die : Nat
  /-- 0: unused; 1: chain of `tile`; 2: copy `tile`; 3: plan -/
  use : Nat
  tile : Nat
  since : Nat
  deriving DecidableEq, Repr

/-- Spawn state of a lane (09 R211). -/
structure SpawnLane where
  own : DWord
  openN : Nat
  last : DWord
  deriving DecidableEq, Repr

/-- Architectural tile: zero mapping, or a renamed pair of half-tiles (15 R327). -/
inductive ZMap where
  | zero
  | pair (id : Nat)
  deriving DecidableEq, Repr

/-- A halted cohort (20 R398, 19 R384): by the agent's sources 0-4 with TAG, by a machine check, or under 01 R29. -/
inductive Halt where
  | debug (source : Nat) (tag : Word) (strand : Nat)
  | check
  | trap
  deriving DecidableEq, Repr

/-- A cohort (01 R7, 07 R153-R158). -/
structure Cohort where
  uid : Nat
  block : Nat
  launch : Nat
  core : Nat
  half : Nat
  slot : Nat
  /-- `%cid` -/
  cid : Nat
  /-- `%block` -/
  blockIdx : Word
  /-- `%lvl0`-`%lvl7` -/
  lvl : List Word
  /-- `%roles` -/
  role : Nat
  /-- declared vector registers -/
  nregs : Nat
  prio : Nat
  started : Nat
  /-- task slot of a task cohort -/
  task : Option Nat
  v : List (List Word)
  /-- `s0`-`s191`; `s0`-`s2` live in the strands -/
  s : List Word
  z : List ZMap
  /-- `%link`:`%linkh` -/
  link : DWord
  fmode : Word
  wheyBase : DWord
  /-- `%wheyl.SZL` -/
  szl : Nat
  /-- whey records, top first -/
  whey : List Rec
  /-- region offset below which the records' image stands in memory (01 R15) -/
  wheyWb : Nat
  /-- reconvergence stack, top first -/
  stack : List Entry
  /-- `%dir.TM` -/
  tm : Bool
  /-- `%dir.DIR` -/
  dir : Bool
  walk : Option Walk
  cause : Word
  tinfo : DWord
  tpc : Word
  /-- `%tpc` has been written in this trap (04 R114) -/
  tpcWritten : Bool
  /-- HBASE and the save words, newest first (04 R112) -/
  hbase : Nat
  hsave : List Word
  /-- strand that trapped (01 R29) -/
  trapped : Nat
  exm : LaneSet
  removed : LaneSet
  qdrop : Byte
  /-- entry of its launch or task (08 R184, R196) -/
  entry : DWord
  handler : DWord
  st : Strand
  sibs : List Strand
  spawn : List SpawnLane
  grants : List Grant
  /-- check mismatches: count and number (01 R26) -/
  mism : List (DWord × Nat)
  /-- a pre-empt request raised at a package time, not yet taken (19 R387) -/
  preempt : Option Nat
  /-- out of the core: yielded or saved by force (19 R389, R393), with KEEPV and ZK -/
  saved : Option (Nat × Nat)
  /-- values of its kept tiles while its block is out of the core (15 R328, 19 R390) -/
  tiles : List (Nat × List (List Word))
  halt : Option Halt
  haltReq : Option Nat
  /-- strand that a single step lets issue (20 R402) -/
  stepping : Option Nat
  /-- running the agent's program buffer (20 R400) -/
  debug : Bool
  /-- stall counters (20 R404) -/
  stalls : List Nat
  /-- under full trace; packets since the last SYNC (20 R406, R408) -/
  traced : Bool
  sinceSync : Nat
  /-- the cohort ended and performs its closing actions (09 R218) -/
  ending : Bool
  /-- the actions of R218 have begun -/
  closing : Bool
  deriving DecidableEq, Repr

/-! ### Blocks and launches (08) -/

/-- Entry of a register-mapped queue (09 R219). -/
structure QEntry where
  words : List Word
  valid : LaneSet
  deriving DecidableEq, Repr

/-- A valid entry of an eddy tile (10 R240) with its hidden age (R241). -/
structure EddyEnt where
  refs : Nat
  op : Nat
  addr : Nat
  addend : DWord
  born : Nat
  deriving DecidableEq, Repr

/-- State of one cohort as a snapshot latches it (20 R409). -/
structure SnapCohort where
  cid : Nat
  strands : List (Nat × DWord × DWord)
  dir : Word
  wheyt : Nat
  width : Nat
  stalls : List Nat
  deriving DecidableEq, Repr

/-- What a snapshot bank holds once latched (20 R409). -/
structure Snap where
  time : Nat
  source : Nat
  tag : Word
  cohorts : List SnapCohort
  deriving DecidableEq, Repr

/-- A block (08 R185, 10 R228). -/
structure Block where
  uid : Nat
  launch : Nat
  index : Nat
  core : Nat
  /-- first scratchpad offset of its range, P, and EDDY -/
  base : Nat
  p : Nat
  eddyN : Nat
  /-- placement group: blocks that share it reside together (07 R150) -/
  group : Option Nat
  started : Nat
  queues : List (List QEntry)
  eddy : List (Option EddyEnt)
  /-- entries forced out of the tile, oldest first, on their way home (10 R242) -/
  forced : List EddyEnt
  /-- largest KEEPS offered (19 R391) -/
  keeps : Nat
  /-- 0 resident, 1 asked to leave, 2 out of its core, 3 ended while copies into it run on -/
  phase : Nat
  /-- kept scratchpad bytes while it is out of its core (19 R390) -/
  image : List Byte
  /-- package time of the pre-empt request (19 R387) -/
  t0 : Option Nat
  armed : Bool
  latched : Option Snap
  lost : Nat
  /-- profiling record (20 R405) -/
  profile : Option DWord
  deriving DecidableEq, Repr

/-- A fetch line pinned for a launch (03 R63). -/
structure Pin where
  line : DWord
  words : List Word
  deriving DecidableEq, Repr

/-- One level of a launch's hierarchy (07 R147). -/
structure Level where
  extent : Nat
  domain : Nat
  scope : Nat
  deriving DecidableEq, Repr

/-- Fields of a launch record (08 R179). -/
structure LaunchRec where
  entry : DWord
  handler : DWord
  args : DWord
  wheyBase : DWord
  szl : Nat
  scratch : Nat
  eddy : Nat
  /-- default, copy, matrix, epilogue -/
  regs : List Nat
  /-- copy, matrix, epilogue -/
  roles : List Nat
  c : Nat
  levels : List Level
  nopre : Bool
  paired : Bool
  prio : Nat
  deps : List (Nat × Word)
  done : DWord
  curds : DWord
  curdn : Nat
  ten : Bool
  tslots : Nat
  taskq : Nat
  tscratch : Nat
  deriving DecidableEq, Repr

/-- What the task controller knows of a task (08 R198-R200): its view-table entry with LEFT, PARENT and DECL, STATE, whether
it was withdrawn (09 R215), the base of its cohort's view block and its lane once started. -/
structure TaskView where
  entry : DWord
  left : DWord
  parent : DWord
  decl : DWord
  st : Nat
  withdrawn : Bool
  base : Nat
  lane : Nat
  deriving DecidableEq, Repr

/-- A press that is due (08 R200, R201): the pressing task, the cohort, strand and lane that made it due, PIDX, and the
cause that stopped it. -/
structure Press where
  entry : DWord
  cohort : Nat
  strand : Nat
  lane : Nat
  pidx : Nat
  stopped : Option Nat
  deriving DecidableEq, Repr

/-- A spawn group whose join has begun (08 R200): its last child and its child 0, and the cohort, strand and lane that
join. -/
structure Join where
  last : DWord
  first : DWord
  cohort : Nat
  strand : Nat
  lane : Nat
  deriving DecidableEq, Repr

/-- A launch (08 R182, R183). -/
structure Launch where
  uid : Nat
  queue : Nat
  seq : Word
  addr : DWord
  record : LaunchRec
  /-- 0 waiting, 1 running, 2 over -/
  phase : Nat
  status : Nat
  /-- blocks in all, blocks placed, blocks ended -/
  blocks : Nat
  placed : Nat
  ended : Nat
  accepted : Nat
  pins : List Pin
  /-- task slots in use -/
  slots : List Nat
  /-- tasks by view-table entry; tickets that `SPAWN` reserved and the queue has not consumed, with their entries -/
  tasks : List TaskView
  queued : List (Nat × DWord)
  /-- closed spawn groups -/
  closed : List Join
  /-- presses that are due, oldest first -/
  presses : List Press
  /-- for a domain-8 launch: devices that have placed their share (21 R432) -/
  peers : List Nat
  /-- package time at the end of a launch whose completion record waits for its page (08 R183) -/
  unwritten : Option Nat
  deriving DecidableEq, Repr

/-! ### Cores (10, 15) -/

/-- A word of an L1 (11 R253): physical word number, value, owned, dirty since a cycle. -/
structure L1Word where
  wa : Nat
  val : Word
  owned : Bool
  dirty : Bool
  since : Nat
  deriving DecidableEq, Repr

/-- A partial sum of an update-only line (10 R238): physical address, operation, value. -/
structure PSum where
  pa : Nat
  op : Nat
  val : DWord
  deriving DecidableEq, Repr

/-- A line held update-only. -/
structure UpdLine where
  line : Nat
  sums : List PSum
  deriving DecidableEq, Repr

/-- A miss-status entry (10 R236): line, cycle, kinds read, ownership, update-only. -/
structure Mse where
  line : Nat
  since : Nat
  read : Bool
  own : Bool
  upd : Bool
  deriving DecidableEq, Repr

/-- A TLB entry (10 R245): virtual base, level of the page (0, 1, 2), physical base, rights X, W, READ. -/
structure TlbEnt where
  va : Nat
  level : Nat
  pa : Nat
  x : Bool
  w : Bool
  r : Bool
  deriving DecidableEq, Repr

/-- Kind of an engine command that occupies a core's engine. -/
inductive CopyKind where
  /-- device memory to scratchpad -/
  | inn
  /-- scratchpad to device memory -/
  | out
  /-- by index list -/
  | gather (idx : List Word)
  /-- tile to scratchpad (16 R352): renamed tile, OFMT, pitch, captured RM and FTZ -/
  | zst (pair : Nat) (tile : Option Nat) (ofmt pitch rm : Nat) (ftz : Bool)
  deriving DecidableEq, Repr

/-- A running engine command (15 R311-R321, 16 R345, R353). -/
structure Copy where
  id : Nat
  kind : CopyKind
  layout : List Word
  origin : List Word
  spm : Nat
  block : Nat
  acq : Bool
  rel : Bool
  scope : Nat
  dsg : Option DWord
  cohort : Nat
  strand : Nat
  /-- lines of the core's scratchpad that it fills -/
  lines : List Nat
  /-- 0: nothing moved; 1: fabric messages are out; 2: moved, completion due at a package time (15 R320) -/
  stage : Nat
  due : Nat
  fab : List FabWait
  deriving DecidableEq, Repr

/-- Trace stream of a core (20 R406-R408): select register words, whether the stream is active, packet words in order,
packets lost. -/
structure Trace where
  sel0 : Word
  sel1 : Word
  words : List Word
  lost : Nat
  deriving DecidableEq, Repr

/-- A core. -/
structure Core where
  sp : Scratch
  /-- poisoned units of 8 scratchpad bytes, ascending (19 R383) -/
  spBad : List Nat
  /-- lines whose presence bit is 0, ascending (10 R232) -/
  absent : List Nat
  l1 : List L1Word
  upd : List UpdLine
  mse : List Mse
  tlb : List TlbEnt
  copies : List Copy
  trace : Trace
  /-- launch that the core is reserved for (08 R186) -/
  reserved : Option Nat
  deriving DecidableEq, Repr

/-- A half-tile pair in use (15 R327, R328): 96 rows of 64 columns once computed, whether its check passed. -/
structure TilePair where
  id : Nat
  vals : Option (List (List Word))
  checked : Bool
  deriving DecidableEq, Repr

/-- A queued command of a pair's array (16 R349): cohort, strand and count, source and result pair, the captured
format block and A rows. -/
structure MmaCmd where
  cohort : Nat
  strand : Nat
  count : DWord
  tile : Nat
  src : Option Nat
  dst : Nat
  fb : List Word
  rows : LaneSet
  a : List (List Word)
  acq : Bool
  scope : Nat
  /-- blocks of the leader and the follower core -/
  leader : Nat
  follower : Nat
  /-- check mismatches so far; queued again after one (15 R329) -/
  miss : Nat
  redo : Bool
  deriving DecidableEq, Repr

/-- A matrix pair (15 R322-R329). -/
structure Pair where
  queue : List MmaCmd
  tiles : List TilePair
  /-- commands run, awaiting their checks, oldest first -/
  checks : List MmaCmd
  next : Nat
  idle : Nat
  deriving DecidableEq, Repr

/-! ### Homes and dies (10 R239, 11 R255, 21 R416) -/

/-- An addend under way (10 R241): block, cohort and strand, physical address, operation, value, and what it carries:
refusals and age. -/
structure AccAdd where
  block : Nat
  cohort : Nat
  strand : Nat
  pa : Nat
  op : Nat
  val : DWord
  carried : Option (Nat × Nat)
  deriving DecidableEq, Repr

/-- An update-only request of a core for a line at its slice (10 R236, R239), with the addends that wait for it. -/
structure AccReq where
  core : Nat
  line : Nat
  adds : List AccAdd
  deriving DecidableEq, Repr

/-- A home slice. -/
structure Slice where
  quota : Nat
  window : Nat
  lease : Nat
  /-- lease floor F, ns -/
  floor : Nat
  /-- LX of each line, ns -/
  lx : List (Nat × Nat)
  /-- grants of the current window by line -/
  grants : List (Nat × Nat)
  windowAt : Nat
  requests : List AccReq
  deriving DecidableEq, Repr

/-- A line of an RDC (21 R416): line, its 32 words, expiry; `words` is `none` while filling. -/
structure RdcLine where
  line : Nat
  words : Option (List Word)
  expiry : Nat
  deriving DecidableEq, Repr

/-- A leave request at a sluice (08 R193): cohort, strand, class, watts, priority. -/
structure LeaveReq where
  cohort : Nat
  strand : Nat
  cls : Nat
  watts : Nat
  prio : Nat
  deriving DecidableEq, Repr

/-- A compute die. -/
structure Die where
  rdc : List RdcLine
  tlb : List TlbEnt
  /-- page walks running, by page base (10 R245) -/
  walks : List Nat
  granted : Nat
  /-- watts borrowed from other dies, and lent to each -/
  borrowed : Nat
  lent : Nat
  waiting : List LeaveReq
  corrected : Nat
  deriving DecidableEq, Repr

/-- An entry on a neighbour link or at a receiving end (09 R219, 15 R332): receiving cluster, queue number there,
launch, entry. -/
structure LinkEntry where
  cluster : Nat
  queue : Nat
  launch : Nat
  entry : QEntry
  deriving DecidableEq, Repr

/-- A store arrival that is still to be made (12 R451): designator, and who made the store. -/
structure Arrival where
  dsg : DWord
  core : Nat
  block : Nat
  cohort : Nat
  strand : Nat
  /-- stores that must be acknowledged first, by id -/
  after : List Nat
  deriving DecidableEq, Repr

/-! ### Collectives, fabric, host (15, 21, 22) -/

/-- A rank that has joined a plan (16 R355). -/
structure RankIn where
  rank : Nat
  cohort : Nat
  strand : Nat
  die : Nat
  /-- chunks whose bit is set -/
  bits : List Nat
  /-- bytes of its source when it joined (15 R336) -/
  src : List Byte
  deriving DecidableEq, Repr

/-- A plan in progress (15 R333-R336). -/
structure Plan where
  addr : DWord
  header : List Word
  joined : List RankIn
  /-- partial accumulators that other devices sent, by chunk, with the ranks they combine (21 R433); chunks whose own
  partial has been sent; results received, by chunk and source rank -/
  partials : List (Nat × Nat × List RedAcc)
  sent : List Nat
  deriving DecidableEq, Repr

/-- An outbound fabric message awaiting its answer (21 R420, R426). -/
structure FabMsg where
  tid : Word
  device : Nat
  link : Option Nat
  kind : Nat
  va : DWord
  target : DWord
  /-- bytes of a write, and which of them it writes -/
  data : List Byte
  mask : List Bool
  op : Option FabOp
  cohort : Nat
  strand : Nat
  /-- lane and byte count of a read -/
  lane : Nat
  size : Nat
  /-- content of a reduction piece -/
  piece : Option RedPiece
  deriving DecidableEq, Repr

/-- A control flit (21 R422, R424). -/
inductive Ctl where
  | wreq (mask : Byte)
  | wchg (mask : Byte)
  | wack (seq : BitVec 16)
  | nak (seq : BitVec 16)
  | rekey
  deriving DecidableEq, Repr

/-- One direction of a link (21 R419-R425). -/
structure LinkDir where
  active : Byte
  bad : Byte
  wpol : Nat
  /-- width step: 0 full, 1 half, 2 quarter -/
  width : Nat
  thresh : Nat
  /-- next SEQ to send; last SEQ in order -/
  seq : BitVec 16
  ack : BitVec 16
  /-- SEQs in the replay buffer, oldest first -/
  replay : List (BitVec 16)
  /-- replays of the oldest flit -/
  fails : Nat
  /-- mask change announced and not complete; good wavelengths asked for meanwhile -/
  pending : Option (Byte × BitVec 16)
  wants : Option Byte
  /-- wavelengths in training -/
  training : Byte
  relit : Byte
  credits : Nat
  /-- flits sent under the current key -/
  flits : Nat
  /-- flits of a reserved kind, and messages of one -/
  discarded : Nat
  /-- control flits sent, newest first -/
  sent : List Ctl
  deriving DecidableEq, Repr

/-- A link (21 R419). -/
structure Link where
  down : Bool
  key : Nat
  rx : LinkDir
  tx : LinkDir
  deriving DecidableEq, Repr

/-- A fabric window (21 R427). -/
structure Window where
  rbase : DWord
  word2 : Word
  deriving DecidableEq, Repr

/-- A packet that its writer keeps until the owner of its channel acknowledges it (21 R413, R415): channel (slice of a
home channel), writing cluster, bytes. -/
structure Packet where
  channel : Nat
  writer : Nat
  bytes : Nat
  deriving DecidableEq, Repr

/-- A record that reaches the debug agent (20 R398, R400). -/
inductive AgentRec where
  | halt (source : Nat) (tag : Word) (core : Nat) (block : Word) (cid strand : Nat) (pc : DWord) (count : DWord)
  | buffer (code sub flags : Nat) (info : DWord)
  | resumeFail (code sub : Nat) (info : DWord)
  deriving DecidableEq, Repr

/-- A report that reaches the supervisor firmware. -/
inductive FwRec where
  /-- a cohort halted in trap mode or by a fatal whey access (01 R16, R29) -/
  | halted (cohort code sub strand : Nat) (info : DWord)
  /-- a machine check (01 R26) -/
  | check (cohort : Nat) (count : Word)
  /-- an absent page on a die (19 R385) -/
  | page (die : Nat) (va : DWord)
  /-- a dead queue (08 R178) -/
  | dead (queue : Nat)
  /-- a press stopped at cohort end (09 R218) -/
  | press (entry : DWord)
  /-- a report or fabric error of an ended cohort (16 R343, 21 R429) -/
  | late (cohort sub : Nat) (addr : DWord)
  /-- a completion record that could not be written (08 R183) -/
  | done (seq : Word) (status : Nat) (addr : DWord)
  deriving DecidableEq, Repr

/-- Kind of a replay log entry (20 R410). -/
inductive LogKind where
  | hostWrite | fabric | time | atomic | refusal | stop
  deriving DecidableEq, Repr

/-- A replay log entry: kind, key (cohort, strand, count or slice) and the values logged. -/
structure LogEnt where
  kind : LogKind
  cohort : Nat
  strand : Nat
  count : DWord
  vals : List DWord
  deriving DecidableEq, Repr

/-- The mailbox (22 R440). -/
structure Mailbox where
  len : Word
  status : Word
  rlen : Word
  disc : Word
  buf : List Byte
  deriving DecidableEq, Repr

/-- What the host, the firmware and the management port see (22). -/
structure HostIf where
  /-- BOOTST.STAGE and ERR -/
  stage : Nat
  err : Nat
  /-- APBASE -/
  apbase : DWord
  mail : Mailbox
  session : Bool
  ideKey : List Byte
  debugKey : List Byte
  debugOpen : Bool
  debugEver : Bool
  regions : Option RegionReq
  droppedWrites : Nat
  /-- last answer of a doorbell or BAR2 read, and whether it aborted -/
  answer : Option (List Byte)
  aborted : Bool
  /-- last response of the management port -/
  mgmt : List Byte
  deriving DecidableEq, Repr

/-- Power and temperature (22 R446, R447). -/
structure Power where
  /-- samples of the last 100 us, newest first -/
  samples : List Nat
  temps : List Nat
  /-- clock step below 1.4 GHz -/
  clk : Nat
  thr : Bool
  /-- samples in a row with a die at 110 C or more -/
  hot : Nat
  telemetry : Word
  tripped : Bool
  /-- time of the last clock step, ns -/
  stepAt : Nat
  deriving DecidableEq, Repr

/-- What the firmware wrote at bring-up (22 R439). -/
structure Setup where
  root : Nat
  qtbase : DWord
  saveArena : DWord
  codeArena : DWord
  base : Nat
  cxl0 : Nat
  cxl1 : Nat
  /-- first unused byte of the page-table arena, and of the task arena -/
  tables : Nat
  arenaNext : Nat
  deriving DecidableEq, Repr

/-- An answer of this device to another's message (21 R420, R430). -/
structure Answer where
  device : Nat
  tid : Word
  good : Bool
  data : List Byte
  due : Nat
  deriving DecidableEq, Repr

/-- Package-wide fabric state (21 R426, R427, R432). -/
structure Fabric where
  windows : List Window
  routes : List (Nat × Nat)
  device : Nat
  gsize : Nat
  grank : Nat
  /-- transactions performed for (source, TID), newest first -/
  performed : List (Nat × Word)
  tid : Word
  out : List FabMsg
  /-- answers to other devices: target, TID, good, data, and the package time that must have passed before it leaves -/
  answers : List Answer
  links : List Link
  deriving DecidableEq, Repr

/-- Debug session and package-wide observation (20). -/
structure Debug where
  darg : DWord
  /-- cohort and words left of the program buffer; what the halted strand waited for before the run (20 R399, R400) -/
  buffer : Option (Nat × List Word)
  held : Option Wait
  breaks : List Nat
  records : List AgentRec
  recording : Bool
  log : List LogEnt
  profNext : Nat
  profDrops : Nat
  deriving DecidableEq, Repr

/-- An error that protected storage finds (19 R383). -/
inductive Upset where
  /-- corrected, and counted for its die -/
  | corrected (die : Nat)
  /-- uncorrectable, in a unit of 8 bytes of device memory or a cache -/
  | memory (unit : Nat)
  /-- uncorrectable, in a unit of 8 bytes of a core's scratchpad -/
  | scratch (core unit : Nat)
  /-- uncorrectable, in a register or an on-chip record that a strand's next instruction reads -/
  | register (cohort strand : Nat)
  deriving DecidableEq, Repr

/-- Which agent moves next. -/
inductive Move where
  /-- a slot of an issue half of a core, vector or uniform, takes one ready strand (08 R189) -/
  | issue (core half : Nat) (vector : Bool)
  /-- an event of the table -/
  | event (i : Instr)
  /-- an L1 replaces a line (10 R235) -/
  | evict (core line : Nat)
  /-- a home slice replaces a line of its L2 (21 R417) -/
  | evictHome (line : Nat)
  /-- an RDC replaces a line (21 R416) -/
  | evictRdc (die line : Nat)
  /-- protected storage finds an error (19 R383) -/
  | upset (u : Upset)
  deriving DecidableEq, Repr

/-- The module. -/
structure State where
  co : Cohort
  others : List Cohort
  blocks : List Block
  launches : List Launch
  cores : List Core
  pairs : List Pair
  slices : List Slice
  dies : List Die
  /-- device memory by physical address (10 R226) -/
  mem : Mem
  /-- poisoned bytes, ascending ranges of 8 bytes (19 R383) -/
  poison : List Nat
  /-- entries at the receiving ends, and on the links (15 R332) -/
  ends : List LinkEntry
  flying : List LinkEntry
  arrivals : List Arrival
  plans : List Plan
  packets : List Packet
  fabric : Fabric
  host : HostIf
  power : Power
  setup : Setup
  dbg : Debug
  fw : List FwRec
  /-- dead queues (08 R178), and words 0-2 of each descriptor as its controller last saw them (R175, R176) -/
  dead : List Nat
  descs : List (Nat × List Byte)
  /-- addresses whose page the firmware declared invalid (10 R245) -/
  invalid : List Nat
  /-- core clock cycles since reset; package time in ns (22 R439); its fraction -/
  cycle : Nat
  time : Nat
  frac : Nat
  /-- next identifier of a cohort, block, launch or copy -/
  fresh : Nat
  /-- the model's own: who moves next, which half the default policy serves, the counter free values are applied to -/
  agenda : List Move
  turn : Nat
  tick : Nat
  deriving DecidableEq, Repr

/-! ### Reset (22 R439, and the reset values of each register) -/

/-- A strand that runs nothing. -/
def Strand.reset : Strand :=
  { id := 0, pc := 0, icnt := 0, floor := 0, mask := 0, held := 0, cfr := 0, outst := [], park := none, passed := 0,
    horizon := 0, unacked := [], fabErr := none, reports := [], copies := [], late := none, checked := 0 }

/-- A cohort at reset: no cohort is resident, and every register holds its value at cohort start. -/
def Cohort.reset : Cohort :=
  { uid := 0, block := 0, launch := 0, core := 0, half := 0, slot := 0, cid := 0, blockIdx := 0,
    lvl := List.replicate 8 0, role := 0, nregs := 0, prio := 0, started := 0, task := none,
    v := [], s := List.replicate 192 0, z := List.replicate 4 .zero, link := 0, fmode := 0, wheyBase := 0, szl := 16,
    whey := [], wheyWb := 0, stack := [], tm := false, dir := false, walk := none, cause := 0, tinfo := 0, tpc := 0,
    tpcWritten := false, hbase := 0, hsave := [], trapped := 0, exm := 0, removed := 0, qdrop := 0, entry := 0, handler := 0,
    st := .reset, sibs := [], spawn := List.replicate 96 ⟨0, 0, 0⟩, grants := [], mism := [], preempt := none,
    saved := none, tiles := [], halt := none, haltReq := none, stepping := none, debug := false, stalls := List.replicate 16 0,
    traced := false, sinceSync := 0, ending := true, closing := false }

/-- A core at reset. -/
def Core.reset : Core :=
  { sp := [], spBad := [], absent := [], l1 := [], upd := [], mse := [], tlb := [], copies := [],
    trace := { sel0 := 0, sel1 := 0, words := [], lost := 0 }, reserved := none }

/-- A matrix pair at reset. -/
def Pair.reset : Pair := { queue := [], tiles := [], checks := [], next := 0, idle := 0 }

/-- A home slice at reset: QUOTA 8, WINDOW 1,024, LEASE 4,096 (10 R239, 11 R255). -/
def Slice.reset : Slice :=
  { quota := 8, window := 1024, lease := 4096, floor := 0, lx := [], grants := [], windowAt := 0, requests := [] }

/-- A die at reset. -/
def Die.reset : Die :=
  { rdc := [], tlb := [], walks := [], granted := 0, borrowed := 0, lent := 0, waiting := [], corrected := 0 }

/-- A link direction at reset: ACTIVE 0xFF, BAD 0, WPOL 0, THRESH 64 (21 R423). -/
def LinkDir.reset : LinkDir :=
  { active := 0xFF, bad := 0, wpol := 0, width := 0, thresh := 64, seq := 0, ack := 0xFFFF, replay := [], fails := 0,
    pending := none, wants := none, training := 0, relit := 0, credits := 0, flits := 0, discarded := 0, sent := [] }

/-- A link at reset. -/
def Link.reset : Link := { down := false, key := 0, rx := .reset, tx := .reset }

/-- The module right after reset: STAGE 0, nothing resident, memory with nothing listed. -/
def State.reset : State :=
  { co := .reset, others := [], blocks := [], launches := [], cores := List.replicate 192 .reset,
    pairs := List.replicate 96 .reset, slices := List.replicate 96 .reset, dies := List.replicate 4 .reset,
    mem := [], poison := [], ends := [], flying := [], arrivals := [], plans := [], packets := [],
    fabric := { windows := List.replicate 256 ⟨0, 0⟩, routes := [], device := 0, gsize := 0, grank := 0,
                performed := [], tid := 0, out := [], answers := [], links := List.replicate 128 .reset },
    host := { stage := 0, err := 0, apbase := 0,
              mail := { len := 0, status := 0, rlen := 0, disc := 0, buf := [] }, session := false, ideKey := [],
              debugKey := [], debugOpen := false, debugEver := false, regions := none, droppedWrites := 0,
              answer := none, aborted := false, mgmt := [] },
    power := { samples := [], temps := [], clk := 0, thr := false, hot := 0, telemetry := 0, tripped := false,
               stepAt := 0 },
    setup := { root := 0, qtbase := 0, saveArena := 0, codeArena := 0, base := 600, cxl0 := 0, cxl1 := 0,
               tables := 0, arenaNext := 0 },
    dbg := { darg := 0, buffer := none, held := none, breaks := [], records := [], recording := false, log := [], profNext := 0,
             profDrops := 0 },
    fw := [], dead := [], descs := [], invalid := [], cycle := 0, time := 0, frac := 0, fresh := 1, agenda := [], turn := 0,
    tick := 0 }

end Sys2Proof.Machine
end

