-- ==== Sys2Proof/Machine/Bits.lean ====
section
/-! DEFINITION. Bit, byte, lane and list helpers shared by the meanings. -/

namespace Sys2Proof.Machine

/-- The 96 lane numbers, ascending. -/
def laneNums : List Nat := List.range 96

/-- The set of lanes below 96 where `f` holds. -/
def laneSetOf (f : Nat → Bool) : LaneSet :=
  laneNums.foldl (fun m i => if f i then m ||| (1#96 <<< i) else m) 0

/-- The lanes of a set, ascending. -/
def lanesOf (m : LaneSet) : List Nat := laneNums.filter m.getLsbD

/-- Number of 1 bits among the first `n` bits of a number. -/
def countBits : Nat → Nat → Nat
  | 0, _ => 0
  | n + 1, x => x % 2 + countBits n (x / 2)

/-- Number of lanes of a set. -/
def laneCount (m : LaneSet) : Nat := countBits 96 m.toNat

/-- Word k of a lane set, as a mask register holds it (01 R18). -/
def maskWord (m : LaneSet) (k : Nat) : Word := m.extractLsb' (32 * k) 32

/-- A lane set with word k replaced. -/
def setMaskWord (m : LaneSet) (k : Nat) (w : Word) : LaneSet :=
  (m &&& ~~~((0xFFFFFFFF#96) <<< (32 * k))) ||| (w.setWidth 96 <<< (32 * k))

/-- Element i of a list of words, 0 beyond its end. -/
def wordAt (l : List Word) (i : Nat) : Word := l.getD i 0

/-- Lane by lane: the new word where the mask is set, else the old one. -/
def blendLanes (m : LaneSet) (old new : List Word) : List Word :=
  laneNums.map fun i => if m.getLsbD i then wordAt new i else wordAt old i

/-- The words of the masked lanes, ascending: the payload of a lane record (01 R18). -/
def pickLanes (m : LaneSet) (l : List Word) : List Word := (lanesOf m).map (wordAt l)

/-- Spreads a payload over the lanes of a mask: (lane, value) pairs. -/
def spreadLanes (m : LaneSet) (vals : List Word) : List (Nat × Word) := (lanesOf m).zip vals

/-- Writes (lane, value) pairs into a lane vector. -/
def writeLanes (l : List Word) (ps : List (Nat × Word)) : List Word :=
  laneNums.map fun i => match ps.find? (fun p => p.1 == i) with
    | some p => p.2
    | none => wordAt l i

/-- The low n bytes of a number, least significant first (00 R3). -/
def bytesOf : Nat → Nat → List Byte
  | 0, _ => []
  | n + 1, x => BitVec.ofNat 8 x :: bytesOf n (x / 256)

/-- The number that bytes hold, least significant first. -/
def natOf : List Byte → Nat
  | [] => 0
  | b :: bs => b.toNat + 256 * natOf bs

/-- The word of four bytes. -/
def wordOf (bs : List Byte) : Word := BitVec.ofNat 32 (natOf bs)

/-- Words of a byte string, the last one padded with zeros; `n` bounds the number of words. -/
def wordsOf : Nat → List Byte → List Word
  | 0, _ => []
  | _, [] => []
  | n + 1, bs => wordOf (bs.take 4) :: wordsOf n (bs.drop 4)

/-- Two words of a 64-bit value, low first. -/
def dwordWords (x : DWord) : List Word := [x.low, x.high]

/-- Three words of a lane set. -/
def laneWords (m : LaneSet) : List Word := [maskWord m 0, maskWord m 1, maskWord m 2]

/-- Replaces element i of a list. -/
def setAt {α : Type} (l : List α) (i : Nat) (x : α) : List α := l.set i x

/-- Applies a function to element i of a list. -/
def modifyAt {α : Type} (f : α → α) : List α → Nat → List α
  | [], _ => []
  | x :: xs, 0 => f x :: xs
  | x :: xs, n + 1 => x :: modifyAt f xs n

/-- Applies a function to the first element that satisfies a test. -/
def modifyFirst {α : Type} (p : α → Bool) (f : α → α) : List α → List α
  | [] => []
  | x :: xs => if p x then f x :: xs else x :: modifyFirst p f xs

/-- Applies a function to every element that satisfies a test. -/
def modifyAll {α : Type} (p : α → Bool) (f : α → α) (l : List α) : List α :=
  l.map fun x => if p x then f x else x

/-- Removes the first element that satisfies a test. -/
def dropFirst {α : Type} (p : α → Bool) : List α → List α
  | [] => []
  | x :: xs => if p x then xs else x :: dropFirst p xs

/-- Inserts a number into an ascending list without repeats. -/
def insertAsc (n : Nat) : List Nat → List Nat
  | [] => [n]
  | x :: xs => if n < x then n :: x :: xs else if n == x then x :: xs else x :: insertAsc n xs

/-- The numbers from lo, n of them. -/
def spanNat (lo n : Nat) : List Nat := (List.range n).map (lo + ·)

/-- The elements of a list with their indexes. -/
def indexed {α : Type} (l : List α) : List (Nat × α) := (List.range l.length).zip l

/-- Removes repeated numbers, keeping the first of each. -/
def dedup : List Nat → List Nat
  | [] => []
  | x :: xs => x :: (dedup xs).filter (· != x)

/-- Sign-extends the low `n` bits of a number to an integer. -/
def signedOf (n : Nat) (x : Nat) : Int :=
  let y := x % 2 ^ n
  if 2 ^ n ≤ 2 * y then (y : Int) - 2 ^ n else y

/-- The low 32 bits of an integer. -/
def wordInt (x : Int) : Word := BitVec.ofInt 32 x

/-- Clamps an integer between two bounds (02 R32). -/
def clampInt (lo hi x : Int) : Int := if x < lo then lo else if hi < x then hi else x

end Sys2Proof.Machine
end

