-- ==== Sys2Proof/Machine/Float.lean ====
section
/-! DEFINITION. The number formats (spec 02): exact dyadic reals, rounding, the IEEE formats, the tapered formats and the
conversions among them. -/

namespace Sys2Proof.Machine

/-- The flag vector: NV, DZ, OF, UF, NX in bits 0 to 4 (R39). -/
abbrev Flags := BitVec 5

/-- Invalid. -/
def flagNV : Flags := 1
/-- Divide by zero. -/
def flagDZ : Flags := 2
/-- Overflow and inexact. -/
def flagOF : Flags := 20
/-- Underflow and inexact. -/
def flagUF : Flags := 24
/-- Inexact. -/
def flagNX : Flags := 16

/-- An exact real m x 2^e with a sign; m = 0 is a signed zero. -/
structure Dy where
  neg : Bool
  m : Nat
  e : Int
  deriving DecidableEq, Repr

/-- A value of an IEEE format. -/
inductive FV where
  | nan (sig : Bool)
  | inf (neg : Bool)
  | fin (d : Dy)
  deriving DecidableEq, Repr

/-- An IEEE binary format: exponent bits, fraction bits (R34). The bias is 2^(ebits-1) - 1. -/
structure Fmt where
  ebits : Nat
  fbits : Nat
  deriving DecidableEq, Repr

/-- FP32 (R34). -/
def fp32 : Fmt := ⟨8, 23⟩
/-- FP16 (R34). -/
def fp16 : Fmt := ⟨5, 10⟩
/-- BF16 (R34). -/
def bf16 : Fmt := ⟨8, 7⟩

/-- Exponent bias. -/
def Fmt.bias (f : Fmt) : Nat := 2 ^ (f.ebits - 1) - 1
/-- Exponent field of infinities and NaNs. -/
def Fmt.top (f : Fmt) : Nat := 2 ^ f.ebits - 1
/-- Place of the sign bit. -/
def Fmt.signBit (f : Fmt) : Nat := f.ebits + f.fbits
/-- Infinity of a sign. -/
def Fmt.inf (f : Fmt) (neg : Bool) : Nat := f.top * 2 ^ f.fbits + (if neg then 2 ^ f.signBit else 0)
/-- Canonical NaN (R34). -/
def Fmt.qnan (f : Fmt) : Nat := f.top * 2 ^ f.fbits + 2 ^ (f.fbits - 1)
/-- Largest finite value of a sign. -/
def Fmt.maxFin (f : Fmt) (neg : Bool) : Nat := f.inf neg - 1
/-- Zero of a sign. -/
def Fmt.zero (f : Fmt) (neg : Bool) : Nat := if neg then 2 ^ f.signBit else 0
/-- Smallest normal exponent. -/
def Fmt.emin (f : Fmt) : Int := 1 - f.bias

/-- The value of a bit pattern; with `ftz` a subnormal reads as a zero of its sign (R34, R36). -/
def Fmt.value (f : Fmt) (ftz : Bool) (bits : Nat) : FV :=
  let neg := bits.testBit f.signBit
  let ex := bits / 2 ^ f.fbits % 2 ^ f.ebits
  let fr := bits % 2 ^ f.fbits
  if ex = f.top then
    if fr = 0 then .inf neg else .nan (!fr.testBit (f.fbits - 1))
  else if ex = 0 then .fin ⟨neg, if ftz then 0 else fr, f.emin - f.fbits⟩
  else .fin ⟨neg, 2 ^ f.fbits + fr, (ex : Int) - f.bias - f.fbits⟩

/-- Rounding direction for an inexact magnitude: whether the larger neighbour is taken (R38). `cmp` compares the dropped
part with one half: 0 below, 1 equal, 2 above. -/
def roundsUp (mode : Nat) (neg odd : Bool) (cmp : Nat) : Bool :=
  match mode with
  | 0 => cmp == 2 || (cmp == 1 && odd)
  | 1 => false
  | 2 => neg
  | _ => !neg

/-- Rounds m x 2^e to a multiple of 2^q: the multiplier, and whether the result differs (R38). -/
def roundAt (mode : Nat) (neg : Bool) (m : Nat) (e q : Int) : Nat × Bool :=
  if q ≤ e then (m * 2 ^ (e - q).toNat, false)
  else
    let s := (q - e).toNat
    if m = 0 then (0, false)
    else if Nat.log2 m + 1 < s then (if roundsUp mode neg false 0 then 1 else 0, true)
    else
      let hi := m / 2 ^ s
      let lo := m % 2 ^ s
      if lo = 0 then (hi, false)
      else
        let half := 2 ^ (s - 1)
        let cmp := if lo < half then 0 else if lo = half then 1 else 2
        (if roundsUp mode neg (hi % 2 == 1) cmp then hi + 1 else hi, true)

/-- Delivered value of an overflow (R38). -/
def Fmt.overflow (f : Fmt) (mode : Nat) (neg : Bool) : Nat :=
  if mode == 0 || (mode == 2 && neg) || (mode == 3 && !neg) then f.inf neg else f.maxFin neg

/-- `round(x, fmt, mode)` with FTZ (R36, R38): the bits and the flags. -/
def Fmt.round (f : Fmt) (mode : Nat) (ftz : Bool) (d : Dy) : Nat × Flags :=
  if d.m = 0 then (f.zero d.neg, 0)
  else
    let e0 : Int := (Nat.log2 d.m : Int) + d.e
    let (k, inx) := roundAt mode d.neg d.m d.e (e0 - f.fbits)
    let e1 : Int := if k = 2 ^ (f.fbits + 1) then e0 + 1 else e0
    let fr := if k = 2 ^ (f.fbits + 1) then 0 else k - 2 ^ f.fbits
    if e1 < f.emin then
      if ftz then (f.zero d.neg, flagUF)
      else
        let (k2, inx2) := roundAt mode d.neg d.m d.e (f.emin - f.fbits)
        (k2 + f.zero d.neg, if inx2 then flagUF else 0)
    else if (f.bias : Int) < e1 then (f.overflow mode d.neg, flagOF)
    else ((e1 + f.bias).toNat * 2 ^ f.fbits + fr + f.zero d.neg, if inx then flagNX else 0)

/-- Signed mantissa of a dyadic at exponent q, no larger than its own. -/
def Dy.at (d : Dy) (q : Int) : Int :=
  let x : Int := (d.m * 2 ^ (d.e - q).toNat : Nat)
  if d.neg then -x else x

/-- Exact sum of dyadics, without a rule for the sign of zero: mantissa and exponent. -/
def dySum (ds : List Dy) : Int × Int :=
  let nz := ds.filter (fun d => d.m != 0)
  match nz with
  | [] => (0, 0)
  | d :: rest =>
    let q := rest.foldl (fun q x => if x.e < q then x.e else q) d.e
    (nz.foldl (fun acc x => acc + x.at q) 0, q)

/-- A dyadic from a signed mantissa. -/
def dyOfInt (x : Int) (e : Int) : Dy := ⟨decide (x < 0), x.natAbs, e⟩

/-- Sign of an exact zero sum: the common sign of zero terms, else by mode (R38). -/
def zeroSign (mode : Nat) (ds : List Dy) : Bool :=
  if ds.all (fun d => d.m == 0 && d.neg) then true
  else if ds.all (fun d => d.m == 0 && !d.neg) then false
  else mode == 2

/-- Exact product. -/
def Dy.mul (a b : Dy) : Dy := ⟨a.neg != b.neg, a.m * b.m, a.e + b.e⟩

/-- Product of two values: NaN for an infinity times a zero, with the second part telling so (R35, R56). -/
def FV.mul : FV → FV → FV × Bool
  | .nan s, .nan t => (.nan (s || t), false)
  | .nan s, _ => (.nan s, false)
  | _, .nan s => (.nan s, false)
  | .inf s, .inf t => (.inf (s != t), false)
  | .inf s, .fin d => if d.m = 0 then (.nan false, true) else (.inf (s != d.neg), false)
  | .fin d, .inf s => if d.m = 0 then (.nan false, true) else (.inf (s != d.neg), false)
  | .fin a, .fin b => (.fin (a.mul b), false)

/-- Negation. -/
def FV.neg : FV → FV
  | .nan s => .nan s
  | .inf s => .inf (!s)
  | .fin d => .fin { d with neg := !d.neg }

/-- Is a NaN. -/
def FV.isNan : FV → Bool
  | .nan _ => true
  | _ => false

/-- Is a signalling NaN. -/
def FV.isSig : FV → Bool
  | .nan s => s
  | _ => false

/-- Infinite terms of a sign. -/
def FV.isInf (neg : Bool) : FV → Bool
  | .inf s => s == neg
  | _ => false

/-- The finite part of a value. -/
def FV.dy : FV → Dy
  | .fin d => d
  | _ => ⟨false, 0, 0⟩

/-- The exact sum of terms rounded once (R35, R38, R55): `bad` marks an invalid product. -/
def Fmt.sum (f : Fmt) (mode : Nat) (ftz : Bool) (ts : List FV) (bad : Bool) : Nat × Flags :=
  let nv := bad || ts.any FV.isSig
  if nv || ts.any FV.isNan then (f.qnan, if nv then flagNV else 0)
  else
    let p := ts.any (FV.isInf false)
    let n := ts.any (FV.isInf true)
    if p && n then (f.qnan, flagNV)
    else if p then (f.inf false, 0)
    else if n then (f.inf true, 0)
    else
      let ds := ts.map FV.dy
      let (x, q) := dySum ds
      if x = 0 then (f.zero (zeroSign mode ds), 0) else f.round mode ftz (dyOfInt x q)

/-- a + b (R127). -/
def Fmt.add (f : Fmt) (mode : Nat) (ftz : Bool) (a b : Nat) : Nat × Flags :=
  f.sum mode ftz [f.value ftz a, f.value ftz b] false

/-- a - b (R127). -/
def Fmt.sub (f : Fmt) (mode : Nat) (ftz : Bool) (a b : Nat) : Nat × Flags :=
  f.sum mode ftz [f.value ftz a, (f.value ftz b).neg] false

/-- a x b (R127). -/
def Fmt.mul (f : Fmt) (mode : Nat) (ftz : Bool) (a b : Nat) : Nat × Flags :=
  let va := f.value ftz a
  let vb := f.value ftz b
  let (p, bad) := va.mul vb
  f.sum mode ftz [p] (bad || va.isSig || vb.isSig)

/-- Products and addends summed exactly and rounded once (R55): pairs of factors, then addends. -/
def Fmt.dot (f g : Fmt) (mode : Nat) (ftz : Bool) (ps : List (Nat × Nat)) (cs : List Nat) : Nat × Flags :=
  let prods := ps.map fun p => ((f.value ftz p.1).mul (f.value ftz p.2), (f.value ftz p.1).isSig || (f.value ftz p.2).isSig)
  let bad := prods.any fun x => x.1.2 || x.2
  g.sum mode ftz (prods.map (·.1.1) ++ cs.map (g.value ftz)) bad

/-- Order of two finite or infinite values: negative, zero or positive. -/
def FV.cmp (a b : FV) : Int :=
  match a, b with
  | .inf s, .inf t => if s == t then 0 else if s then -1 else 1
  | .inf s, _ => if s then -1 else 1
  | _, .inf t => if t then 1 else -1
  | x, y =>
    let (d, _) := dySum [x.dy, { y.dy with neg := !y.dy.neg }]
    d

/-- Minimum or maximum of R37 on bit patterns: -0 below +0, NaN canonical. -/
def Fmt.minMax (f : Fmt) (max ftz : Bool) (a b : Nat) : Nat × Flags :=
  let va := f.value ftz a
  let vb := f.value ftz b
  if va.isNan || vb.isNan then (f.qnan, if va.isSig || vb.isSig then flagNV else 0)
  else
    let flush (v : FV) (x : Nat) : Nat := match v with
      | .fin d => if d.m = 0 then f.zero d.neg else x
      | _ => x
    let c := va.cmp vb
    let aLess := c < 0 || (c == 0 && a.testBit f.signBit)
    (if aLess != max then flush va a else flush vb b, 0)

/-- Integer square root, bit by bit: `k` bits of root remain, `r` found so far. -/
def isqrtGo (n : Nat) : Nat → Nat → Nat
  | 0, r => r
  | k + 1, r =>
    let t := r + 2 ^ k
    isqrtGo n k (if t * t ≤ n then t else r)

/-- Quotient of two dyadics to at least 30 bits, its lowest bit sticky. -/
def Dy.div (a b : Dy) : Dy :=
  let sh := 32 + Nat.log2 b.m - Nat.log2 a.m
  let n := a.m * 2 ^ sh
  let q := n / b.m
  ⟨a.neg != b.neg, 2 * q + (if n % b.m = 0 then 0 else 1), a.e - b.e - sh - 1⟩

/-- Square root of a positive dyadic to at least 30 bits, its lowest bit sticky. -/
def Dy.sqrt (a : Dy) : Dy :=
  let odd := a.e % 2 != 0
  let m := if odd then 2 * a.m else a.m
  let e : Int := if odd then a.e - 1 else a.e
  let n := m * 2 ^ 64
  let r := isqrtGo n 96 0
  ⟨false, 2 * r + (if r * r = n then 0 else 1), e / 2 - 33⟩

/-- FDIV (R129). -/
def Fmt.div (f : Fmt) (mode : Nat) (ftz : Bool) (a b : Nat) : Nat × Flags :=
  match f.value ftz a, f.value ftz b with
  | .nan s, y => (f.qnan, if s || y.isSig then flagNV else 0)
  | _, .nan s => (f.qnan, if s then flagNV else 0)
  | .inf _, .inf _ => (f.qnan, flagNV)
  | .inf s, .fin d => (f.inf (s != d.neg), 0)
  | .fin d, .inf s => (f.zero (d.neg != s), 0)
  | .fin x, .fin y =>
    if y.m = 0 then
      if x.m = 0 then (f.qnan, flagNV) else (f.inf (x.neg != y.neg), flagDZ)
    else if x.m = 0 then (f.zero (x.neg != y.neg), 0)
    else f.round mode ftz (x.div y)

/-- FSQRT (R129). -/
def Fmt.sqrt (f : Fmt) (mode : Nat) (ftz : Bool) (a : Nat) : Nat × Flags :=
  match f.value ftz a with
  | .nan s => (f.qnan, if s then flagNV else 0)
  | .inf s => if s then (f.qnan, flagNV) else (f.inf false, 0)
  | .fin x =>
    if x.m = 0 then (f.zero x.neg, 0)
    else if x.neg then (f.qnan, flagNV)
    else f.round mode ftz x.sqrt

/-- An integer rounded by mode from a dyadic, and whether it differs (R49). -/
def Dy.toInt (mode : Nat) (d : Dy) : Int × Bool :=
  let (k, inx) := roundAt mode d.neg d.m d.e 0
  (if d.neg then -(k : Int) else k, inx)

/-- FP to integer with bounds (R49). -/
def fvToInt (mode : Nat) (lo hi : Int) : FV → Int × Flags
  | .nan _ => (0, flagNV)
  | .inf s => (if s then lo else hi, flagNV)
  | .fin d =>
    -- a magnitude past 2^64 is out of range without being formed
    if d.m != 0 && 64 < (Nat.log2 d.m : Int) + d.e then (if d.neg then lo else hi, flagNV)
    else
      let (x, inx) := d.toInt mode
      if x < lo then (lo, flagNV) else if hi < x then (hi, flagNV) else (x, if inx then flagNX else 0)

/-- An IEEE value into another IEEE format (R49); `ftz` flushes the result. -/
def Fmt.ofFV (f : Fmt) (mode : Nat) (ftz : Bool) : FV → Nat × Flags
  | .nan s => (f.qnan, if s then flagNV else 0)
  | .inf s => (f.inf s, 0)
  | .fin d => if d.m = 0 then (f.zero d.neg, 0) else f.round mode ftz d

/-! ### Tapered formats (R42-R48) -/

/-- Length of the run of bits equal to r in m, from bit `k-1` downwards. -/
def runLen (m : Nat) (r : Bool) : Nat → Nat
  | 0 => 0
  | k + 1 => if m.testBit k == r then 1 + runLen m r k else 0

/-- Value of the magnitude bits of a T code of n bits, m ≠ 0 (R42). -/
def tMag (n m : Nat) : Nat × Int :=
  let r := m.testBit (n - 2)
  let k := runLen m r (n - 1)
  let q : Int := if r then (k : Int) - 1 else -(k : Int)
  -- bits below the run and its terminating bit: n - 2 - k of them, if any
  let rest := n - 2 - k
  if n - 1 ≤ k + 1 then (1, 2 * q)
  else
    let e := if m.testBit (rest - 1) then 1 else 0
    let w := rest - 1
    (2 ^ w + m % 2 ^ w, 2 * q + e - w)

/-- `decode_t` (R42): `none` is NaR. -/
def decodeT (code n : Nat) : Option Dy :=
  let neg := code.testBit (n - 1)
  let m := code % 2 ^ (n - 1)
  if m = 0 then (if neg then none else some ⟨false, 0, 0⟩)
  else let (k, e) := tMag n m; some ⟨neg, k, e⟩

/-- The NaR code (R42). -/
def narT (n : Nat) : Nat := 2 ^ (n - 1)

/-- A T code as an IEEE value: NaR is a quiet NaN (R48). -/
def valueT (code n : Nat) : FV :=
  match decodeT code n with
  | none => .nan false
  | some d => .fin d

/-- The largest magnitude code, among those from k downwards, whose value does not exceed the dyadic. -/
def floorCode (n : Nat) (a : Dy) : Nat → Nat
  | 0 => 0
  | k + 1 =>
    let (m, e) := tMag n (k + 1)
    if (FV.fin ⟨false, m, e⟩).cmp (.fin a) ≤ 0 then k + 1 else floorCode n a k

/-- `encode_t` (R47). -/
def encodeT (n : Nat) : FV → Nat × Flags
  | .nan _ => (narT n, flagNV)
  | .inf s => (2 ^ (n - 1) - 1 + (if s then narT n else 0), flagNV)
  | .fin d =>
    let a : Dy := { d with neg := false }
    let sg := if d.neg then narT n else 0
    let top := 2 ^ (n - 1) - 1
    let (m1, e1) := tMag n 1
    let (mt, et) := tMag n top
    if a.m = 0 then (0, 0)
    else if (FV.fin a).cmp (.fin ⟨false, m1, e1 - 1⟩) < 0 then (0, flagUF)
    else if (FV.fin a).cmp (.fin ⟨false, m1, e1⟩) < 0 then (1 + sg, flagUF)
    else if 0 < (FV.fin a).cmp (.fin ⟨false, mt, et⟩) then (top + sg, flagOF)
    else
      let c := floorCode n a top
      let (mc, ec) := tMag n c
      if (FV.fin ⟨false, mc, ec⟩).cmp (.fin a) == 0 then (c + sg, 0)
      else
        let (mn, en) := tMag n (c + 1)
        -- compare 2a with value(c) + value(c+1)
        let (x, _) := dySum [⟨false, a.m, a.e + 1⟩, ⟨true, mc, ec⟩, ⟨true, mn, en⟩]
        let pick := if x < 0 then c else if 0 < x then c + 1 else if c % 2 = 0 then c else c + 1
        (pick + sg, flagNX)

/-- Bits of a T code by format number 0 t8, 1 t6, 2 t4 (R136). -/
def tBits (fmt : Nat) : Nat := if fmt == 0 then 8 else if fmt == 1 then 6 else 4

/-- Bytes of a block record by format number (R50). -/
def blockBytes (fmt : Nat) : Nat := 1 + 4 * tBits fmt

/-- Code of element j in the bytes of a block record (R51). -/
def blockCode (fmt : Nat) (rec : List Byte) (j : Nat) : Nat :=
  natOf (rec.drop 1) / 2 ^ (j * tBits fmt) % 2 ^ tBits fmt

/-- A block record from its scale byte and 32 codes (R50, R51). -/
def blockOf (fmt : Nat) (sb : Byte) (codes : List Nat) : List Byte :=
  let bits := codes.foldr (fun c acc => c % 2 ^ tBits fmt + 2 ^ tBits fmt * acc) 0
  sb :: bytesOf (4 * tBits fmt) bits

/-- `qblk_values` of one beat (R54): scale byte, code of each active lane, flags. -/
def qblkBeat (fmt : Nat) (ftz : Bool) (xs : List (Nat × Word)) : Nat × List (Nat × Nat) × Flags :=
  let n := tBits fmt
  let vs := xs.map fun p => (p.1, fp32.value ftz p.2.toNat)
  if vs.any (fun p => p.2.isNan || p.2.isInf true || p.2.isInf false) then
    (255, vs.map (fun p => (p.1, narT n)), flagNV)
  else
    let nz := (vs.map (·.2.dy)).filter (fun d => d.m != 0)
    match nz with
    | [] => (0, vs.map (fun p => (p.1, 0)), 0)
    | d :: rest =>
      let lg (d : Dy) : Int := (Nat.log2 d.m : Int) + d.e
      let big := rest.foldl (fun x d => if x < lg d then lg d else x) (lg d)
      let beta : Int := 2 - fmt
      let sb := clampInt 0 254 (big - beta + 127)
      let enc := vs.map fun p => (p.1, encodeT n (.fin { p.2.dy with e := p.2.dy.e - (sb - 127) }))
      (sb.toNat, enc.map (fun p => (p.1, p.2.1)), enc.foldl (fun fl p => fl ||| p.2.2) 0)

end Sys2Proof.Machine
end

