-- ==== Sys2Proof/Machine/Memory.lean ====
section
/-! DEFINITION. Memory: the canonical byte list, the physical map (10 R226), homes and slices (R237), the L1 words, the
RDC and update-only copies (R235-R238, 11 R253-R258, 21 R416), page tables (10 R244) and TLBs (R245). -/

namespace Sys2Proof.Machine

/-! ### The byte list -/

/-- The byte at an address; an unlisted address reads as the blank byte. -/
def Mem.get (blank : Byte) : Mem → Nat → Byte
  | [], _ => blank
  | (a, b) :: r, k => if k < a then blank else if k = a then b else Mem.get blank r k

/-- Writes one byte and keeps the canonical form. -/
def Mem.set (blank : Byte) : Mem → Nat → Byte → Mem
  | [], k, v => if v = blank then [] else [(k, v)]
  | (a, b) :: r, k, v =>
    if k < a then (if v = blank then (a, b) :: r else (k, v) :: (a, b) :: r)
    else if k = a then (if v = blank then r else (a, v) :: r)
    else (a, b) :: Mem.set blank r k v

/-- Addresses from `lo` on rise and no entry is blank. -/
def Mem.wfFrom (blank : Byte) : Nat → Mem → Bool
  | _, [] => true
  | lo, (a, b) :: r => decide (lo ≤ a) && decide (b ≠ blank) && Mem.wfFrom blank (a + 1) r

/-- The canonical form. -/
def Mem.wf (blank : Byte) (m : Mem) : Bool := Mem.wfFrom blank 0 m

/-- Bytes at ascending addresses. -/
def Mem.read (blank : Byte) (m : Mem) (a n : Nat) : List Byte := (spanNat a n).map (m.get blank)

/-- Writes bytes at ascending addresses. -/
def Mem.write (blank : Byte) : Mem → Nat → List Byte → Mem
  | m, _, [] => m
  | m, a, b :: bs => Mem.write blank (m.set blank a b) (a + 1) bs

/-! ### Parts of the module -/

/-- A core of the module. -/
def State.core (s : State) (k : Nat) : Core := s.cores.getD k .reset
/-- Changes a core. -/
def State.modCore (s : State) (k : Nat) (f : Core → Core) : State := { s with cores := modifyAt f s.cores k }
/-- A die. -/
def State.die (s : State) (d : Nat) : Die := s.dies.getD d .reset
/-- Changes a die. -/
def State.modDie (s : State) (d : Nat) (f : Die → Die) : State := { s with dies := modifyAt f s.dies d }
/-- A home slice. -/
def State.slice (s : State) (k : Nat) : Slice := s.slices.getD k .reset
/-- Changes a slice. -/
def State.modSlice (s : State) (k : Nat) (f : Slice → Slice) : State := { s with slices := modifyAt f s.slices k }
/-- A matrix pair. -/
def State.pair (s : State) (k : Nat) : Pair := s.pairs.getD k .reset
/-- Changes a pair. -/
def State.modPair (s : State) (k : Nat) (f : Pair → Pair) : State := { s with pairs := modifyAt f s.pairs k }

/-- `%die` of a core (07 R151). -/
def dieOf (core : Nat) : Nat := core / 48
/-- `%cluster` of a core (07 R151). -/
def clusterOf (core : Nat) : Nat := core / 4
/-- The matrix pair of a core (15 R322). -/
def pairOfCore (core : Nat) : Nat := core / 2

/-! ### Physical memory (R226, R237) -/

/-- HBM bytes of one die. -/
def hbmSize : Nat := 0x1DCD650000

/-- The die whose HBM or interleave holds a physical address (R226). -/
def homeDie (pa : Nat) : Nat := if pa < 2 ^ 39 then pa / 2 ^ 37 else pa / 2 ^ 21 % 4

/-- The home slice of a physical address, numbered over the package (R237). -/
def sliceOf (pa : Nat) : Nat := 24 * homeDie pa + pa / 128 % 24

/-- A physical address inside a range of R226, whether or not its port is populated. -/
def paMapped (pa : Nat) : Bool :=
  (pa < 2 ^ 39 && pa % 2 ^ 37 < hbmSize)
    || (0x10000000000 ≤ pa && pa < 0x10000000000 + 1536 * 10 ^ 9)
    || (0x40000000000 ≤ pa && pa < 0x40000000000 + 2304 * 10 ^ 9)
    || (0x80000000000 ≤ pa && pa < 0x80000000000 + 2304 * 10 ^ 9)

/-- The byte is poisoned, or lies behind a CXL port beyond its populated size (R226, 19 R383). -/
def State.poisoned (s : State) (pa : Nat) : Bool :=
  s.poison.contains (pa / 8)
    || (0x40000000000 ≤ pa && pa < 0x80000000000 && s.setup.cxl0 ≤ pa - 0x40000000000)
    || (0x80000000000 ≤ pa && s.setup.cxl1 ≤ pa - 0x80000000000)

/-- A byte at its home. -/
def State.homeByte (s : State) (pa : Nat) : Byte := s.mem.get Config.blankByte pa
/-- Bytes at their homes. -/
def State.homeRead (s : State) (pa n : Nat) : List Byte := (spanNat pa n).map s.homeByte
/-- Writes bytes at their homes and nothing else. -/
def State.homePut (s : State) (pa : Nat) (bs : List Byte) : State :=
  { s with mem := s.mem.write Config.blankByte pa bs }
/-- A word at its home, by word number. -/
def State.homeWord (s : State) (wa : Nat) : Word := wordOf (s.homeRead (4 * wa) 4)

/-! ### Translation (R244, R245) -/

/-- What an access does with a page. -/
inductive Acc where
  | read | write | fetch
  deriving DecidableEq, Repr

/-- The right an access needs (R245). -/
def TlbEnt.allows (t : TlbEnt) : Acc → Bool
  | .read => t.r
  | .write => t.w
  | .fetch => t.x

/-- log2 of the page size of a level: 64 KiB, 2 MiB, 1 GiB. -/
def pageBits (level : Nat) : Nat := if level = 0 then 16 else if level = 1 then 21 else 30

/-- A TLB entry covers a virtual address. -/
def TlbEnt.covers (t : TlbEnt) (va : Nat) : Bool := va / 2 ^ pageBits t.level = t.va / 2 ^ pageBits t.level

/-- The physical address that an entry gives. -/
def TlbEnt.paOf (t : TlbEnt) (va : Nat) : Nat := t.pa + va % 2 ^ pageBits t.level

/-- Index of a virtual address at a level, and the shift of the level (R244). -/
def walkIndex (level va : Nat) : Nat :=
  match level with
  | 4 => va / 2 ^ 48 % 256
  | 3 => va / 2 ^ 39 % 512
  | 2 => va / 2 ^ 30 % 512
  | 1 => va / 2 ^ 21 % 512
  | _ => va / 2 ^ 16 % 32

/-- Walks from a table at a level: the page, or `none` when it is absent or an entry is malformed (R244, R245). -/
def State.walkFrom (s : State) (va : Nat) : Nat → Nat → Option TlbEnt
  | level, table =>
    let ent := natOf (s.homeRead (table + 8 * walkIndex level va) 8)
    let addr := ent / 256 % 2 ^ 48 * 256
    let leaf := ent.testBit 1
    let reserved := ent / 2 ^ 56 != 0 || ent / 32 % 8 != 0
    if !ent.testBit 0 || reserved || !paMapped addr then none
    else if leaf then
      if level ≥ 3 || addr % 2 ^ pageBits level != 0 then none
      else some { va := va / 2 ^ pageBits level * 2 ^ pageBits level, level := level, pa := addr,
                  x := ent.testBit 4, w := ent.testBit 3, r := ent.testBit 2 }
    else match level with
      | 0 => none
      | l + 1 =>
        let size := if l = 4 then 2048 else if l = 0 then 256 else 4096
        if addr % size != 0 then none else s.walkFrom va l addr

/-- The page walk of a virtual address (R244). -/
def State.pageWalk (s : State) (va : Nat) : Option TlbEnt := s.walkFrom va 4 s.setup.root

/-- Outcome of translating one byte. -/
inductive Xlate where
  | ok (pa : Nat)
  /-- no TLB holds the page: a walk must run -/
  | miss
  /-- cause 0x09, 0x0A or 0x0B -/
  | fault (code : Nat)
  deriving DecidableEq, Repr

/-- The TLB entry that a core finds for an address (R245, steps 1 and 2). -/
def State.tlbFind (s : State) (core va : Nat) : Option TlbEnt :=
  match (s.core core).tlb.find? (·.covers va) with
  | some t => some t
  | none => (s.die (dieOf core)).tlb.find? (·.covers va)

/-- Rights and poison of a translated byte (R245; a write needs no data, so it meets no poison, 01 R28). -/
def State.judge (s : State) (t : TlbEnt) (va : Nat) (acc : Acc) : Xlate :=
  let pa := t.paOf va
  if !t.allows acc then .fault 0x0A
  else if acc != .write && s.poisoned pa then .fault 0x0B
  else .ok pa

/-- Translates one byte for a core's access through the TLBs. -/
def State.xlate (s : State) (core va : Nat) (acc : Acc) : Xlate :=
  match s.tlbFind core va with
  | some t => s.judge t va acc
  | none => if s.invalid.contains (va / 2 ^ 16) then .fault 0x09 else .miss

/-- Translates one byte for an agent that walks for itself: an engine, a controller, the host port. `miss` is an absent
page. -/
def State.xlateWalk (s : State) (va : Nat) (acc : Acc) : Xlate :=
  match s.pageWalk va with
  | some t => s.judge t va acc
  | none => if s.invalid.contains (va / 2 ^ 16) then .fault 0x09 else .miss

/-- Outcome of translating a run of bytes: the physical address of each, or the first byte that has none. -/
inductive XlateAll where
  | ok (pas : List Nat)
  | miss (va : Nat)
  | fault (code va : Nat)
  deriving DecidableEq, Repr

/-- Translates each byte of a run by its own page (R245, R53): a fault of the lowest byte is reported. -/
def xlateList (f : Nat → Xlate) : List Nat → XlateAll
  | [] => .ok []
  | va :: rest =>
    match f va with
    | .miss => .miss va
    | .fault c => .fault c va
    | .ok pa => match xlateList f rest with
      | .ok pas => .ok (pa :: pas)
      | r => r

/-- Translates a run of bytes for an agent that walks for itself; bytes of one page share its walk. -/
def State.walkRun (s : State) (acc : Acc) : Option TlbEnt → List Nat → XlateAll
  | _, [] => .ok []
  | last, va :: rest =>
    let t := match last with
      | some t => if t.covers va then some t else s.pageWalk va
      | none => s.pageWalk va
    match t with
    | none => if s.invalid.contains (va / 2 ^ 16) then .fault 0x09 va else .miss va
    | some t => match s.judge t va acc with
      | .miss => .miss va
      | .fault c => .fault c va
      | .ok pa => match s.walkRun acc (some t) rest with
        | .ok pas => .ok (pa :: pas)
        | r => r

/-! ### L1 words, update-only copies and RDC -/

/-- A word of an L1. -/
def Core.l1Find (c : Core) (wa : Nat) : Option L1Word := c.l1.find? (·.wa == wa)

/-- Adds a partial sum's value into the addend already there: combining by 02 R57 (RNE, subnormals kept) or modulo the
width. -/
def accCombine (op : Nat) (a b : DWord) : DWord :=
  match op with
  | 1 => a + b
  | 0 => (a.low + b.low).setWidth 64
  | _ => BitVec.ofNat 64 (fp32.add 0 false a.low.toNat b.low.toNat).1

/-- Ids of the cores that satisfy a test, ascending. -/
def State.coresWith (s : State) (p : Nat → Core → Bool) : List Nat :=
  ((indexed s.cores).filter fun x => p x.1 x.2).map (·.1)

/-- Bytes that an accumulate operation covers. -/
def accBytes (op : Nat) : Nat := if op = 1 then 8 else 4

/-- Writes an owned dirty word of a core back to its home (11 R253); the word stays owned. -/
def State.writeBack (s : State) (k : Nat) (wa : Nat) : State :=
  match (s.core k).l1Find wa with
  | some w =>
    if w.owned && w.dirty then
      (s.homePut (4 * wa) (bytesOf 4 w.val.toNat)).modCore k fun c =>
        { c with l1 := modifyAll (·.wa == wa) (fun w => { w with dirty := false }) c.l1 }
    else s
  | none => s

/-- The home recalls a word from every core but `keep`: dirty values come home, owners lose the word (11 R253). -/
def State.recall (s : State) (keep : Option Nat) (wa : Nat) : State :=
  let kept (k : Nat) : Bool := match keep with
    | some j => j == k
    | none => false
  let owners := s.coresWith fun k c => !kept k && c.l1.any (fun w => w.wa == wa && w.owned)
  owners.foldl (fun s k => (s.writeBack k wa).modCore k fun c =>
    { c with l1 := c.l1.filter (fun w => !(w.wa == wa && w.owned)) }) s

/-- Combines an addend into the word at its home (R242, 02 R57); the home recalls the words first (11 R253). -/
def State.accAtHome (s : State) (pa op : Nat) (x : DWord) : State :=
  let s := (s.recall none (pa / 4)).recall none ((pa + accBytes op - 1) / 4)
  let old := BitVec.ofNat 64 (natOf (s.homeRead pa (accBytes op)))
  s.homePut pa (bytesOf (accBytes op) (accCombine op old x).toNat)

/-- The home takes back every update-only copy of a line and combines it (R238). RDC copies on the holders' dies become
Invalid (11 R256). -/
def State.takeBack (s : State) (line : Nat) : State :=
  let held := s.coresWith fun _ c => c.upd.any (·.line == line)
  held.foldl (fun s k =>
    let sums := ((s.core k).upd.filter (·.line == line)).flatMap (·.sums)
    let s := sums.foldl (fun s p => s.accAtHome p.pa p.op p.val) s
    let s := s.modCore k fun c => { c with upd := c.upd.filter (·.line != line) }
    s.modDie (dieOf k) fun d => { d with rdc := d.rdc.filter (·.line != line) }) s

/-- The RDC copy that serves a read now (21 R416). -/
def State.rdcWord (s : State) (die wa : Nat) : Option Word :=
  match (s.die die).rdc.find? (fun l => l.line == wa / 32) with
  | some l => match l.words with
    | some ws => if s.time + 4 < l.expiry then some (wordAt ws (wa % 32)) else none
    | none => none
  | none => none

/-- A read of one word by a core (11 R253, R256): its L1, else the RDC or the home. Update-only copies of the line are
taken back first (R238). -/
def State.loadWord (s : State) (k wa : Nat) : Word × State :=
  let s := s.takeBack (wa / 32)
  match (s.core k).l1Find wa with
  | some w => (w.val, s)
  | none =>
    if homeDie (4 * wa) = dieOf k then (s.homeWord wa, s)
    else match s.rdcWord (dieOf k) wa with
      | some v => (v, s)
      | none => (s.homeWord wa, s)

/-- A line whose home is remote is to be filled into the RDC of a die, unless a copy serves or a fill runs (21 R416). -/
def State.missRdc (s : State) (die line : Nat) : State :=
  if homeDie (128 * line) != die
      && !(s.die die).rdc.any (fun l => l.line == line && (l.words.isNone || s.time + 4 < l.expiry)) then
    s.modDie die fun d =>
      { d with rdc := { line := line, words := none, expiry := 0 } :: d.rdc.filter (·.line != line) }
  else s

/-- A line that the core misses on gets a miss-status entry, which sends one request, or joins one that has sent its own;
and a fill of the RDC when its home is remote (R236, 21 R416). -/
def State.missLine (s : State) (k line : Nat) (read own upd : Bool) : State :=
  let join (m : Mse) : Bool := m.line == line
    && (s.cycle ≤ m.since + 16 || ((!read || m.read) && (!own || m.own) && (!upd || m.upd)))
  let add (m : Mse) : Mse := { m with read := m.read || read, own := m.own || own, upd := m.upd || upd }
  let new : Mse := { line := line, since := s.cycle, read := read, own := own, upd := upd }
  let sent : List Packet :=
    if (s.core k).mse.any join then [] else [{ channel := sliceOf (128 * line), writer := clusterOf k, bytes := 16 }]
  let s := s.modCore k fun c =>
    if c.mse.any join then { c with mse := modifyFirst join add c.mse } else { c with mse := c.mse ++ [new] }
  let s := { s with packets := s.packets ++ sent }
  if read then s.missRdc (dieOf k) line else s

/-- Reads bytes at physical addresses through a core's L1, noting misses. -/
def State.loadBytes (s : State) (k : Nat) : List Nat → List Byte × State
  | [] => ([], s)
  | pa :: rest =>
    let (w, s) := s.loadWord k (pa / 4)
    let s := if ((s.core k).l1Find (pa / 4)).isNone then s.missLine k (pa / 128) true false false else s
    let (bs, s) := s.loadBytes k rest
    (w.extractLsb' (8 * (pa % 4)) 8 :: bs, s)

/-- A store of one byte by a core: the word is registered at its home, recalled from other owners, and held owned and
dirty in L1 (11 R253). -/
def State.storeByte (s : State) (k pa : Nat) (b : Byte) : State :=
  let wa := pa / 4
  let s := s.takeBack (pa / 128)
  let s := s.recall (some k) wa
  let base := match (s.core k).l1Find wa with
    | some w => if w.owned then w.val else s.homeWord wa
    | none => s.homeWord wa
  let sh := 8 * (pa % 4)
  let v : Word := (base &&& ~~~((0xFF#32) <<< sh)) ||| (b.setWidth 32 <<< sh)
  s.modCore k fun c =>
    { c with l1 := { wa := wa, val := v, owned := true, dirty := true, since := s.cycle } :: c.l1.filter (·.wa != wa) }

/-- Stores bytes at physical addresses through a core's L1; poison of a whole 8-byte unit written is cleared. -/
def State.storeBytes (s : State) (k : Nat) : List (Nat × Byte) → State
  | [] => s
  | (pa, b) :: rest => (s.storeByte k pa b).storeBytes k rest

/-- A write performed at the home by an agent without an L1 (an engine, the host, another device): owners lose the
word first (11 R253). -/
def State.homeStore (s : State) : List (Nat × Byte) → State
  | [] => s
  | (pa, b) :: rest =>
    let s := (s.takeBack (pa / 128)).recall none (pa / 4)
    (s.homePut pa [b]).homeStore rest

/-- A read performed at the home (21 R430, 11 R258): update-only copies are taken back first. -/
def State.homeLoad (s : State) : List Nat → List Byte × State
  | [] => ([], s)
  | pa :: rest =>
    let s := s.takeBack (pa / 128)
    let b := s.homeByte pa
    let (bs, s) := s.homeLoad rest
    (b :: bs, s)

/-- Copies of a line in a core's L1 that are valid but not owned are dropped (own read-modify-writes: 11 R250). -/
def State.dropCopy (s : State) (k wa : Nat) : State :=
  s.modCore k fun c => { c with l1 := c.l1.filter (·.wa != wa) }

/-- The RDC copy of the issuer's die takes the bytes that a write left (11 R256, 21 R416). -/
def State.rdcTake (s : State) (die wa : Nat) : State :=
  if homeDie (4 * wa) = die then s
  else
    let v := s.homeWord wa
    let take (l : RdcLine) : RdcLine :=
      match l.words with
      | some ws => { l with words := some (ws.set (wa % 32) v) }
      | none => l
    s.modDie die fun d => { d with rdc := modifyAll (·.line == wa / 32) take d.rdc }

/-- One read-modify-write at the home slice (11 R258) on bytes at physical addresses: the old bytes, with the new
bytes given by a function of them. -/
def State.rmwHome (s : State) (k : Nat) (pas : List Nat) (f : List Byte → List Byte) : List Byte × State :=
  let s := pas.foldl (fun s pa => ((s.takeBack (pa / 128)).recall none (pa / 4)).dropCopy k (pa / 4)) s
  let old := pas.map s.homeByte
  let s := (pas.zip (f old)).foldl (fun s p => s.homePut p.1 [p.2]) s
  (old, pas.foldl (fun s pa => s.rdcTake (dieOf k) (pa / 4)) s)

/-- A release at `.cl` or wider writes every owned dirty word of the core back (11 R253). -/
def State.releaseL1 (s : State) (k : Nat) : State :=
  let dirty := ((s.core k).l1.filter fun w => w.owned && w.dirty).map (·.wa)
  dirty.foldl (fun s wa => s.writeBack k wa) s

/-- An acquire at `.cl` or wider drops every valid word that the core does not own (11 R253). -/
def State.acquireL1 (s : State) (k : Nat) : State :=
  s.modCore k fun c => { c with l1 := c.l1.filter (·.owned) }

/-- Scope `.cl` or wider. -/
def wideScope (scope : Nat) : Bool := 2 ≤ scope

/-- The release part of an access or fence at a scope, in L1. -/
def State.releaseAt (s : State) (k scope : Nat) : State := if wideScope scope then s.releaseL1 k else s
/-- The acquire part of an access or fence at a scope, in L1. -/
def State.acquireAt (s : State) (k scope : Nat) : State := if wideScope scope then s.acquireL1 k else s

/-- Completion time C of a write to a line (11 R257, 21 R417). -/
def State.completion (s : State) (line : Nat) : Nat :=
  let sl := s.slice (sliceOf (128 * line))
  match sl.lx.find? (·.1 == line) with
  | some (_, x) => max s.time x
  | none => max s.time sl.floor

/-! ### Scratchpad (R227-R234) -/

/-- `diag_to_linear` (R231) on an offset within the window. -/
def diagToLinear (a : Nat) : Nat :=
  let row := a / 512 % 64
  let col := a / 8 % 64
  a / 32768 * 32768 + row * 512 + (col + row) % 64 * 8 + a % 8

/-- A byte of a core's scratchpad. -/
def Core.spByte (c : Core) (off : Nat) : Byte := Mem.get Config.blankScratch c.sp off

/-- Reads scratchpad bytes. -/
def State.spRead (s : State) (k : Nat) (offs : List Nat) : List Byte := offs.map (s.core k).spByte

/-- Writes scratchpad bytes; poison of each 8-byte unit that one write covers whole is cleared (19 R383). -/
def State.spWrite (s : State) (k : Nat) (ps : List (Nat × Byte)) : State :=
  s.modCore k fun c => { c with
    sp := ps.foldl (fun m p => Mem.set Config.blankScratch m p.1 p.2) c.sp
    spBad := c.spBad.filter fun u => !((spanNat (8 * u) 8).all (ps.map (·.1)).contains) }

/-- The first poisoned byte among scratchpad offsets, by its place in the list (19 R383). -/
def State.spPoison (s : State) (k : Nat) (offs : List Nat) : Option Nat :=
  (spanNat 0 offs.length).find? fun j => (s.core k).spBad.contains (offs.getD j 0 / 8)

/-- Sets presence bits to 1 or 0 (R232). -/
def Core.setLines (c : Core) (present : Bool) (lines : List Nat) : Core :=
  if present then { c with absent := c.absent.filter fun l => !lines.contains l }
  else { c with absent := lines.foldl (fun a l => insertAsc l a) c.absent }

/-- The presence bit of a line. -/
def Core.present (c : Core) (line : Nat) : Bool := !c.absent.contains line

/-- A copy in flight fills the line (R232). -/
def Core.filling (c : Core) (line : Nat) : Bool := c.copies.any fun cp => cp.lines.contains line

end Sys2Proof.Machine
end

