-- ==== Sys2Proof/Machine/Flags.lean ====
section
/-! DEFINITION. `%fmode` (02 R39), the sticky flags and traps (R40, R41), and the conditions of the compare
instructions (04 R98, 05 R124, R125). -/

namespace Sys2Proof.Machine

/-- RM (R39). -/
def fmodeRm (f : Word) : Nat := f.toNat % 4
/-- FTZ (R39). -/
def fmodeFtz (f : Word) : Bool := f.getLsbD 2
/-- SF (R39). -/
def fmodeSf (f : Word) : Flags := f.extractLsb' 8 5
/-- TE (R39). -/
def fmodeTe (f : Word) : Flags := f.extractLsb' 16 5
/-- `%fmode` with SF replaced. -/
def fmodeSetSf (f : Word) (fl : Flags) : Word := (f &&& ~~~(0x1F00#32)) ||| (fl.setWidth 32 <<< 8)
/-- Reserved bits of `%fmode` (R39). -/
def fmodeReserved : Word := 0xFFE0E0F8

/-- The flags that an instruction raises set a sticky bit that was clear (R40). -/
def newSticky (f : Word) (fl : Flags) : Bool := (fl &&& ~~~(fmodeSf f)) != 0

/-- `%fmode` after an instruction that raised flags (R40). -/
def stickFlags (f : Word) (fl : Flags) : Word := fmodeSetSf f (fmodeSf f ||| fl)

/-- Enabled flags among those raised (R41). -/
def trappedFlags (f : Word) (fl : Flags) : Flags := fl &&& fmodeTe f

/-- An integer condition between two values of w bits (R98, R124): codes 0 to 11. -/
def intCond {w : Nat} (c : Nat) (a b : BitVec w) : Bool :=
  match c with
  | 0 => a == b
  | 1 => a != b
  | 2 => a.slt b
  | 3 => a.sle b
  | 4 => b.slt a
  | 5 => b.sle a
  | 6 => a.ult b
  | 7 => a.ule b
  | 8 => b.ult a
  | 9 => b.ule a
  | 10 => (a &&& b) != 0
  | _ => (a &&& b) == 0

/-- A floating condition of R125 on bit patterns: the result and the flags. -/
def floatCond (f : Fmt) (ftz : Bool) (c : Nat) (a b : Nat) : Bool × Flags :=
  let va := f.value ftz a
  let vb := f.value ftz b
  let nan := va.isNan || vb.isNan
  let sig := va.isSig || vb.isSig
  let o := va.cmp vb
  let r := match c with
    | 0 => !nan && o == 0
    | 1 => nan || o != 0
    | 2 => !nan && o < 0
    | 3 => !nan && o ≤ 0
    | 4 => !nan && 0 < o
    | 5 => !nan && 0 ≤ o
    | 6 => nan
    | _ => !nan
  let nv := if 2 ≤ c && c ≤ 5 then nan else sig
  (r, if nv then flagNV else 0)

end Sys2Proof.Machine
end

