-- ==== Sys2Proof/Decode.lean ====
section
/-! DEFINITION. The instruction words (spec 03 R64-R75): formats, opcode maps, decoder and encoder, and what R75 asks
of every instruction's fields: which operands it names (cause 0x01) and which bits and codes are reserved (cause 0x02).
-/

namespace Sys2Proof

/-! ### The formats (R67, R71) -/

/-- An instruction as its format lays it out: opcode and fields. `event` is a row of the table without words. -/
inductive Form where
  | l (op : BitVec 8) (o : LForm)
  | lq (op : BitVec 8) (o : LqForm)
  | lm (op : BitVec 8) (o : LmForm)
  | u (op : BitVec 6) (o : UForm)
  | ui (op : BitVec 6) (o : UiForm)
  | ub (op : BitVec 6) (o : UbForm)
  | uc (op : BitVec 6) (o : UcForm)
  | ue (op : BitVec 6) (o : UeForm)
  | ux (xop : BitVec 8) (o : UxForm)
  | event
  deriving DecidableEq, Repr

/-- First word of a lane format (R67). -/
def laneWord (s : Bool) (op : BitVec 8) (d a : BitVec 7) (b : BitVec 8) : Word :=
  0#1 ++ BitVec.ofBool s ++ op ++ d ++ a ++ b

/-- First word of a uniform format (R71). -/
def uniWord (s : Bool) (op : BitVec 6) (low : BitVec 24) : Word :=
  1#1 ++ BitVec.ofBool s ++ op ++ low

/-- The literal word that ends the instruction when B is 255 (R67, R68). -/
def litWords (b : BitVec 8) (lit : Word) : List Word := if b = 255 then [lit] else []

/-- The words of an instruction laid out by its format. -/
def Form.words : Form → List Word
  | .l op o => laneWord o.s op o.d o.a o.b :: litWords o.b o.lit
  | .lq op o => laneWord o.s op o.d o.a o.b :: (o.c ++ o.mod ++ o.imm) :: litWords o.b o.lit
  | .lm op o => [laneWord o.s op o.d o.a o.b,
      o.scope ++ o.order ++ o.xs ++ o.size ++ BitVec.ofBool o.sx ++ o.disp]
  | .u op o => [uniWord o.s op (o.d ++ o.a ++ o.b)]
  | .ui op o => [uniWord o.s op (o.d ++ o.imm)]
  | .ub op o => [uniWord o.s op o.off]
  | .uc op o => [uniWord o.s op (o.reg ++ o.off)]
  | .ue op o => [uniWord o.s op (o.d ++ o.a ++ o.b), o.ext]
  | .ux x o => [uniWord o.s 0x3F (o.d ++ o.a ++ o.b), x ++ o.ext]
  | .event => []

/-- The literal is kept only when B names it. -/
def keepLit (b : BitVec 8) (lit : Word) : Word := if b = 255 then lit else 0

/-- Fields of format L (R67). -/
def LForm.ofWords (w lit : Word) : LForm :=
  { s := w.getLsbD 30, d := w.extractLsb' 15 7, a := w.extractLsb' 8 7, b := w.extractLsb' 0 8,
    lit := keepLit (w.extractLsb' 0 8) lit }

/-- Fields of format LQ (R67). -/
def LqForm.ofWords (w e lit : Word) : LqForm :=
  { s := w.getLsbD 30, d := w.extractLsb' 15 7, a := w.extractLsb' 8 7, b := w.extractLsb' 0 8,
    c := e.extractLsb' 24 8, mod := e.extractLsb' 16 8, imm := e.extractLsb' 0 16,
    lit := keepLit (w.extractLsb' 0 8) lit }

/-- Fields of format LM (R67). -/
def LmForm.ofWords (w e : Word) : LmForm :=
  { s := w.getLsbD 30, d := w.extractLsb' 15 7, a := w.extractLsb' 8 7, b := w.extractLsb' 0 8,
    scope := e.extractLsb' 29 3, order := e.extractLsb' 26 3, xs := e.extractLsb' 24 2,
    size := e.extractLsb' 21 3, sx := e.getLsbD 20, disp := e.extractLsb' 0 20 }

/-- Fields of format U (R71). -/
def UForm.ofWord (w : Word) : UForm :=
  { s := w.getLsbD 30, d := w.extractLsb' 16 8, a := w.extractLsb' 8 8, b := w.extractLsb' 0 8 }

/-- Fields of format UI (R71). -/
def UiForm.ofWord (w : Word) : UiForm :=
  { s := w.getLsbD 30, d := w.extractLsb' 16 8, imm := w.extractLsb' 0 16 }

/-- Fields of format UB, unconditional (R71). -/
def UbForm.ofWord (w : Word) : UbForm := { s := w.getLsbD 30, off := w.extractLsb' 0 24 }

/-- Fields of format UB, conditional (R71). -/
def UcForm.ofWord (w : Word) : UcForm :=
  { s := w.getLsbD 30, reg := w.extractLsb' 16 8, off := w.extractLsb' 0 16 }

/-- Fields of format UE (R71). -/
def UeForm.ofWords (w e : Word) : UeForm :=
  { s := w.getLsbD 30, d := w.extractLsb' 16 8, a := w.extractLsb' 8 8, b := w.extractLsb' 0 8, ext := e }

/-- Fields of format UX (R71); XOP8 is read apart. -/
def UxForm.ofWords (w e : Word) : UxForm :=
  { s := w.getLsbD 30, d := w.extractLsb' 16 8, a := w.extractLsb' 8 8, b := w.extractLsb' 0 8,
    ext := e.extractLsb' 0 24 }

/-! ### The opcode maps (R72, R73, R74) -/

/-- Format and opcode of each instruction: the maps of R72, R73 and R74. -/
def Instr.form : Instr → Form
  | .iadd o => .l 0x01 o
  | .isub o => .l 0x02 o
  | .imul o => .l 0x03 o
  | .imulh o => .l 0x04 o
  | .laneUmulh o => .l 0x05 o
  | .imad o => .lq 0x06 o
  | .iand o => .l 0x07 o
  | .ior o => .l 0x08 o
  | .ixor o => .l 0x09 o
  | .inot o => .l 0x0A o
  | .ineg o => .l 0x0B o
  | .shl o => .l 0x0C o
  | .shr o => .l 0x0D o
  | .sar o => .l 0x0E o
  | .rol o => .l 0x0F o
  | .ror o => .l 0x10 o
  | .imin o => .l 0x11 o
  | .imax o => .l 0x12 o
  | .laneUmin o => .l 0x13 o
  | .laneUmax o => .l 0x14 o
  | .iabs o => .l 0x15 o
  | .popc o => .l 0x16 o
  | .clz o => .l 0x17 o
  | .brev o => .l 0x18 o
  | .bfe o => .lq 0x19 o
  | .bfi o => .lq 0x1A o
  | .iadds o => .l 0x1B o
  | .isubs o => .l 0x1C o
  | .sel o => .lq 0x1D o
  | .mov o => .l 0x1E o
  | .swap o => .l 0x1F o
  | .icmp o => .lq 0x20 o
  | .fcmp o => .lq 0x21 o
  | .lread o => .lq 0x22 o
  | .fadd o => .l 0x28 o
  | .fsub o => .l 0x29 o
  | .fmul o => .l 0x2A o
  | .ffma o => .lq 0x2B o
  | .ffma3 o => .lq 0x2C o
  | .fmin o => .l 0x2D o
  | .fmax o => .l 0x2E o
  | .fabs o => .l 0x2F o
  | .fneg o => .l 0x30 o
  | .fdiv o => .l 0x31 o
  | .fsqrt o => .l 0x32 o
  | .frcp o => .l 0x33 o
  | .frsq o => .l 0x34 o
  | .fexp2 o => .l 0x35 o
  | .flog2 o => .l 0x36 o
  | .fsin o => .l 0x37 o
  | .fcos o => .l 0x38 o
  | .ftanh o => .l 0x39 o
  | .fsigm o => .l 0x3A o
  | .frint o => .lq 0x3B o
  | .fscale o => .l 0x3C o
  | .fclass o => .l 0x3D o
  | .padd o => .lq 0x40 o
  | .psub o => .lq 0x41 o
  | .pmul o => .lq 0x42 o
  | .pfma o => .lq 0x43 o
  | .pmin o => .lq 0x44 o
  | .pmax o => .lq 0x45 o
  | .pabs o => .lq 0x46 o
  | .pneg o => .lq 0x47 o
  | .pshl o => .lq 0x48 o
  | .pshr o => .lq 0x49 o
  | .psar o => .lq 0x4A o
  | .pavg o => .lq 0x4B o
  | .pcmp o => .lq 0x4C o
  | .pdot o => .lq 0x4D o
  | .psad o => .lq 0x4E o
  | .cvt o => .lq 0x50 o
  | .pack o => .lq 0x51 o
  | .unpk o => .lq 0x52 o
  | .qblk o => .lq 0x53 o
  | .dqblk o => .lq 0x54 o
  | .shfl o => .lq 0x58 o
  | .shflx o => .lq 0x59 o
  | .shflu o => .lq 0x5A o
  | .shfld o => .lq 0x5B o
  | .bpick o => .lq 0x5C o
  | .scan o => .lq 0x5D o
  | .ld o => .lm 0x60 o
  | .ldx o => .lm 0x61 o
  | .st o => .lm 0x62 o
  | .xchg o => .lm 0x63 o
  | .ldblk o => .lm 0x64 o
  | .stblk o => .lm 0x65 o
  | .atom o => .lm 0x66 o
  | .acas o => .lm 0x67 o
  | .acc o => .lm 0x68 o
  | .pfetch o => .lm 0x69 o
  | .lds o => .lm 0x70 o
  | .sts o => .lm 0x71 o
  | .xchgs o => .lm 0x72 o
  | .atoms o => .lm 0x73 o
  | .ldf o => .lm 0x74 o
  | .ldsx o => .lm 0x75 o
  | .qpush o => .l 0x80 o
  | .qpop o => .l 0x81 o
  | .qpeek o => .l 0x82 o
  | .uadd o => .u 0x00 o
  | .usub o => .u 0x01 o
  | .umul o => .u 0x02 o
  | .umulh o => .u 0x03 o
  | .uand o => .u 0x04 o
  | .uor o => .u 0x05 o
  | .uxor o => .u 0x06 o
  | .unot o => .u 0x07 o
  | .ushl o => .u 0x08 o
  | .ushr o => .u 0x09 o
  | .usar o => .u 0x0A o
  | .urol o => .u 0x0B o
  | .umin o => .u 0x0C o
  | .umax o => .u 0x0D o
  | .umov o => .u 0x0E o
  | .uswap o => .u 0x0F o
  | .uaddi o => .ui 0x10 o
  | .umovi o => .ui 0x11 o
  | .umovh o => .ui 0x12 o
  | .uxori o => .ui 0x13 o
  | .uadd64 o => .u 0x14 o
  | .umov64 o => .u 0x15 o
  | .ucmp o => .ue 0x16 o
  | .nop o => .u 0x17 o
  | .br o => .ub 0x18 o
  | .brz o => .uc 0x19 o
  | .brnz o => .uc 0x1A o
  | .call o => .ub 0x1B o
  | .ret o => .u 0x1C o
  | .jmpr o => .u 0x1D o
  | .brl o => .uc 0x1E o
  | .brlz o => .uc 0x1F o
  | .regang o => .u 0x20 o
  | .exit o => .u 0x21 o
  | .mballot o => .u 0x22 o
  | .vote o => .u 0x23 o
  | .rdlane o => .u 0x24 o
  | .wrlane o => .u 0x25 o
  | .uld o => .ue 0x26 o
  | .ust o => .ue 0x27 o
  | .bar o => .ue 0x28 o
  | .bara o => .ue 0x29 o
  | .waitq o => .ue 0x2A o
  | .wake o => .ue 0x2B o
  | .fence o => .u 0x2C o
  | .waitc o => .u 0x2D o
  | .waitk o => .u 0x2E o
  | .uatom o => .ue 0x2F o
  | .commit o => .u 0x30 o
  | .rewind o => .u 0x31 o
  | .hpush o => .u 0x32 o
  | .hpop o => .u 0x33 o
  | .spawn o => .ue 0x34 o
  | .tend o => .u 0x35 o
  | .tjoin o => .u 0x36 o
  | .tclaim o => .u 0x37 o
  | .qpost o => .ue 0x38 o
  | .copy o => .ue 0x39 o
  | .mma o => .ue 0x3A o
  | .znew o => .u 0x3B o
  | .zrd o => .ue 0x3C o
  | .coll o => .ue 0x3D o
  | .trap o => .ui 0x3E o
  | .usel o => .ux 0x00 o
  | .ubfe o => .ux 0x01 o
  | .ubfi o => .ux 0x02 o
  | .upopc o => .ux 0x03 o
  | .uclz o => .ux 0x04 o
  | .uxchg o => .ux 0x05 o
  | .uacas o => .ux 0x06 o
  | .rflush o => .ux 0x07 o
  | .yield o => .ux 0x08 o
  | .snap o => .ux 0x09 o
  | .tmark o => .ux 0x0A o
  | .dbrk o => .ux 0x0B o
  | .leave o => .ux 0x0C o
  | .zst o => .ux 0x0D o
  | .zclr o => .ux 0x0E o
  | .gather o => .ux 0x0F o
  | .rewindt o => .ux 0x10 o
  | .laychk o => .ux 0x11 o
  | .bari o => .ux 0x12 o
  | .qstat o => .ux 0x13 o
  | .tret o => .ux 0x14 o
  | .twait o => .ux 0x15 o
  | .resultLanding .. => .event
  | .checkMismatch .. => .event
  | .lateFault .. => .event
  | .pageWalk .. => .event
  | .codeFill .. => .event
  | .lineFill .. => .event
  | .storeAck .. => .event
  | .horizonPassed .. => .event
  | .rdcFill .. => .event
  | .l1WritebackTimer .. => .event
  | .updateOnlyRequest .. => .event
  | .accWindowRollover .. => .event
  | .eddyAgeExpiry .. => .event
  | .forcedDelivery .. => .event
  | .storeArrival .. => .event
  | .linkEntryArrival .. => .event
  | .copyCompletion .. => .event
  | .copyFault .. => .event
  | .reportDelivery .. => .event
  | .mmaExecute .. => .event
  | .mmaCheck .. => .event
  | .zstEngine .. => .event
  | .collChunk .. => .event
  | .launchRecord .. => .event
  | .blockPlacement .. => .event
  | .launchCompletion .. => .event
  | .taskGather .. => .event
  | .press .. => .event
  | .leaveGrant .. => .event
  | .sluiceLend .. => .event
  | .leaveChainRelease .. => .event
  | .leaveUnusedExpiry .. => .event
  | .preemptRequest .. => .event
  | .preemptTrap .. => .event
  | .forcedSave .. => .event
  | .blockLeave .. => .event
  | .blockRestore .. => .event
  | .firmwareAbort .. => .event
  | .firmwareResume .. => .event
  | .firmwarePressResume .. => .event
  | .firmwareDeclareInvalid .. => .event
  | .haltRequest .. => .event
  | .programBuffer .. => .event
  | .dargWrite .. => .event
  | .resume .. => .event
  | .singleStep .. => .event
  | .resumeAtPc .. => .event
  | .traceTimePacket .. => .event
  | .traceSummary .. => .event
  | .traceRoomReturn .. => .event
  | .snapshotAgentTrigger .. => .event
  | .snapshotInput .. => .event
  | .snapshotArm .. => .event
  | .crossbarPacket .. => .event
  | .flitReceive .. => .event
  | .nak .. => .event
  | .wreq .. => .event
  | .wchg .. => .event
  | .wack .. => .event
  | .retrainWindow .. => .event
  | .trainingComplete .. => .event
  | .widthPolicy .. => .event
  | .linkRekey .. => .event
  | .read .. => .event
  | .write .. => .event
  | .readModifyWrite .. => .event
  | .accumulate .. => .event
  | .arrive .. => .event
  | .response .. => .event
  | .writeAcknowledgement .. => .event
  | .reductionPiece .. => .event
  | .chunkBit .. => .event
  | .hostWrite .. => .event
  | .hostRead .. => .event
  | .doorbellTicket .. => .event
  | .doorbellHead .. => .event
  | .apbaseWrite .. => .event
  | .registerWrite .. => .event
  | .map .. => .event
  | .unmap .. => .event
  | .setregBaseAllowance .. => .event
  | .setregAccControl .. => .event
  | .setregLease .. => .event
  | .setregDebugKey .. => .event
  | .attest .. => .event
  | .session .. => .event
  | .debugReq .. => .event
  | .regions .. => .event
  | .stats .. => .event
  | .reset .. => .event
  | .bringUp .. => .event
  | .powerSample .. => .event
  | .clockStepDown .. => .event
  | .clockStepUp .. => .event
  | .thermalTrip .. => .event
  | .mctpControl .. => .event
  | .pldmMonitoring .. => .event
  | .vendorAttest .. => .event
  | .illegalInstruction .. => .event
  | .placementReport .. => .event
  | .relight .. => .event
  | .stallCycle .. => .event

/-- What a lane opcode names: the format and the instruction. -/
inductive LaneCtor where
  | l (f : LForm → Instr)
  | lq (f : LqForm → Instr)
  | lm (f : LmForm → Instr)

/-- What a uniform primary opcode names. -/
inductive UniCtor where
  | u (f : UForm → Instr)
  | ui (f : UiForm → Instr)
  | ub (f : UbForm → Instr)
  | uc (f : UcForm → Instr)
  | ue (f : UeForm → Instr)

/-- The lane opcodes of R72; `none` for an unassigned one. -/
def laneOp : Nat → Option LaneCtor
  | 0x01 => some (.l .iadd)
  | 0x02 => some (.l .isub)
  | 0x03 => some (.l .imul)
  | 0x04 => some (.l .imulh)
  | 0x05 => some (.l .laneUmulh)
  | 0x06 => some (.lq .imad)
  | 0x07 => some (.l .iand)
  | 0x08 => some (.l .ior)
  | 0x09 => some (.l .ixor)
  | 0x0A => some (.l .inot)
  | 0x0B => some (.l .ineg)
  | 0x0C => some (.l .shl)
  | 0x0D => some (.l .shr)
  | 0x0E => some (.l .sar)
  | 0x0F => some (.l .rol)
  | 0x10 => some (.l .ror)
  | 0x11 => some (.l .imin)
  | 0x12 => some (.l .imax)
  | 0x13 => some (.l .laneUmin)
  | 0x14 => some (.l .laneUmax)
  | 0x15 => some (.l .iabs)
  | 0x16 => some (.l .popc)
  | 0x17 => some (.l .clz)
  | 0x18 => some (.l .brev)
  | 0x19 => some (.lq .bfe)
  | 0x1A => some (.lq .bfi)
  | 0x1B => some (.l .iadds)
  | 0x1C => some (.l .isubs)
  | 0x1D => some (.lq .sel)
  | 0x1E => some (.l .mov)
  | 0x1F => some (.l .swap)
  | 0x20 => some (.lq .icmp)
  | 0x21 => some (.lq .fcmp)
  | 0x22 => some (.lq .lread)
  | 0x28 => some (.l .fadd)
  | 0x29 => some (.l .fsub)
  | 0x2A => some (.l .fmul)
  | 0x2B => some (.lq .ffma)
  | 0x2C => some (.lq .ffma3)
  | 0x2D => some (.l .fmin)
  | 0x2E => some (.l .fmax)
  | 0x2F => some (.l .fabs)
  | 0x30 => some (.l .fneg)
  | 0x31 => some (.l .fdiv)
  | 0x32 => some (.l .fsqrt)
  | 0x33 => some (.l .frcp)
  | 0x34 => some (.l .frsq)
  | 0x35 => some (.l .fexp2)
  | 0x36 => some (.l .flog2)
  | 0x37 => some (.l .fsin)
  | 0x38 => some (.l .fcos)
  | 0x39 => some (.l .ftanh)
  | 0x3A => some (.l .fsigm)
  | 0x3B => some (.lq .frint)
  | 0x3C => some (.l .fscale)
  | 0x3D => some (.l .fclass)
  | 0x40 => some (.lq .padd)
  | 0x41 => some (.lq .psub)
  | 0x42 => some (.lq .pmul)
  | 0x43 => some (.lq .pfma)
  | 0x44 => some (.lq .pmin)
  | 0x45 => some (.lq .pmax)
  | 0x46 => some (.lq .pabs)
  | 0x47 => some (.lq .pneg)
  | 0x48 => some (.lq .pshl)
  | 0x49 => some (.lq .pshr)
  | 0x4A => some (.lq .psar)
  | 0x4B => some (.lq .pavg)
  | 0x4C => some (.lq .pcmp)
  | 0x4D => some (.lq .pdot)
  | 0x4E => some (.lq .psad)
  | 0x50 => some (.lq .cvt)
  | 0x51 => some (.lq .pack)
  | 0x52 => some (.lq .unpk)
  | 0x53 => some (.lq .qblk)
  | 0x54 => some (.lq .dqblk)
  | 0x58 => some (.lq .shfl)
  | 0x59 => some (.lq .shflx)
  | 0x5A => some (.lq .shflu)
  | 0x5B => some (.lq .shfld)
  | 0x5C => some (.lq .bpick)
  | 0x5D => some (.lq .scan)
  | 0x60 => some (.lm .ld)
  | 0x61 => some (.lm .ldx)
  | 0x62 => some (.lm .st)
  | 0x63 => some (.lm .xchg)
  | 0x64 => some (.lm .ldblk)
  | 0x65 => some (.lm .stblk)
  | 0x66 => some (.lm .atom)
  | 0x67 => some (.lm .acas)
  | 0x68 => some (.lm .acc)
  | 0x69 => some (.lm .pfetch)
  | 0x70 => some (.lm .lds)
  | 0x71 => some (.lm .sts)
  | 0x72 => some (.lm .xchgs)
  | 0x73 => some (.lm .atoms)
  | 0x74 => some (.lm .ldf)
  | 0x75 => some (.lm .ldsx)
  | 0x80 => some (.l .qpush)
  | 0x81 => some (.l .qpop)
  | 0x82 => some (.l .qpeek)
  | _ => none

/-- The uniform primary opcodes of R73; `none` for 0x3F, which is EXT. -/
def uniOp : Nat → Option UniCtor
  | 0x00 => some (.u .uadd)
  | 0x01 => some (.u .usub)
  | 0x02 => some (.u .umul)
  | 0x03 => some (.u .umulh)
  | 0x04 => some (.u .uand)
  | 0x05 => some (.u .uor)
  | 0x06 => some (.u .uxor)
  | 0x07 => some (.u .unot)
  | 0x08 => some (.u .ushl)
  | 0x09 => some (.u .ushr)
  | 0x0A => some (.u .usar)
  | 0x0B => some (.u .urol)
  | 0x0C => some (.u .umin)
  | 0x0D => some (.u .umax)
  | 0x0E => some (.u .umov)
  | 0x0F => some (.u .uswap)
  | 0x10 => some (.ui .uaddi)
  | 0x11 => some (.ui .umovi)
  | 0x12 => some (.ui .umovh)
  | 0x13 => some (.ui .uxori)
  | 0x14 => some (.u .uadd64)
  | 0x15 => some (.u .umov64)
  | 0x16 => some (.ue .ucmp)
  | 0x17 => some (.u .nop)
  | 0x18 => some (.ub .br)
  | 0x19 => some (.uc .brz)
  | 0x1A => some (.uc .brnz)
  | 0x1B => some (.ub .call)
  | 0x1C => some (.u .ret)
  | 0x1D => some (.u .jmpr)
  | 0x1E => some (.uc .brl)
  | 0x1F => some (.uc .brlz)
  | 0x20 => some (.u .regang)
  | 0x21 => some (.u .exit)
  | 0x22 => some (.u .mballot)
  | 0x23 => some (.u .vote)
  | 0x24 => some (.u .rdlane)
  | 0x25 => some (.u .wrlane)
  | 0x26 => some (.ue .uld)
  | 0x27 => some (.ue .ust)
  | 0x28 => some (.ue .bar)
  | 0x29 => some (.ue .bara)
  | 0x2A => some (.ue .waitq)
  | 0x2B => some (.ue .wake)
  | 0x2C => some (.u .fence)
  | 0x2D => some (.u .waitc)
  | 0x2E => some (.u .waitk)
  | 0x2F => some (.ue .uatom)
  | 0x30 => some (.u .commit)
  | 0x31 => some (.u .rewind)
  | 0x32 => some (.u .hpush)
  | 0x33 => some (.u .hpop)
  | 0x34 => some (.ue .spawn)
  | 0x35 => some (.u .tend)
  | 0x36 => some (.u .tjoin)
  | 0x37 => some (.u .tclaim)
  | 0x38 => some (.ue .qpost)
  | 0x39 => some (.ue .copy)
  | 0x3A => some (.ue .mma)
  | 0x3B => some (.u .znew)
  | 0x3C => some (.ue .zrd)
  | 0x3D => some (.ue .coll)
  | 0x3E => some (.ui .trap)
  | _ => none

/-- The extended opcodes of R74; `none` for an unassigned one. -/
def uxOp : Nat → Option (UxForm → Instr)
  | 0x00 => some .usel
  | 0x01 => some .ubfe
  | 0x02 => some .ubfi
  | 0x03 => some .upopc
  | 0x04 => some .uclz
  | 0x05 => some .uxchg
  | 0x06 => some .uacas
  | 0x07 => some .rflush
  | 0x08 => some .yield
  | 0x09 => some .snap
  | 0x0A => some .tmark
  | 0x0B => some .dbrk
  | 0x0C => some .leave
  | 0x0D => some .zst
  | 0x0E => some .zclr
  | 0x0F => some .gather
  | 0x10 => some .rewindt
  | 0x11 => some .laychk
  | 0x12 => some .bari
  | 0x13 => some .qstat
  | 0x14 => some .tret
  | 0x15 => some .twait
  | _ => none

/-! ### Operand fields (R68, R71, R75) -/

/-- One operand that an instruction's fields name. -/
inductive Operand where
  /-- reads `v n` to `v (n+k-1)` -/
  | vr (n k : Nat)
  /-- writes `v n` to `v (n+k-1)` -/
  | vw (n k : Nat)
  /-- reads a 32-bit uniform code -/
  | ur (c : Nat)
  /-- reads a 64-bit uniform operand (R71) -/
  | ur2 (c : Nat)
  /-- reads uniform codes c to c+k-1 -/
  | urk (c k : Nat)
  /-- writes a 32-bit uniform code -/
  | uw (c : Nat)
  /-- writes a 32-bit uniform code other than 0-2 -/
  | uwn (c : Nat)
  /-- writes a 64-bit uniform operand -/
  | uw2 (c : Nat)
  /-- reads and writes a code as USWAP does (R95) -/
  | uswap (c : Nat)
  /-- reads a b-code -/
  | bc (c : Nat)
  /-- reads a 64-bit device base of a b-code (R70) -/
  | bc2 (c : Nat)
  /-- reads a c-code -/
  | cc (c : Nat)
  deriving DecidableEq, Repr

/-- The first codes of control pairs (R71). -/
def ctlPairs : List Nat := [192, 194, 198, 203, 219, 222]

/-- A 64-bit uniform operand: an even s code or the first code of a control pair (R71). -/
def pairCode (c : Nat) : Bool := (c < 192 && c % 2 == 0) || ctlPairs.contains c

/-- A b-code names something other than the illegal codes 248-254 (R68). -/
def bCodeOk (c : Nat) : Bool := c < 248 || c == 255

/-- The operand's number is one that can be named at all, whatever the state. -/
def Operand.codeOk : Operand → Bool
  | .vr n k | .vw n k => n + k ≤ 128
  | .ur c => c ≤ 232
  | .ur2 c => pairCode c
  | .urk c k => c + k ≤ 192
  | .uw c => c ≤ 232
  | .uwn c => 3 ≤ c && c ≤ 232
  | .uw2 c => pairCode c
  | .uswap c => 3 ≤ c && c ≤ 232
  | .bc c => bCodeOk c
  | .bc2 c => c % 2 == 0 && c ≤ 222
  | .cc c => c < 248

/-- Codes 0-2 of ET are the 16- and 8-bit integers, 6 and 7 the floats (R69). -/
def etFloat (et : Nat) : Bool := et == 6 || et == 7

/-- Sub-elements of a lane for an element type (R33). -/
def etCount (et : Nat) : Nat := if et == 2 || et == 3 then 4 else if et == 4 || et == 5 then 8 else 2

/-- ET, MOD `[2:0]` (R69). -/
def LqForm.et (o : LqForm) : Nat := (o.mod.extractLsb' 0 3).toNat
/-- SAT, MOD `[4]` (R69). -/
def LqForm.sat (o : LqForm) : Bool := o.mod.getLsbD 4
/-- RO, MOD `[7]` (R69). -/
def LqForm.ro (o : LqForm) : Bool := o.mod.getLsbD 7
/-- RMO, MOD `[6:5]` (R69). -/
def LqForm.rmo (o : LqForm) : Nat := (o.mod.extractLsb' 5 2).toNat
/-- POS of BFE and BFI (R122). -/
def LqForm.pos (o : LqForm) : Nat := (o.imm.extractLsb' 11 5).toNat
/-- LEN of BFE and BFI (R122). -/
def LqForm.len (o : LqForm) : Nat := (o.imm.extractLsb' 5 6).toNat
/-- FROM of CVT (R134). -/
def LqForm.cvtFrom (o : LqForm) : Nat := (o.imm.extractLsb' 12 4).toNat
/-- TO of CVT (R134). -/
def LqForm.cvtTo (o : LqForm) : Nat := (o.imm.extractLsb' 8 4).toNat
/-- SELI of CVT (R134). -/
def LqForm.seli (o : LqForm) : Nat := (o.imm.extractLsb' 6 2).toNat
/-- IMM16 `[2:0]`: POS of PACK, index of UNPK, segment code (R135, R138). -/
def LqForm.low3 (o : LqForm) : Nat := (o.imm.extractLsb' 0 3).toNat
/-- MOD `[3:0]`, COND of ICMP and FCMP (R124, R125). -/
def LqForm.cond (o : LqForm) : Nat := (o.mod.extractLsb' 0 4).toNat

/-- SIZE of an LM access (R67). -/
def LmForm.sizeN (o : LmForm) : Nat := o.size.toNat
/-- ORDER of an LM access (R67). -/
def LmForm.orderN (o : LmForm) : Nat := o.order.toNat
/-- SCOPE of an LM access (R67). -/
def LmForm.scopeN (o : LmForm) : Nat := o.scope.toNat
/-- AOP of ATOM, ATOMS and ACC (R268). -/
def LmForm.aop (o : LmForm) : Nat := (o.disp.extractLsb' 16 4).toNat
/-- Data registers of a size: 2 for SIZE 3, 4 for SIZE 4, else 1 (R268). -/
def sizeRegs (size : Nat) : Nat := if size == 3 then 2 else if size == 4 then 4 else 1

/-- SCOPE of a ULD, UST or UATOM extension, of BAR, WAITQ, COPY and MMA (R285). -/
def UeForm.scopeN (o : UeForm) : Nat := (o.ext.extractLsb' 29 3).toNat
/-- ORDER of a ULD, UST or UATOM extension (R285). -/
def UeForm.orderN (o : UeForm) : Nat := (o.ext.extractLsb' 26 3).toNat
/-- SP of a ULD, UST or UATOM extension (R285). -/
def UeForm.sp (o : UeForm) : Bool := o.ext.getLsbD 24
/-- SIZE of a ULD, UST or UATOM extension (R285). -/
def UeForm.sizeN (o : UeForm) : Nat := (o.ext.extractLsb' 21 3).toNat
/-- SX of ULD (R285). -/
def UeForm.sx (o : UeForm) : Bool := o.ext.getLsbD 20
/-- AOP of UATOM (R285). -/
def UeForm.aop (o : UeForm) : Nat := (o.ext.extractLsb' 16 4).toNat
/-- W of BAR (R291). -/
def UeForm.barW (o : UeForm) : Bool := o.ext.getLsbD 25
/-- LEVEL of BAR and BARA (R291). -/
def UeForm.level (o : UeForm) : Nat := (o.ext.extractLsb' 26 3).toNat
/-- ACQ of COPY and MMA (R344, R348). -/
def UeForm.acq (o : UeForm) : Bool := o.ext.getLsbD 28
/-- REL of COPY (R344). -/
def UeForm.rel (o : UeForm) : Bool := o.ext.getLsbD 27
/-- ARV of COPY (R344). -/
def UeForm.arv (o : UeForm) : Bool := o.ext.getLsbD 26
/-- DIR of COPY (R344). -/
def UeForm.out (o : UeForm) : Bool := o.ext.getLsbD 25
/-- DSG of COPY (R344). -/
def UeForm.dsg (o : UeForm) : Nat := (o.ext.extractLsb' 17 8).toNat

/-- SCOPE of UXCHG, UACAS, BARI and GATHER (R285, R292, R346). -/
def UxForm.scopeN (o : UxForm) : Nat := (o.ext.extractLsb' 21 3).toNat
/-- ORDER of UXCHG and UACAS (R285). -/
def UxForm.orderN (o : UxForm) : Nat := (o.ext.extractLsb' 18 3).toNat
/-- W64 of UXCHG and UACAS (R285). -/
def UxForm.w64 (o : UxForm) : Bool := o.ext.getLsbD 17
/-- SP of UXCHG and UACAS (R285). -/
def UxForm.sp (o : UxForm) : Bool := o.ext.getLsbD 16
/-- POS of UBFE and UBFI (R100). -/
def UxForm.pos (o : UxForm) : Nat := (o.ext.extractLsb' 11 5).toNat
/-- LEN of UBFE and UBFI (R100). -/
def UxForm.len (o : UxForm) : Nat := (o.ext.extractLsb' 5 6).toNat
/-- C8 of USEL (R100). -/
def UxForm.c8 (o : UxForm) : Nat := (o.ext.extractLsb' 16 8).toNat
/-- REL of BARI, ACQ of GATHER: extension bit 20 (R292, R346). -/
def UxForm.bit20 (o : UxForm) : Bool := o.ext.getLsbD 20
/-- REL of GATHER, ARV of ZST: extension bit 19 (R346, R352). -/
def UxForm.bit19 (o : UxForm) : Bool := o.ext.getLsbD 19
/-- ARV of GATHER, REL of ZST: extension bit 18 (R346, R352). -/
def UxForm.bit18 (o : UxForm) : Bool := o.ext.getLsbD 18
/-- IDX of GATHER (R346). -/
def UxForm.idx (o : UxForm) : Nat := (o.ext.extractLsb' 10 8).toNat
/-- DSG of GATHER (R346). -/
def UxForm.gdsg (o : UxForm) : Nat := (o.ext.extractLsb' 2 8).toNat
/-- OFMT of ZST (R352). -/
def UxForm.ofmt (o : UxForm) : Nat := (o.ext.extractLsb' 20 4).toNat
/-- SCOPE of ZST (R352). -/
def UxForm.zscope (o : UxForm) : Nat := (o.ext.extractLsb' 15 3).toNat
/-- PITCH16 of ZST (R352). -/
def UxForm.pitch16 (o : UxForm) : Nat := (o.ext.extractLsb' 4 11).toNat

/-- Operands of a three-operand L instruction. -/
def LForm.ops3 (o : LForm) : List Operand := [.vw o.d.toNat 1, .vr o.a.toNat 1, .bc o.b.toNat]
/-- Operands of a one-source L instruction (R119). -/
def LForm.ops2 (o : LForm) : List Operand := [.vw o.d.toNat 1, .vr o.a.toNat 1]
/-- Operands of a two-source LQ instruction. -/
def LqForm.ops3 (o : LqForm) : List Operand := [.vw o.d.toNat 1, .vr o.a.toNat 1, .bc o.b.toNat]
/-- Operands of a one-source LQ instruction. -/
def LqForm.ops2 (o : LqForm) : List Operand := [.vw o.d.toNat 1, .vr o.a.toNat 1]
/-- Operands of a three-source LQ instruction. -/
def LqForm.ops4 (o : LqForm) : List Operand :=
  [.vw o.d.toNat 1, .vr o.a.toNat 1, .bc o.b.toNat, .cc o.c.toNat]
/-- The offset register, unless XS is 3 (R70). -/
def LmForm.offOps (o : LmForm) : List Operand := if o.xs = 3 then [] else [.vr o.a.toNat 1]
/-- Address operands of a device-memory form (R70). -/
def LmForm.devOps (o : LmForm) : List Operand := .bc2 o.b.toNat :: o.offOps
/-- Address operands of a scratchpad form (R70). -/
def LmForm.spOps (o : LmForm) : List Operand := .bc o.b.toNat :: o.offOps
/-- Operands of a three-operand U instruction. -/
def UForm.ops3 (o : UForm) : List Operand := [.uw o.d.toNat, .ur o.a.toNat, .ur o.b.toNat]
/-- Operands of a two-operand U instruction. -/
def UForm.ops2 (o : UForm) : List Operand := [.uw o.d.toNat, .ur o.a.toNat]
/-- Address operand of a ULD, UST or UATOM (R285). -/
def UeForm.addrOp (o : UeForm) : Operand := if o.sp then .ur o.a.toNat else .ur2 o.a.toNat
/-- Address operand of a UXCHG or UACAS (R285). -/
def UxForm.addrOp (o : UxForm) : Operand := if o.sp then .ur o.a.toNat else .ur2 o.a.toNat
/-- A 32- or 64-bit read. -/
def urSize (wide : Bool) (c : Nat) : Operand := if wide then .ur2 c else .ur c
/-- A 32- or 64-bit write. -/
def uwSize (wide : Bool) (c : Nat) : Operand := if wide then .uw2 c else .uw c
/-- A completion designator pair, when one is given (R344). -/
def dsgOps (arv : Bool) (c : Nat) : List Operand := if arv then [.ur2 c] else []

/-- The operands that an instruction's fields name, in the order in which the model looks for a hazard (R66). -/
def Instr.operands : Instr → List Operand
  | .iadd o | .isub o | .imul o | .imulh o | .laneUmulh o | .iand o | .ior o | .ixor o | .shl o | .shr o | .sar o
  | .rol o | .ror o | .imin o | .imax o | .laneUmin o | .laneUmax o | .iadds o | .isubs o
  | .fadd o | .fsub o | .fmul o | .fmin o | .fmax o | .fdiv o | .fscale o => o.ops3
  | .inot o | .ineg o | .iabs o | .popc o | .clz o | .brev o | .fabs o | .fneg o | .fsqrt o | .frcp o | .frsq o
  | .fexp2 o | .flog2 o | .fsin o | .fcos o | .ftanh o | .fsigm o | .fclass o => o.ops2
  | .mov o => [.vw o.d.toNat 1, .bc o.b.toNat]
  | .swap o => [.vr o.d.toNat 1, .vr o.a.toNat 1, .vw o.d.toNat 1, .vw o.a.toNat 1]
  | .imad o | .sel o | .ffma o | .pfma o | .pdot o | .psad o | .shfl o | .shflx o | .shflu o | .shfld o
  | .bpick o => o.ops4
  | .ffma3 o => .vr o.d.toNat 1 :: o.ops4
  | .bfi o | .icmp o | .fcmp o | .padd o | .psub o | .pmul o | .pmin o | .pmax o | .pshl o | .pshr o | .psar o
  | .pavg o | .pcmp o => o.ops3
  | .pack o => .vr o.d.toNat 1 :: o.ops3
  | .bfe o | .frint o | .pabs o | .pneg o | .cvt o | .unpk o | .qblk o | .dqblk o | .scan o => o.ops2
  | .lread o => [.vw o.d.toNat 1]
  | .ld o => .vw o.d.toNat (sizeRegs o.sizeN) :: o.devOps
  | .ldx o => .vr o.d.toNat (sizeRegs o.sizeN) :: .vw o.d.toNat (sizeRegs o.sizeN) :: o.devOps
  | .st o => .vr o.d.toNat (sizeRegs o.sizeN) :: o.devOps
      ++ (if o.order = 6 then [.ur2 (o.b.toNat - 128 + 2)] else [])
  | .xchg o | .atom o => .vr o.d.toNat (sizeRegs o.sizeN) :: .vw o.d.toNat (sizeRegs o.sizeN) :: o.devOps
  | .ldblk o => .vw o.d.toNat 1 :: o.devOps
  | .stblk o => .vr o.d.toNat 1 :: o.devOps
  | .acas o => .vr o.d.toNat (2 * sizeRegs o.sizeN) :: .vw o.d.toNat (sizeRegs o.sizeN) :: o.devOps
  | .acc o => .vr o.d.toNat (sizeRegs o.sizeN) :: o.devOps
  | .pfetch o => o.devOps
  | .lds o => .vw o.d.toNat (sizeRegs o.sizeN) :: o.spOps
  | .sts o => .vr o.d.toNat (sizeRegs o.sizeN) :: o.spOps
  | .xchgs o | .atoms o | .ldsx o =>
      .vr o.d.toNat (sizeRegs o.sizeN) :: .vw o.d.toNat (sizeRegs o.sizeN) :: o.spOps
  | .ldf o => [.vw o.d.toNat (sizeRegs o.sizeN), .bc o.b.toNat]
  | .qpush o => [.bc o.b.toNat]
  | .qpop o | .qpeek o => [.vw o.d.toNat 1]
  | .uadd o | .usub o | .umul o | .umulh o | .uand o | .uor o | .uxor o | .ushl o | .ushr o | .usar o | .urol o
  | .umin o | .umax o => o.ops3
  | .unot o | .umov o => o.ops2
  | .uswap o => [.uswap o.d.toNat, .uswap o.a.toNat]
  | .uaddi o | .umovh o | .uxori o => [.ur o.d.toNat, .uw o.d.toNat]
  | .umovi o => [.uw o.d.toNat]
  | .uadd64 o => [.uw2 o.d.toNat, .ur2 o.a.toNat, .ur2 o.b.toNat]
  | .umov64 o => [.uw2 o.d.toNat, .ur2 o.a.toNat]
  | .ucmp o => let w := o.ext.getLsbD 27; [.uw o.d.toNat, urSize w o.a.toNat, urSize w o.b.toNat]
  | .nop _ | .ret _ | .regang _ | .exit _ | .fence _ | .waitc _ | .commit _ | .tend _ | .tjoin _ | .znew _ => []
  | .usel o => [.uw o.d.toNat, .ur o.a.toNat, .ur o.b.toNat, .ur o.c8]
  | .ubfe o | .upopc o | .uclz o => [.uw o.d.toNat, .ur o.a.toNat]
  | .ubfi o => [.uw o.d.toNat, .ur o.a.toNat, .ur o.b.toNat]
  | .br _ => []
  | .brz o | .brnz o => [.ur o.reg.toNat]
  | .call _ => [.uw2 203]
  | .jmpr o | .rewind o => [.ur2 o.a.toNat]
  | .brl o | .brlz o => [.vr (o.reg.toNat % 128) 1]
  | .mballot o => [.vr (o.a.toNat % 128) 1, .uw o.d.toNat, .uw (o.d.toNat + 1), .uw (o.d.toNat + 2)]
  | .vote o => [.vr (o.a.toNat % 128) 1, .uw o.d.toNat]
  | .rdlane o => [.vr (o.a.toNat % 128) 1, .ur o.b.toNat, .uw o.d.toNat]
  | .wrlane o => [.ur o.a.toNat, .ur o.b.toNat, .vw (o.d.toNat % 128) 1]
  | .uld o => [o.addrOp, uwSize (o.sizeN == 3) o.d.toNat]
  | .ust o => [urSize (o.sizeN == 3) o.d.toNat, o.addrOp] ++ (if o.orderN = 6 then [.ur2 o.b.toNat] else [])
  | .uatom o => [o.addrOp, urSize (o.sizeN == 3) o.b.toNat, uwSize (o.sizeN == 3) o.d.toNat]
  | .uxchg o => [urSize o.w64 o.d.toNat, o.addrOp, uwSize o.w64 o.d.toNat]
  | .uacas o => [urSize o.w64 o.d.toNat, o.addrOp, urSize o.w64 o.b.toNat, uwSize o.w64 o.d.toNat]
  | .bar o => [.ur2 o.a.toNat] ++ (if o.barW then [.ur o.b.toNat] else []) ++ [.uwn o.d.toNat]
  | .bara o | .waitq o => [.ur2 o.a.toNat, .uwn o.d.toNat]
  | .wake o => [.ur2 o.a.toNat, .ur o.b.toNat, .uwn o.d.toNat]
  | .bari o => [.ur o.d.toNat, .ur2 o.a.toNat, .ur o.b.toNat]
  | .waitk o => [.ur2 o.a.toNat, .ur o.b.toNat]
  | .rewindt o => [.ur2 o.a.toNat]
  | .hpush o => [.ur o.a.toNat]
  | .hpop o => [.uw o.d.toNat]
  | .spawn o => [.vr (o.a.toNat % 128) 8]
  | .tclaim o => [.vw (o.d.toNat % 128) 1]
  | .qpost o => [.ur o.a.toNat, .ur2 o.b.toNat, .uwn o.d.toNat]
  | .qstat o => [.uwn o.d.toNat]
  | .rflush _ | .tret _ | .snap _ | .dbrk _ | .leave _ | .zclr _ | .trap _ => []
  | .twait o => [.ur2 o.a.toNat, .uwn o.d.toNat]
  | .copy o => [.ur o.d.toNat, .urk o.a.toNat 24, .urk o.b.toNat 5] ++ dsgOps o.arv o.dsg
  | .gather o => [.ur o.d.toNat, .urk o.a.toNat 24, .urk o.b.toNat 5, .ur o.idx] ++ dsgOps o.bit18 o.gdsg
  | .laychk o => [.urk o.a.toNat 24]
  | .mma o => [.vr (o.a.toNat % 128) 16, .urk o.b.toNat 4]
  | .zrd o => [.vw (o.d.toNat % 128) 8]
  | .zst o => [.ur o.d.toNat] ++ dsgOps o.bit19 o.b.toNat
  | .coll o => [.ur2 o.a.toNat, .ur o.b.toNat]
  | .yield o => [.ur o.a.toNat, .ur o.b.toNat]
  | .tmark o => [.ur o.a.toNat]
  | .resultLanding .. => []
  | .checkMismatch .. => []
  | .lateFault .. => []
  | .pageWalk .. => []
  | .codeFill .. => []
  | .lineFill .. => []
  | .storeAck .. => []
  | .horizonPassed .. => []
  | .rdcFill .. => []
  | .l1WritebackTimer .. => []
  | .updateOnlyRequest .. => []
  | .accWindowRollover .. => []
  | .eddyAgeExpiry .. => []
  | .forcedDelivery .. => []
  | .storeArrival .. => []
  | .linkEntryArrival .. => []
  | .copyCompletion .. => []
  | .copyFault .. => []
  | .reportDelivery .. => []
  | .mmaExecute .. => []
  | .mmaCheck .. => []
  | .zstEngine .. => []
  | .collChunk .. => []
  | .launchRecord .. => []
  | .blockPlacement .. => []
  | .launchCompletion .. => []
  | .taskGather .. => []
  | .press .. => []
  | .leaveGrant .. => []
  | .sluiceLend .. => []
  | .leaveChainRelease .. => []
  | .leaveUnusedExpiry .. => []
  | .preemptRequest .. => []
  | .preemptTrap .. => []
  | .forcedSave .. => []
  | .blockLeave .. => []
  | .blockRestore .. => []
  | .firmwareAbort .. => []
  | .firmwareResume .. => []
  | .firmwarePressResume .. => []
  | .firmwareDeclareInvalid .. => []
  | .haltRequest .. => []
  | .programBuffer .. => []
  | .dargWrite .. => []
  | .resume .. => []
  | .singleStep .. => []
  | .resumeAtPc .. => []
  | .traceTimePacket .. => []
  | .traceSummary .. => []
  | .traceRoomReturn .. => []
  | .snapshotAgentTrigger .. => []
  | .snapshotInput .. => []
  | .snapshotArm .. => []
  | .crossbarPacket .. => []
  | .flitReceive .. => []
  | .nak .. => []
  | .wreq .. => []
  | .wchg .. => []
  | .wack .. => []
  | .retrainWindow .. => []
  | .trainingComplete .. => []
  | .widthPolicy .. => []
  | .linkRekey .. => []
  | .read .. => []
  | .write .. => []
  | .readModifyWrite .. => []
  | .accumulate .. => []
  | .arrive .. => []
  | .response .. => []
  | .writeAcknowledgement .. => []
  | .reductionPiece .. => []
  | .chunkBit .. => []
  | .hostWrite .. => []
  | .hostRead .. => []
  | .doorbellTicket .. => []
  | .doorbellHead .. => []
  | .apbaseWrite .. => []
  | .registerWrite .. => []
  | .map .. => []
  | .unmap .. => []
  | .setregBaseAllowance .. => []
  | .setregAccControl .. => []
  | .setregLease .. => []
  | .setregDebugKey .. => []
  | .attest .. => []
  | .session .. => []
  | .debugReq .. => []
  | .regions .. => []
  | .stats .. => []
  | .reset .. => []
  | .bringUp .. => []
  | .powerSample .. => []
  | .clockStepDown .. => []
  | .clockStepUp .. => []
  | .thermalTrip .. => []
  | .mctpControl .. => []
  | .pldmMonitoring .. => []
  | .vendorAttest .. => []
  | .illegalInstruction .. => []
  | .placementReport .. => []
  | .relight .. => []
  | .stallCycle .. => []

/-- Packed combinations that raise cause 0x01 (R130): SAT with a float, RO with an integer. -/
def LqForm.packedBad (o : LqForm) : Bool := (o.sat && etFloat o.et) || (o.ro && !etFloat o.et)

/-- D of an LM access fits its size (R268). -/
def LmForm.dBad (o : LmForm) : Bool := o.d.toNat % sizeRegs o.sizeN != 0

/-- A completion designator register: an even s code from 4 to 190 (R344, R352). -/
def dsgBad (arv : Bool) (c : Nat) : Bool := arv && !(c % 2 == 0 && 4 ≤ c && c ≤ 190)

/-- First word of a layout record: a multiple of 8 from 8 to 168 (R312, R344). -/
def layBad (c : Nat) : Bool := !(c % 8 == 0 && 8 ≤ c && c ≤ 168)

/-- Further values of an operand field that are not allowed whatever the state: cause 0x01 (R75). -/
def Instr.badValue : Instr → Bool
  | .bfe o | .bfi o => o.len == 0 || o.len > 32 || o.pos + o.len > 32
  | .padd o | .psub o | .pmul o | .pdot o | .pabs o | .pneg o => o.packedBad
  | .pfma o => o.packedBad || !etFloat o.et
  | .pmin o | .pmax o | .pcmp o => o.sat || o.ro
  | .pavg o => o.sat || o.ro || etFloat o.et
  | .pshl o => o.packedBad || etFloat o.et
  | .psad o => o.packedBad || etFloat o.et
  | .pshr o => o.packedBad || etFloat o.et || o.sat
  | .psar o => o.packedBad || etFloat o.et || o.sat || o.et == 1 || o.et == 3 || o.et == 5
  | .cvt o =>
      let isInt (k : Nat) : Bool := k < 2 || (8 ≤ k && k < 12)
      let isT (k : Nat) : Bool := 5 ≤ k && k ≤ 7
      (o.sat && !(isInt o.cvtFrom && isInt o.cvtTo)) || (o.ro && isT o.cvtTo)
        || (o.cvtFrom ≤ 2 && o.seli != 0)
        || ((o.cvtFrom == 3 || o.cvtFrom == 4 || o.cvtFrom == 8 || o.cvtFrom == 9) && o.seli > 1)
  | .pack o => o.packedBad || (etCount o.et == 2 && o.low3 != 0)
      || (etCount o.et == 4 && (o.low3 % 2 != 0 || o.low3 > 2))
      || (etCount o.et == 8 && (o.low3 % 2 != 0 || o.low3 > 6))
  | .unpk o => o.sat || o.ro || o.low3 ≥ etCount o.et
  | .qblk o | .scan o => o.ro
  | .ld o => o.sizeN > 4 || o.orderN > 1 && o.orderN < 7 || o.dBad
  | .ldx o => !(o.sizeN == 2 || o.sizeN == 3) || o.orderN > 1 && o.orderN < 7 || o.dBad
  | .st o => o.sizeN > 4 || o.orderN == 1 || o.orderN == 3 || o.orderN == 4 || o.orderN == 5 || o.dBad
      || (o.orderN == 6 && !(128 ≤ o.b.toNat && o.b.toNat ≤ 220))
  | .xchg o | .xchgs o => !(o.sizeN == 2 || o.sizeN == 3) || o.orderN > 3 && o.orderN < 7 || o.dBad
  | .atom o | .atoms o => !(o.sizeN == 2 || o.sizeN == 3) || o.orderN > 3 && o.orderN < 7 || o.dBad
      || (8 ≤ o.aop && o.aop ≤ 11 && o.sizeN == 3)
  | .acas o => !(o.sizeN == 2 || o.sizeN == 3) || o.orderN > 3 && o.orderN < 7
      || o.d.toNat % (2 * sizeRegs o.sizeN) != 0
  | .ldblk o => o.sizeN < 5 || o.orderN > 1 && o.orderN < 7
  | .stblk o => o.sizeN < 5 || o.orderN == 1 || o.orderN > 2 && o.orderN < 7
  | .acc o => !(o.sizeN == 2 || o.sizeN == 3) || o.orderN != 0 && o.orderN != 7 || o.dBad
      || (o.aop < 3 && (o.aop == 1) != (o.sizeN == 3))
  | .pfetch o => o.sizeN != 0 || o.orderN != 0 && o.orderN != 7
  | .lds o => o.sizeN > 4 || !(o.orderN == 0 || o.orderN == 1 || o.orderN == 4 || o.orderN == 7) || o.dBad
      || o.b = 255
  | .sts o => o.sizeN > 4 || !(o.orderN == 0 || o.orderN == 2 || o.orderN == 5 || o.orderN == 7) || o.dBad
      || o.b = 255
  | .ldf o => !(o.sizeN == 2 || o.sizeN == 3) || o.orderN != 0 && o.orderN != 7 || o.dBad
      || o.b.toNat < 128 || o.b = 255 || o.xs != 3
  | .ldsx o => !(o.sizeN == 2 || o.sizeN == 3) || o.orderN != 0 && o.orderN != 7 || o.dBad || o.b = 255
  | .mballot o => o.d.toNat == 1 || o.d.toNat == 2 || o.d.toNat > 189
  | .fence o => let ord := (o.b.extractLsb' 3 3).toNat; ord == 0 || (4 ≤ ord && ord ≤ 6)
  | .ubfe o | .ubfi o => o.len == 0 || o.len > 32 || o.pos + o.len > 32
  | .uld o => o.sizeN > 3 || !(o.orderN == 0 || o.orderN == 1 || o.orderN == 7 || (o.orderN == 4 && o.sp))
  | .ust o => o.sizeN > 3 || !(o.orderN == 0 || o.orderN == 2 || o.orderN == 6 || o.orderN == 7
      || (o.orderN == 5 && o.sp)) || (o.orderN == 6 && (o.sp || o.b.toNat ≥ 192))
  | .uatom o => !(o.sizeN == 2 || o.sizeN == 3) || o.orderN > 3 && o.orderN < 7
      || (o.sizeN == 3 && 8 ≤ o.aop && o.aop ≤ 11)
  | .uxchg o | .uacas o => o.orderN > 3 && o.orderN < 7
  | .spawn o => o.a.toNat % 8 != 0
  | .qpost o => o.b.toNat ≥ 192
  | .copy o => layBad o.a.toNat || o.b.toNat > 187 || dsgBad o.arv o.dsg
  | .gather o => layBad o.a.toNat || o.b.toNat > 187 || dsgBad o.bit18 o.gdsg
  | .laychk o => layBad o.a.toNat
  | .mma o => o.a.toNat % 8 != 0 || !(o.b.toNat % 4 == 0 && 4 ≤ o.b.toNat && o.b.toNat ≤ 188)
  | .zrd o => o.d.toNat % 8 != 0
  | .zst o => dsgBad o.bit19 o.b.toNat
  | _ => false

/-! ### Reserved bits and codes (R75, cause 0x02) -/

/-- RMO is 0 when RO is 0 (R69). -/
def LqForm.rmoOk (o : LqForm) : Bool := o.ro || o.rmo == 0

/-- Packed MOD: bit 3 reserved, RMO only with RO (R69). -/
def LqForm.packOk (o : LqForm) : Bool := !o.mod.getLsbD 3 && o.rmoOk

/-- SCOPE, ORDER, XS and A of an LM access (R70): no reserved code, no scope without an order, no index register
without an index. -/
def LmForm.memOk (o : LmForm) : Bool :=
  o.scopeN < 6 && o.orderN < 7 && (o.orderN != 0 || o.scopeN == 0) && (o.xs != 3 || o.a == 0)

/-- SX is 0 where it has no meaning (R67, R70). -/
def LmForm.noSx (o : LmForm) : Bool := !o.sx

/-- SCOPE and ORDER of a uniform access (R285). -/
def memOkU (scope order : Nat) : Bool := scope < 6 && order < 7 && (order != 0 || scope == 0)

/-- Every reserved bit is 0 and no reserved code stands (R75). -/
def Instr.reservedOk : Instr → Bool
  | .inot o | .ineg o | .iabs o | .popc o | .clz o | .brev o | .fabs o | .fneg o | .fsqrt o | .frcp o | .frsq o
  | .fexp2 o | .flog2 o | .fsin o | .fcos o | .ftanh o | .fsigm o | .fclass o | .swap o => o.b == 0
  | .mov o => o.a == 0
  | .imad o | .sel o | .bpick o => o.mod == 0 && o.imm == 0
  | .bfe o => o.b == 0 && o.c == 0 && o.mod == 0 && o.imm.extractLsb' 0 4 == 0
  | .bfi o => o.c == 0 && o.mod == 0 && o.imm.extractLsb' 0 5 == 0
  | .icmp o => o.c == 0 && o.mod.extractLsb' 4 4 == 0 && o.imm == 0 && o.cond < 12
  | .fcmp o => o.c == 0 && o.mod.extractLsb' 4 4 == 0 && o.imm == 0 && o.cond < 8
  | .lread o => o.a == 0 && o.b == 0 && o.c == 0 && o.mod == 0 && o.imm.toNat < 4
  | .ffma o | .ffma3 o => o.mod.extractLsb' 0 5 == 0 && o.imm == 0 && o.rmoOk
  | .frint o => o.b == 0 && o.c == 0 && o.mod.extractLsb' 0 4 == 0 && o.imm == 0 && o.rmoOk
  | .padd o | .psub o | .pmul o | .pmin o | .pmax o | .pshl o | .pshr o | .psar o | .pavg o =>
      o.c == 0 && o.imm == 0 && o.packOk
  | .pfma o | .pdot o | .psad o => o.imm == 0 && o.packOk
  | .pabs o | .pneg o => o.b == 0 && o.c == 0 && o.imm == 0 && o.packOk
  | .pcmp o => o.c == 0 && o.packOk && o.imm.toNat < (if etFloat o.et then 8 else 6)
  | .cvt o => o.b == 0 && o.c == 0 && o.mod.extractLsb' 0 4 == 0 && o.imm.extractLsb' 0 6 == 0
      && o.cvtFrom < 12 && o.cvtTo < 12 && o.rmoOk
  | .pack o => o.c == 0 && o.imm.toNat < 8 && o.packOk
  | .unpk o => o.b == 0 && o.c == 0 && o.imm.toNat < 8 && o.packOk
  | .qblk o => o.b == 0 && o.c == 0 && o.mod.extractLsb' 0 7 == 0 && o.imm.toNat < 3
  | .dqblk o => o.b == 0 && o.c == 0 && o.mod.extractLsb' 0 5 == 0 && o.imm.toNat < 3 && o.rmoOk
  | .shfl o | .shflx o | .shflu o | .shfld o => o.mod == 0 && o.imm.toNat < 5
  | .scan o => o.b == 0 && o.c == 0 && o.mod.extractLsb' 0 7 == 0 && o.imm.extractLsb' 7 9 == 0 && o.low3 < 5
  | .ld o | .lds o => o.memOk && (o.noSx || o.sizeN < 2)
  | .ldx o | .st o | .xchg o | .ldblk o | .stblk o | .acas o | .sts o | .xchgs o | .ldsx o => o.memOk && o.noSx
  | .atom o | .atoms o => o.memOk && o.noSx && o.aop < 12
  | .acc o => o.memOk && o.noSx && o.aop < 3
  | .pfetch o => o.memOk && o.noSx && o.d.toNat < 2
  | .ldf o => o.memOk
  | .qpush o => o.d == 0 && o.a.toNat < 16
  | .qpop o | .qpeek o => o.b == 0 && o.a.toNat < 16
  | .unot o | .umov o | .uswap o | .umov64 o => o.b == 0
  | .nop o | .ret o | .regang o | .exit o | .commit o | .tend o | .tjoin o => o.d == 0 && o.a == 0 && o.b == 0
  | .jmpr o | .rewind o | .hpush o => o.d == 0 && o.b == 0
  | .hpop o => o.a == 0 && o.b == 0
  | .mballot o => o.a.toNat < 128 && o.b.toNat < 2
  | .vote o => o.a.toNat < 128 && o.b.toNat < 4
  | .rdlane o => o.a.toNat < 128
  | .wrlane o => o.d.toNat < 128
  | .fence o => o.d == 0 && o.a == 0 && o.b.toNat < 64 && (o.b.extractLsb' 0 3).toNat < 6
      && (o.b.extractLsb' 3 3).toNat < 7
  | .waitc o => o.d == 0 && o.a.toNat < 64
  | .waitk o => o.d.toNat < 6
  | .tclaim o => o.d.toNat < 128 && o.a == 0 && o.b == 0
  | .znew o => o.d.toNat < 4 && o.a == 0 && o.b == 0
  | .trap o => o.d == 0
  | .brl o | .brlz o => o.reg.toNat < 128
  | .ucmp o => o.ext.extractLsb' 0 27 == 0 && (o.ext.extractLsb' 28 4).toNat < 12
  | .uld o => o.b == 0 && !o.ext.getLsbD 25 && memOkU o.scopeN o.orderN && (!o.sx || o.sizeN < 2)
  | .ust o => (o.b == 0 || o.orderN == 6) && !o.ext.getLsbD 25 && memOkU o.scopeN o.orderN && !o.sx
  | .uatom o => !o.ext.getLsbD 25 && memOkU o.scopeN o.orderN && !o.sx && o.aop < 12
  | .bar o => o.ext.extractLsb' 0 25 == 0 && o.scopeN != 6 && (o.scopeN == 7 || o.level == 0)
      && (o.barW || o.b == 0)
  | .bara o => o.ext.extractLsb' 0 26 == 0 && o.scopeN != 6 && (o.scopeN == 7 || o.level == 0) && o.b == 0
  | .waitq o => o.b == 0 && o.ext.extractLsb' 0 29 == 0 && o.scopeN < 6
  | .wake o => o.ext.extractLsb' 0 29 == 0 && o.scopeN < 6
  | .spawn o => o.d == 0 && o.a.toNat < 128 && o.b == 0 && o.ext.extractLsb' 24 8 == 0
  | .qpost o => o.ext.extractLsb' 24 7 == 0 && (o.ext.getLsbD 31 || o.ext.extractLsb' 0 24 == 0)
  | .copy o => o.scopeN < 6 && (o.acq || o.rel || o.scopeN == 0) && (o.arv || o.dsg == 0)
      && o.ext.extractLsb' 0 17 == 0
  | .mma o => o.d.toNat < 4 && o.a.toNat < 128 && o.scopeN < 6 && (o.acq || o.scopeN == 0)
      && o.ext.extractLsb' 0 28 == 0
  | .zrd o => o.d.toNat < 128 && o.a.toNat < 4 && o.b == 0 && o.ext.toNat < 8
  | .coll o => o.d == 0 && o.ext == 0
  | .usel o => o.ext.extractLsb' 0 16 == 0
  | .ubfe o => o.b == 0 && o.ext.extractLsb' 16 8 == 0 && o.ext.extractLsb' 0 4 == 0
  | .ubfi o => o.ext.extractLsb' 16 8 == 0 && o.ext.extractLsb' 0 5 == 0
  | .upopc o | .uclz o => o.b == 0 && o.ext == 0
  | .uxchg o => o.b == 0 && memOkU o.scopeN o.orderN
  | .uacas o => memOkU o.scopeN o.orderN
  | .rflush o | .tret o => o.d == 0 && o.a == 0 && o.b == 0 && o.ext == 0
  | .yield o => o.d == 0 && o.ext.toNat < 16
  | .snap o | .dbrk o => o.d == 0 && o.a == 0 && o.b == 0 && o.ext.extractLsb' 16 8 == 0
  | .tmark o => o.d == 0 && o.b == 0 && o.ext.extractLsb' 16 8 == 0
  | .leave o => o.d == 0 && o.a == 0 && o.b == 0 && o.ext.toNat < 6
  | .zst o => o.a.toNat < 4 && o.ofmt < 4 && o.zscope < 6 && (o.bit18 || o.zscope == 0)
      && (o.bit19 || o.b == 0) && o.ext.extractLsb' 0 4 == 0
  | .zclr o => o.d.toNat < 4 && o.a == 0 && o.b == 0 && o.ext == 0
  | .gather o => o.scopeN < 6 && (o.bit20 || o.bit19 || o.scopeN == 0) && (o.bit18 || o.gdsg == 0)
      && o.ext.extractLsb' 0 2 == 0
  | .rewindt o | .laychk o => o.d == 0 && o.b == 0 && o.ext == 0
  | .bari o => o.ext.extractLsb' 0 20 == 0 && o.scopeN < 6 && (o.bit20 || o.scopeN == 0)
  | .qstat o => o.a == 0 && o.b == 0 && o.ext.toNat < 8
  | .twait o => o.b == 0 && o.ext == 0
  | _ => true

/-! ### Encoder and decoder -/

/-- The words of an instruction, first word first (R67, R71). -/
def encode (i : Instr) : List Word := i.form.words

/-- The first word, as causes 0x01 and 0x02 report it (R31). -/
def Instr.word0 (i : Instr) : Word := (encode i).headD 0

/-- The extension word, or 0 (R31). -/
def Instr.word1 (i : Instr) : Word :=
  match i.form with
  | .l .. => 0
  | f => (f.words.drop 1).headD 0

/-- Length in words (R60, R67). -/
def Instr.length (i : Instr) : Nat := (encode i).length

/-- Why a slot's words decode to no instruction. -/
inductive DecodeError where
  /-- an opcode that R72 or R74 leaves unassigned; the first word and, for EXT, the extension word -/
  | unassigned (w e : Word)
  /-- a reserved bit is 1 or a reserved code stands (R75) -/
  | reserved (i : Instr)
  /-- the words run out before the instruction ends -/
  | short
  deriving DecidableEq, Repr

/-- The instruction that a list of words begins with, every field as it stands. -/
def decodeFields : List Word → Except DecodeError Instr
  | [] => .error .short
  | w :: rest =>
    if w.getLsbD 31 then
      let op := (w.extractLsb' 24 6).toNat
      match uniOp op with
      | some (.u f) => .ok (f (.ofWord w))
      | some (.ui f) => .ok (f (.ofWord w))
      | some (.ub f) => .ok (f (.ofWord w))
      | some (.uc f) => .ok (f (.ofWord w))
      | some (.ue f) => match rest with
        | e :: _ => .ok (f (.ofWords w e))
        | [] => .error .short
      | none => match rest with
        | e :: _ => match uxOp (e.extractLsb' 24 8).toNat with
          | some f => .ok (f (.ofWords w e))
          | none => .error (.unassigned w e)
        | [] => .error .short
    else
      match laneOp (w.extractLsb' 22 8).toNat with
      | none => .error (.unassigned w 0)
      | some (.l f) =>
        if w.extractLsb' 0 8 = 255 then
          match rest with
          | x :: _ => .ok (f (.ofWords w x))
          | [] => .error .short
        else .ok (f (.ofWords w 0))
      | some (.lq f) => match rest with
        | e :: rest' =>
          if w.extractLsb' 0 8 = 255 then
            match rest' with
            | x :: _ => .ok (f (.ofWords w e x))
            | [] => .error .short
          else .ok (f (.ofWords w e 0))
        | [] => .error .short
      | some (.lm f) => match rest with
        | e :: _ => .ok (f (.ofWords w e))
        | [] => .error .short

/-- The decoder: the instruction that a list of words begins with, refused by name where its opcode is unassigned, a
reserved bit is set or the words run out. Operand values are judged at issue (R75), against the mode and the declared
register count. -/
def decode (ws : List Word) : Except DecodeError Instr :=
  match decodeFields ws with
  | .error e => .error e
  | .ok i => if i.reservedOk then .ok i else .error (.reserved i)

/-- The decoder on an instruction whose bits are `w`, numbered as spec/opcode_table.json numbers them: the first word is
bits 31..0, the next bits 63..32; words beyond `nbits` are 0. -/
def decodeTableWord (nbits w : Nat) : Option Instr :=
  let v := w % 2 ^ nbits
  match decode [BitVec.ofNat 32 v, BitVec.ofNat 32 (v / 2 ^ 32), BitVec.ofNat 32 (v / 2 ^ 64)] with
  | .ok i => some i
  | .error _ => none

end Sys2Proof
end

