-- ==== Sys2Proof/WellFormed.lean ====
section
/-! DEFINITION. Well-formed instructions: the operand values, reserved bits and literal that R75 asks of an instruction,
as far as the words alone decide (the declared register count, the mode and outstanding writes are judged at issue). -/

namespace Sys2Proof

/-- A row of the table that has no words. -/
def Instr.isEvent (i : Instr) : Bool := i.form == .event

/-- Every operand code can be named, and no field holds a value that is never allowed (R75, cause 0x01). -/
def Instr.operandsOk (i : Instr) : Bool := i.operands.all Operand.codeOk && !i.badValue

/-- The literal field is 0 unless B is 255: only then has the instruction a literal word (R67). -/
def Instr.litOk (i : Instr) : Bool :=
  match i.form with
  | .l _ o => o.b == 255 || o.lit == 0
  | .lq _ o => o.b == 255 || o.lit == 0
  | _ => true

/-- A well-formed instruction: it has words, and nothing in them raises cause 0x01 or 0x02 whatever the state. -/
def Instr.wellFormed (i : Instr) : Bool := !i.isEvent && i.operandsOk && i.reservedOk && i.litOk

end Sys2Proof
end

