-- ==== Sys2Proof/Machine/Operands.lean ====
section
/-! DEFINITION. Registers and operands: cohorts and strands in focus, vector, uniform and control registers with their
rights (04 R83-R93), b-codes and c-codes (03 R68), and the checks of R75 and R66 that depend on the state. -/

namespace Sys2Proof.Machine

/-! ### Cohorts and strands -/

/-- The strands of a cohort: each is live (07 R162). -/
def Cohort.strands (c : Cohort) : List Strand := c.st :: c.sibs

/-- Live strands. -/
def Cohort.nlive (c : Cohort) : Nat := 1 + c.sibs.length

/-- More than one strand is live: every memory, uniform and control write records (01 R12). -/
def Cohort.diverged (c : Cohort) : Bool := !c.sibs.isEmpty

/-- Changes every strand. -/
def Cohort.mapStrands (c : Cohort) (f : Strand → Strand) : Cohort := { c with st := f c.st, sibs := c.sibs.map f }

/-- The strand of an id. -/
def Cohort.strand? (c : Cohort) (id : Nat) : Option Strand := c.strands.find? (·.id == id)

/-- Changes the strand of an id. -/
def Cohort.modStrand (c : Cohort) (id : Nat) (f : Strand → Strand) : Cohort :=
  c.mapStrands fun t => if t.id == id then f t else t

/-- Brings a strand into focus. -/
def Cohort.focus (c : Cohort) (id : Nat) : Cohort :=
  if c.st.id == id then c
  else match c.sibs.find? (·.id == id) with
    | some t => { c with st := t, sibs := c.st :: c.sibs.filter (·.id != id) }
    | none => c

/-- The lowest live strand id. -/
def Cohort.lowest (c : Cohort) : Nat := c.sibs.foldl (fun m t => if t.id < m then t.id else m) c.st.id

/-- Every cohort of the module; the reset filler (uid 0) is none. -/
def State.cohorts (s : State) : List Cohort := (s.co :: s.others).filter (·.uid != 0)

/-- The cohort of a uid. -/
def State.cohort? (s : State) (uid : Nat) : Option Cohort := s.cohorts.find? (·.uid == uid)

/-- Changes the cohort of a uid. -/
def State.modCohort (s : State) (uid : Nat) (f : Cohort → Cohort) : State :=
  if s.co.uid == uid then { s with co := f s.co } else { s with others := modifyFirst (·.uid == uid) f s.others }

/-- Brings a cohort, and one of its strands, into focus. -/
def State.focus (s : State) (uid strand : Nat) : State :=
  if s.co.uid == uid then { s with co := s.co.focus strand }
  else match s.others.find? (·.uid == uid) with
    | some c => { s with co := c.focus strand
                         others := (if s.co.uid == 0 then [] else [s.co]) ++ s.others.filter (·.uid != uid) }
    | none => s

/-- Changes the focused cohort. -/
def State.setCo (s : State) (f : Cohort → Cohort) : State := { s with co := f s.co }
/-- Changes the focused strand. -/
def State.setSt (s : State) (f : Strand → Strand) : State := { s with co := { s.co with st := f s.co.st } }

/-- The block of a uid. -/
def State.block? (s : State) (uid : Nat) : Option Block := s.blocks.find? (·.uid == uid)
/-- Changes a block. -/
def State.modBlock (s : State) (uid : Nat) (f : Block → Block) : State :=
  { s with blocks := modifyFirst (·.uid == uid) f s.blocks }
/-- The launch of a uid. -/
def State.launch? (s : State) (uid : Nat) : Option Launch := s.launches.find? (·.uid == uid)
/-- Changes a launch. -/
def State.modLaunch (s : State) (uid : Nat) (f : Launch → Launch) : State :=
  { s with launches := modifyFirst (·.uid == uid) f s.launches }

/-- Reports to the supervisor firmware. -/
def State.toFw (s : State) (r : FwRec) : State := { s with fw := s.fw ++ [r] }

/-- Reports an absent page on a die to the supervisor firmware, once (19 R385). -/
def State.absent (s : State) (die va : Nat) : State :=
  let r := FwRec.page die (BitVec.ofNat 64 (va / 2 ^ 16 * 2 ^ 16))
  if s.fw.contains r then s else s.toFw r

/-- Parks the focused strand; an absent page is reported (19 R385). -/
def State.parkSt (s : State) (w : Wait) : State :=
  let s := match w with
    | .page va => s.absent (dieOf s.co.core) va.toNat
    | _ => s
  s.setSt fun t => { t with park := some w }

/-- Changes what every parked strand waits for, the halted strand's wait during a run of the program buffer included. -/
def State.mapParks (s : State) (f : Cohort → Strand → Wait → Wait) : State :=
  let g (c : Cohort) : Cohort := c.mapStrands fun t => { t with park := t.park.map (f c t) }
  let held := match s.dbg.buffer, s.dbg.held with
    | some (k, _), some w => match (s.co :: s.others).find? (·.uid == k) with
      | some c => some (f c c.st w)
      | none => some w
    | _, h => h
  { s with co := g s.co, others := s.others.map g, dbg := { s.dbg with held := held } }

/-! ### Whey offsets (01 R10, R18, 07 R163) -/

/-- Words of a record (01 R18). -/
def RecBody.size : RecBody → Nat
  | .lane _ m _ => 5 + laneCount m
  | .uni .. => 3
  | .mem _ _ _ old _ => 4 + 2 * ((old.length + 3) / 4)
  | .come .. => 4
  | .div .. => 10
  | .rejoin _ ps _ => 4 + 7 * ps.length
  | .mask _ => 5
  | .flags _ => 2

/-- Bytes of a list of records. -/
def recBytes (rs : List Rec) : Nat := rs.foldl (fun n r => n + 4 * r.body.size) 0

/-- `%wheyt` (01 R10). -/
def Cohort.wheyt (c : Cohort) : Nat := recBytes c.whey

/-- Reconvergence entries spilled into the region: all but the 32 most recent (07 R163). -/
def Cohort.spilled (c : Cohort) : Nat := c.stack.length - 32

/-- LIM of `%wheyl` (01 R10). -/
def Cohort.lim (c : Cohort) : Nat := 2 ^ c.szl - 64 * c.spilled

/-! ### Derived control registers -/

/-- Slices with a lane not removed (07 R157). -/
def Cohort.width (c : Cohort) : Nat :=
  ((List.range 24).filter fun j => (c.removed.extractLsb' (4 * j) 4) != 15).length

/-- Outstanding results of a class (04 R93). -/
def Strand.outOf (t : Strand) (cls : ResClass) : Nat := (t.outst.filter fun o => o.cls == cls).length

/-- Copies that have not retired: those from the oldest unfinished one on (15 R311). -/
def Strand.cpCount (t : Strand) : Nat := (t.copies.dropWhile (·.2)).length

/-- `%tickets` fields by class index: DM, SP, QR, ZR, SF, CP (04 R93, R115). -/
def Strand.ticket (t : Strand) : Nat → Nat
  | 0 => t.outOf .dm
  | 1 => t.outOf .sp
  | 2 => t.outOf .qr
  | 3 => t.outOf .zr
  | 4 => t.outOf .sf
  | _ => t.cpCount

/-- Maximum of each `%tickets` field (04 R93). -/
def ticketMax : Nat → Nat
  | 0 => 63
  | 1 => 63
  | 2 => 15
  | 3 => 15
  | 4 => 15
  | _ => 63

/-- `%tickets` (04 R93). -/
def Strand.tickets (t : Strand) : Word :=
  BitVec.ofNat 32 (t.ticket 0 + t.ticket 1 * 2 ^ 6 + t.ticket 2 * 2 ^ 12 + t.ticket 3 * 2 ^ 16 + t.ticket 4 * 2 ^ 20
    + t.ticket 5 * 2 ^ 24)

/-- `%rtile` (08 R185). -/
def State.rtile (s : State) : Word :=
  match s.block? s.co.block with
  | some b => BitVec.ofNat 32 (b.p / 16 * 2 ^ 15 + b.eddyN)
  | none => 0

/-- A boolean as 0 or 1. -/
def boolWord (b : Bool) : Word := if b then 1 else 0

/-- The value of uniform operand code c (03 R71, 04 R90), as the focused strand reads it. -/
def State.readU (s : State) (c : Nat) : Word :=
  let co := s.co
  if c < 3 then maskWord co.st.mask c
  else if c < 192 then wordAt co.s c
  else match c with
    | 192 => co.st.icnt.low
    | 193 => co.st.icnt.high
    | 194 => co.st.floor.low
    | 195 => co.st.floor.high
    | 196 => boolWord co.dir ||| (boolWord co.tm <<< 1)
    | 197 => co.st.cfr
    | 198 => co.wheyBase.low
    | 199 => co.wheyBase.high
    | 200 => BitVec.ofNat 32 co.wheyt
    | 201 => BitVec.ofNat 32 (co.szl * 2 ^ 27 + co.lim)
    | 202 => co.fmode
    | 203 => co.link.low
    | 204 => co.link.high
    | 205 => BitVec.ofNat 32 co.cid
    | 206 => co.blockIdx
    | 207 => BitVec.ofNat 32 (co.nlive * 16 + co.st.id)
    | 216 => BitVec.ofNat 32 co.core
    | 217 => BitVec.ofNat 32 (clusterOf co.core)
    | 218 => BitVec.ofNat 32 (dieOf co.core)
    | 219 => BitVec.ofNat 32 s.time
    | 220 => BitVec.ofNat 32 (s.time / 2 ^ 32)
    | 221 => co.cause
    | 222 => co.tinfo.low
    | 223 => co.tinfo.high
    | 224 => co.tpc
    | 225 => maskWord co.exm 0
    | 226 => maskWord co.exm 1
    | 227 => maskWord co.exm 2
    | 228 => BitVec.ofNat 32 co.width
    | 229 => BitVec.ofNat 32 co.role
    | 230 => co.st.tickets
    | 231 => s.rtile
    | 232 => co.qdrop.setWidth 32
    | c => if 208 ≤ c && c ≤ 215 then wordAt co.lvl (c - 208) else 0

/-- A 64-bit uniform operand (03 R71). In debug mode code 222 reads DARG (20 R401). -/
def State.readU2 (s : State) (c : Nat) : DWord :=
  if c == 222 && s.co.debug then s.dbg.darg else pairOf (s.readU (c + 1)) (s.readU c)

/-- Trap mode or debug mode: instructions push no record and do not count (01 R29, 20 R400). -/
def Cohort.special (c : Cohort) : Bool := c.tm || c.debug

/-- Uniform codes that may be written in the current mode (04 R90). -/
def Cohort.writable (co : Cohort) (c : Nat) : Bool :=
  c < 192 || c == 202 || c == 203 || c == 204 || c == 232
    || (co.special && (c == 196 || c == 201 || c == 224))

/-- A write of a uniform code, without record; masks are ANDed with the held set (04 R87). -/
def State.writeU (s : State) (c : Nat) (w : Word) : State :=
  if c < 3 then s.setSt fun t => { t with mask := setMaskWord t.mask c w &&& t.held }
  else if c < 192 then s.setCo fun co => { co with s := co.s.set c w }
  else match c with
    | 196 => if w.getLsbD 0 then s else s.setCo fun co => { co with dir := false, walk := none }
    | 201 => s.setCo fun co => { co with szl := (w.extractLsb' 27 5).toNat }
    | 202 => s.setCo fun co => { co with fmode := w }
    | 203 => s.setCo fun co => { co with link := pairOf co.link.high w }
    | 204 => s.setCo fun co => { co with link := pairOf w co.link.low }
    | 224 => s.setCo fun co => { co with tpc := w, tpcWritten := true, dir := false, walk := none }
    | 232 => s.setCo fun co => { co with qdrop := w.setWidth 8 }
    | _ => s

/-- Writes several codes, in order. -/
def State.writeUs (s : State) : List (Nat × Word) → State
  | [] => s
  | (c, w) :: rest => (s.writeU c w).writeUs rest

/-- Why a value may not be written to a code: cause 0x01 or 0x02 (01 R10, 04 R90, R92). -/
def State.writeCause (s : State) (c : Nat) (w : Word) : Option Nat :=
  match c with
  | 196 => if w.extractLsb' 2 30 != 0 then some 0x02 else none
  | 201 =>
    let z := (w.extractLsb' 27 5).toNat
    if z < 16 || 26 < z then some 0x02
    else if s.co.spilled != 0 || 2 ^ z < s.co.wheyt || 2 ^ z < s.co.hbase + 4 * s.co.hsave.length
        || s.co.wheyBase.toNat % 2 ^ z != 0 then some 0x01
    else none
  | 202 => if w &&& fmodeReserved != 0 then some 0x02 else none
  | 224 => if w.extractLsb' 0 2 != 0 then some 0x02 else none
  | 232 => if w.extractLsb' 8 24 != 0 then some 0x02 else none
  | _ => none

/-- The record of a write to a code, as it stands before the write (04 R86, R87). -/
def State.recU (s : State) (c : Nat) : RecBody :=
  if c < 3 then .mask s.co.st.mask else .uni c (s.readU c)

/-- Records of uniform writes: a class-I write records only while diverged, or when it writes a mask, which is always
class D (04 R86-R88). -/
def State.recsU (s : State) (classI : Bool) (cs : List Nat) : List RecBody :=
  (cs.filter fun _ => !classI || s.co.diverged || cs.any (· < 3)).map s.recU

/-! ### Vector registers and lane sources -/

/-- A vector register. -/
def Cohort.vreg (c : Cohort) (n : Nat) : List Word := c.v.getD n []

/-- A lane of a vector register. -/
def Cohort.vlane (c : Cohort) (n i : Nat) : Word := wordAt (c.vreg n) i

/-- Writes a vector register in the lanes of a mask. -/
def State.writeV (s : State) (n : Nat) (m : LaneSet) (vals : List Word) : State :=
  s.setCo fun c => { c with v := c.v.set n (blendLanes m (c.vreg n) vals) }

/-- A lane source by b-code or c-code: 96 values (03 R68). -/
def State.laneSrc (s : State) (code : BitVec 8) (lit : Word) : List Word :=
  let c := code.toNat
  if c < 128 then s.co.vreg c
  else if c < 224 then List.replicate 96 (s.readU (c - 128))
  else if c < 240 then List.replicate 96 (BitVec.ofNat 32 (c - 224))
  else if c < 248 then List.replicate 96 (BitVec.ofInt 32 ((c : Int) - 248))
  else List.replicate 96 lit

/-- The value that a uniform register or constant b-code supplies. -/
def State.uniSrc (s : State) (code : BitVec 8) : Word := wordAt (s.laneSrc code 0) 0

/-! ### The checks of R75 and R66 that depend on the state -/

/-- The operand exists in the cohort and its mode (03 R75): declared registers (01 R7), write rights (04 R90). -/
def Cohort.operandOk (co : Cohort) (o : Operand) : Bool :=
  o.codeOk && match o with
    | .vr n k | .vw n k => n + k ≤ co.nregs
    | .uw c | .uwn c => co.writable c
    | .uswap c => co.writable c && c != 196 && c != 201
    | .uw2 c => co.writable c && co.writable (c + 1)
    | .bc c | .cc c => 128 ≤ c || c < co.nregs
    | .bc2 c => 128 ≤ c || c + 1 < co.nregs
    | _ => true

/-- Registers that an operand reads, as (uniform, number) (03 R66). -/
def Operand.reads : Operand → List (Bool × Nat)
  | .vr n k => (spanNat n k).map (false, ·)
  | .ur c => [(true, c)]
  | .ur2 c => [(true, c), (true, c + 1)]
  | .urk c k => (spanNat c k).map (true, ·)
  | .uswap c => [(true, c)]
  | .bc c | .cc c => if c < 128 then [(false, c)] else if c < 224 then [(true, c - 128)] else []
  | .bc2 c => if c < 128 then [(false, c), (false, c + 1)] else [(true, c - 128), (true, c - 127)]
  | _ => []

/-- Registers that an operand writes. -/
def Operand.writes : Operand → List (Bool × Nat)
  | .vw n k => (spanNat n k).map (false, ·)
  | .uw c | .uwn c | .uswap c => [(true, c)]
  | .uw2 c => [(true, c), (true, c + 1)]
  | _ => []

/-- Registers that an outstanding result will write. -/
def Dest.regs : Dest → List (Bool × Nat)
  | .v n _ _ => [(false, n)]
  | .u c _ => [(true, c)]
  | .tile d _ _ _ _ => (spanNat d 8).map (false, ·)

/-- Registers with an outstanding write of the strand. -/
def Strand.pending (t : Strand) : List (Bool × Nat) := t.outst.flatMap fun o => o.dests.flatMap Dest.regs

/-- The first register that an instruction reads while a write to it is outstanding (03 R66). -/
def hazardOf (t : Strand) (i : Instr) : Option (Bool × Nat) :=
  match t.outst with
  | [] => none
  | _ => (i.operands.flatMap Operand.reads).find? fun r => t.pending.contains r

/-- The instruction writes a register with an outstanding write and waits (03 R66). -/
def writeWaits (t : Strand) (i : Instr) : Bool :=
  match t.outst with
  | [] => false
  | _ => (i.operands.flatMap Operand.writes).any fun r => t.pending.contains r

end Sys2Proof.Machine
end

