-- ==== Sys2Proof/Machine/Ops.lean ====
section
/-! DEFINITION. The shared operations: accesses by virtual address, whey records and their image in memory (01 R14-R18),
arrival at a slot (03 R59-R63, 01 R19-R20), commit (R22), trap entry (R29), and the forward step around an instruction's
own effect (R21, 03 R75, 16 R340). -/

namespace Sys2Proof.Machine

/-! ### Reports and trace -/

/-- Reports to the debug agent. -/
def State.toAgent (s : State) (r : AgentRec) : State := { s with dbg := { s.dbg with records := s.dbg.records ++ [r] } }

/-- Appends to the replay log while recording is on and the log has room; a full log gets a Stop entry (20 R410,
R411). An entry takes 64 bytes of the region (log 18). -/
def State.logInput (s : State) (kind : LogKind) (cohort strand : Nat) (count : DWord) (vals : List DWord) : State :=
  if s.dbg.recording then
    match s.host.regions with
    | none => s
    | some r =>
      let e : LogEnt := { kind := kind, cohort := cohort, strand := strand, count := count, vals := vals }
      if 64 * (s.dbg.log.length + 2) ≤ r.logSize.toNat then { s with dbg := { s.dbg with log := s.dbg.log ++ [e] } }
      else { s with dbg := { s.dbg with
               recording := false
               log := s.dbg.log ++ [{ kind := .stop, cohort := 0, strand := 0, count := 0,
                                      vals := [BitVec.ofNat 64 s.time] }] } }
  else s

/-- Logs an input of the focused strand. -/
def State.logHere (s : State) (kind : LogKind) (vals : List DWord) : State :=
  s.logInput kind s.co.uid s.co.st.id s.co.st.icnt vals

/-- Words of the trace region that one core's stream may fill: an equal share of the region (20 R407, log 18). -/
def State.traceRoom (s : State) : Nat :=
  match s.host.regions with
  | some r => r.traceSize.toNat / 192 / 4
  | none => 0

/-- Puts words into a core's stream, or counts a lost packet (20 R408). -/
def State.tracePut (s : State) (core : Nat) (ws : List Word) : State :=
  let t := (s.core core).trace
  if t.lost = 0 && t.words.length + ws.length ≤ s.traceRoom then
    s.modCore core fun c => { c with trace := { c.trace with words := c.trace.words ++ ws } }
  else s.modCore core fun c => { c with trace := { c.trace with lost := min (c.trace.lost + 1) 0x3FFFFF } }

/-- A packet: word 0, then the extra words (20 R407). -/
def packet (kind strand spec : Nat) (extra : List Word) : List Word :=
  BitVec.ofNat 32 (kind * 2 ^ 28 + strand * 2 ^ 26 + extra.length * 2 ^ 22 + spec % 2 ^ 22) :: extra

/-- A SYNC of the focused strand (20 R408). -/
def State.traceSync (s : State) : State :=
  if s.co.traced then
    (s.tracePut s.co.core (packet 1 s.co.st.id 0
      (dwordWords (s.co.st.pc.setWidth 64) ++ dwordWords s.co.st.icnt))).setCo fun c => { c with sinceSync := 0 }
  else s

/-- A packet of the focused cohort, when it is under full trace; a SYNC after every 256 (20 R406, R408). -/
def State.trace (s : State) (kind spec : Nat) (extra : List Word) : State :=
  if s.co.traced then
    let s := s.tracePut s.co.core (packet kind s.co.st.id spec extra)
    let s := s.setCo fun c => { c with sinceSync := c.sinceSync + 1 }
    if 256 ≤ s.co.sinceSync then s.traceSync else s
  else s

/-! ### Accesses of the cohort by virtual address -/

/-- Outcome of an access. -/
inductive XRes (α : Type) where
  | ok (a : α)
  | miss (va : Nat)
  | fault (code va : Nat)

/-- Loads bytes of the whey region as an ordinary access of a core (01 R15, R16, 10 R245); the walk of their page is time
only. -/
def State.vaLoad (s : State) (core va n : Nat) : XRes (List Byte × State) :=
  match s.walkRun .read none (spanNat va n) with
  | .ok pas => .ok (s.loadBytes core pas)
  | .miss a => .miss a
  | .fault c a => .fault c a

/-- Stores bytes to the whey region likewise. -/
def State.vaStore (s : State) (core va : Nat) (bs : List Byte) : XRes State :=
  match s.walkRun .write none (spanNat va bs.length) with
  | .ok pas => .ok (s.storeBytes core (pas.zip bs))
  | .miss a => .miss a
  | .fault c a => .fault c a

/-! ### Records in memory (01 R15, R18) -/

/-- KIND of a record (R18). -/
def RecBody.kind : RecBody → Nat
  | .lane .. => 1
  | .uni .. => 2
  | .mem .. => 3
  | .come .. => 4
  | .div .. => 5
  | .rejoin .. => 6
  | .mask _ => 7
  | .flags _ => 8

/-- SPEC of a record (R18). -/
def RecBody.spec : RecBody → Nat
  | .lane v _ _ => v
  | .uni c _ => c
  | .mem ln sp _ old _ => ln * 512 + (if sp then 256 else 0) + (old.length - 1)
  | .come run _ => run
  | .div t n ser jn _ _ _ => t * 2 ^ 14 + n * 2 ^ 12 + (if ser then 2 ^ 11 else 0) + (if jn then 2 ^ 10 else 0)
  | .rejoin r ps _ => ps.foldl (fun m p => m + 2 ^ (12 + p.id)) 0 + r * 2 ^ 10
  | .mask _ => 0
  | .flags f => f.toNat

/-- Payload words of a record (R18). -/
def RecBody.payload : RecBody → List Word
  | .lane _ m old => laneWords m ++ old
  | .uni _ w => [w]
  | .mem _ _ a old new => dwordWords a ++ wordsOf old.length old ++ wordsOf new.length new
  | .come _ p => dwordWords p
  | .div _ _ _ _ t n a => laneWords t ++ laneWords n ++ dwordWords a
  | .rejoin _ ps a => ps.flatMap (fun p => laneWords p.mask ++ laneWords p.held ++ [p.count]) ++ dwordWords a
  | .mask m => laneWords m
  | .flags _ => []

/-- Word A of a record (R18). -/
def Rec.wordA (r : Rec) : Word :=
  BitVec.ofNat 32 (r.body.kind * 2 ^ 28 + r.strand * 2 ^ 26 + r.body.size * 2 ^ 16 + r.body.spec)

/-- A record's words at ascending addresses (R18). -/
def Rec.words (r : Rec) : List Word := r.body.payload ++ [r.wordA, r.count]

/-- Bytes of the records from the region's offset 0 upwards. -/
def wheyImage (top : List Rec) : List Byte := top.reverse.flatMap fun (r : Rec) => r.words.flatMap fun (w : Word) => bytesOf 4 w.toNat

/-- Bytes of a reconvergence entry (07 R163). -/
def Entry.bytes (e : Entry) : List Byte :=
  let w0 := e.parent * 2 ^ 30 + e.cha * 2 ^ 28 + e.chb * 2 ^ 26 + (if e.ser then 2 ^ 25 else 0)
    + (if e.join.isSome then 2 ^ 24 else 0) + (if e.second then 2 ^ 23 else 0) + (if e.arra then 2 ^ 22 else 0)
    + (if e.arrb then 2 ^ 21 else 0)
  let ws := BitVec.ofNat 32 w0 :: laneWords e.pmask ++ laneWords e.dmask ++ dwordWords (e.join.getD 0)
    ++ dwordWords e.dstart
  (ws ++ List.replicate 5 0).flatMap fun (w : Word) => bytesOf 4 w.toNat

/-- Every instruction of the cohort so far has passed its check (R25): a write has left the core, or records are to be
written to memory (19 R382). -/
def Cohort.pass (c : Cohort) : Cohort := { c.mapStrands (fun t => { t with checked := t.icnt }) with mism := [] }

/-- Writes the image of the records below `%wheyt - keep` to the region (01 R15): 1,024 bytes stay on chip in general,
none at trap entry, `YIELD` and a forced save. -/
def State.wheyFlush (s : State) (keep : Nat) : XRes State :=
  let c := s.co
  let upto := c.wheyt - keep
  if upto ≤ c.wheyWb then .ok s
  else
    let bs := ((wheyImage c.whey).drop c.wheyWb).take (upto - c.wheyWb)
    match s.vaStore c.core (c.wheyBase.toNat + c.wheyWb) bs with
    | .ok s => .ok (s.setCo fun c => { c.pass with wheyWb := upto })
    | .miss a => .miss a
    | .fault x a => .fault x a

/-- Writes the oldest on-chip entry down into the region when a 33rd has been pushed (07 R163). -/
def State.spillEntry (s : State) : XRes State :=
  let c := s.co
  if c.stack.length ≤ 32 then .ok s
  else match c.stack[32]? with
    | none => .ok s
    | some e => s.vaStore c.core (c.wheyBase.toNat + c.lim) e.bytes

/-- Reads back the spilled image of the top record and tells whether it is still what the record mechanism wrote (01
R15, R23). -/
def State.wheyIntact (s : State) (r : Rec) : XRes Bool :=
  let c := s.co
  let lo := c.wheyt - 4 * r.body.size
  if c.wheyWb ≤ lo then .ok true
  else
    let n := min (4 * r.body.size) (c.wheyWb - lo)
    match s.vaLoad c.core (c.wheyBase.toNat + lo) n with
    | .ok (bs, _) => .ok (bs == ((r.words.flatMap fun (w : Word) => bytesOf 4 w.toNat).take n))
    | .miss a => .miss a
    | .fault x a => .fault x a

/-- Removes the top record. -/
def Cohort.popWhey (c : Cohort) : Cohort :=
  let c := { c with whey := c.whey.drop 1 }
  { c with wheyWb := min c.wheyWb c.wheyt }

/-! ### Arrival (03 R59-R63, 01 R8, R19, R20) -/

/-- Length in words of the instruction whose first word this is (03 R60, R67, R71); an unassigned opcode is one word. -/
def slotLength (w : Word) : Nat :=
  if w.getLsbD 31 then
    match uniOp (w.extractLsb' 24 6).toNat with
    | some (.ue _) => 2
    | some _ => 1
    | none => 2
  else
    let lit := if w.extractLsb' 0 8 = 255 then 1 else 0
    match laneOp (w.extractLsb' 22 8).toNat with
    | none => 1
    | some (.l _) => 1 + lit
    | some (.lq _) => 2 + lit
    | some (.lm _) => 2

/-- The line that holds an address. -/
def lineOf (va : DWord) : DWord := va &&& ~~~(127#64)

/-- The slot of an address in its line. -/
def slotOf (va : DWord) : Nat := va.toNat % 128 / 4

/-- The pinned words of a line for a launch (03 R63). -/
def State.pinned (s : State) (launch : Nat) (line : DWord) : Option (List Word) :=
  match s.launch? launch with
  | some l => match l.pins.find? (·.line == line) with
    | some p => some p.words
    | none => none
  | none => none

/-- START bit of a slot (03 R59). -/
def startBit (ws : List Word) (slot : Nat) : Bool := 2 ≤ slot && (wordAt ws 0).getLsbD slot
/-- TARGET bit of a slot (03 R59). -/
def targetBit (ws : List Word) (slot : Nat) : Bool := 2 ≤ slot && (wordAt ws 1).getLsbD slot

/-- A header whose reserved bits are not 0, or that marks a target that does not begin an instruction (03 R61). -/
def headerBad (ws : List Word) : Bool :=
  (wordAt ws 0).extractLsb' 0 2 != 0 || (wordAt ws 1).getLsbD 1
    || (((wordAt ws 1) &&& ~~~(wordAt ws 0)) >>> 2) != 0

/-- Outcome of the checks at an arrival. -/
inductive Arrive where
  | ok
  /-- the line is not filled yet (park code 15) -/
  | fill (line : DWord)
  /-- its page is absent (park code 13) -/
  | page (va : DWord)
  | bad (code sub : Nat) (info : DWord)
  deriving DecidableEq, Repr

/-- The checks of 03 R61 on the words of a line: `waive` leaves out the TARGET row, `call` adds the entry row. -/
def lineCheck (ws : List Word) (va : DWord) (waive call : Bool) : Arrive :=
  let slot := slotOf va
  let n := slotLength (wordAt ws slot)
  if headerBad ws then .bad 0x04 1 va
  else if !startBit ws slot || va.toNat % 4 != 0 then .bad 0x04 0 va
  else if 32 < slot + n then .bad 0x04 3 va
  else if (spanNat (slot + 1) (n - 1)).any (fun k => startBit ws k || targetBit ws k) then .bad 0x04 2 va
  else if !waive && !targetBit ws slot then .bad 0x03 0 va
  else if call && !(slot == 2 && (wordAt ws 1).getLsbD 0) then .bad 0x03 1 va
  else .ok

/-- The fetch of a whole line (03 R62): its page allows it, and none of it is poisoned. -/
def State.xlateLine (s : State) (va : Nat) : Xlate :=
  match s.xlateWalk va .fetch with
  | .ok pa => if (spanNat 0 16).any fun k => s.poisoned (pa + 8 * k) then .fault 0x0B else .ok pa
  | r => r

/-- Brings the words of bytes home: update-only copies are combined, owners write back (10 R238, 11 R253). -/
def State.bringHome (s : State) (pas : List Nat) : State :=
  (dedup (pas.map (· / 4))).foldl (fun s wa => (s.takeBack (wa / 32)).recall none wa) s

/-- The first code fill of a line for a launch pins its version (03 R63). -/
def State.codeFill (s : State) (launch : Nat) (line : DWord) : State :=
  if (s.pinned launch line).isSome then s
  else match s.xlateLine line.toNat with
    | .ok pa =>
      let pas := spanNat pa 128
      let t := s.bringHome pas
      t.modLaunch launch fun l => { l with pins := l.pins ++ [⟨line, wordsOf 32 (pas.map t.homeByte)⟩] }
    | _ => s

/-- Every check at an arrival: the code window (01 R8), the fetch of the line (03 R62), the rows of R61. -/
def State.checkArrival (s : State) (va : DWord) (waive call : Bool) : Arrive :=
  if va.extractLsb' 56 8 != 0 || va.extractLsb' 32 24 != s.co.st.pc.extractLsb' 32 24 then .bad 0x08 0 va
  else match s.pinned s.co.launch (lineOf va) with
    | some ws => lineCheck ws va waive call
    | none => match s.xlateLine (lineOf va).toNat with
      | .ok _ => .fill (lineOf va)
      | .miss => .page (lineOf va)
      | .fault c => .bad c 0 (lineOf va)

/-- Fills the line of an arrival that waits for nothing else. -/
def State.filledFor (s : State) (va : DWord) : State :=
  match s.checkArrival va false false with
  | .fill l => s.codeFill s.co.launch l
  | _ => s

/-- An address is a marked target (01 R19). -/
def State.markedTarget (s : State) (va : DWord) : Bool :=
  match s.pinned s.co.launch (lineOf va) with
  | some ws => targetBit ws (slotOf va)
  | none => false

/-- The slot just after an instruction of n words (03 R60). -/
def seqNext (pc : DWord) (n : Nat) : DWord :=
  let a := pc + BitVec.ofNat 64 (4 * n)
  if a.toNat % 128 = 0 then a + 8 else a

/-- The focused strand's program counter as an address. -/
def State.pcAddr (s : State) : DWord := s.co.st.pc.setWidth 64

/-- Sets the focused strand's program counter. -/
def State.setPc (s : State) (va : DWord) : State := s.setSt fun t => { t with pc := va.setWidth 56 }

/-! ### Traps and halts (01 R29) -/

/-- What a trap carries. -/
structure Trap where
  code : Nat
  sub : Nat
  info : DWord
  late : Bool
  walk : Bool
  press : Bool
  deriving DecidableEq, Repr

/-- A trap without flags. -/
def trapOf (code sub : Nat) (info : DWord) : Trap := ⟨code, sub, info, false, false, false⟩

/-- `%cause` of a trap (R29). -/
def Trap.word (t : Trap) : Word :=
  BitVec.ofNat 32 ((if t.press then 2 ^ 14 else 0) + (if t.walk then 2 ^ 13 else 0) + (if t.late then 2 ^ 12 else 0)
    + t.sub % 16 * 2 ^ 8 + t.code % 256)

/-- Halts the focused cohort and reports to the supervisor firmware (R29, R16). -/
def State.haltTrap (s : State) (t : Trap) : State :=
  (s.setCo fun c => { c with halt := some .trap }).toFw (.halted s.co.uid t.code t.sub s.co.st.id t.info)

/-- Parks for what an access lacks: the page walk of its address. -/
def State.parkMiss (s : State) (va : Nat) : State :=
  (s.parkSt (.walking (dieOf s.co.core) (BitVec.ofNat 64 va))).modDie (dieOf s.co.core) fun d =>
    { d with walks := insertAsc (va / 2 ^ 16) d.walks }

/-- Address of the trap handler (R29). -/
def State.handlerAddr (s : State) : DWord :=
  pairOf ((s.co.st.pc.extractLsb' 32 24).setWidth 32) s.co.handler.low

/-- Trap entry by the focused strand (R29): the buffer is written back, the trap registers are written, and the strand
goes to the handler, whose line is filled at once. An absent page of the region or the handler parks first; a fatal result, a missing or
bad handler halts (R16, 03 R61). -/
def State.trapEntry (s : State) (t : Trap) : State :=
  if s.co.handler = 0 then s.haltTrap t
  else match s.wheyFlush 0 with
    | .miss a => s.parkMiss a
    | .fault c a => s.haltTrap (trapOf c 0 (BitVec.ofNat 64 a))
    | .ok s' =>
      let s' := s'.filledFor s'.handlerAddr
      match s'.checkArrival s'.handlerAddr false false with
      | .fill l => s.parkSt (.fill l)
      | .page va => s.parkSt (.page va)
      | .bad .. => s'.haltTrap t
      | .ok =>
        let s' := s'.trace 7 (t.code + t.sub * 2 ^ 8 + (if t.late then 2 ^ 12 else 0) + (if t.walk then 2 ^ 13 else 0)
          + (if t.press then 2 ^ 14 else 0)) [s'.pcAddr.low]
        let h := s'.handlerAddr
        let s' := s'.setCo fun c =>
          { c with cause := t.word, tinfo := t.info, tpc := c.st.pc.extractLsb' 0 32, tpcWritten := false
                   tm := true, trapped := c.st.id, hbase := c.wheyt, hsave := [] }
        (s'.setPc h).setSt fun st => { st with park := none }

/-- Ends the run of the program buffer with a fault (20 R400). -/
def State.bufferFault (s : State) (t : Trap) : State :=
  let fl := (if t.late then 1 else 0) + (if t.walk then 2 else 0) + (if t.press then 4 else 0)
  let held := s.dbg.held
  (({ s with dbg := { s.dbg with buffer := none, held := none } }.setCo fun c => { c with debug := false }).setSt
    fun st => { st with park := held }).toAgent (.buffer t.code t.sub fl t.info)

/-- Raises a cause in the focused strand: trap entry, or a halt in trap mode, or the end of a buffer run (R29, 20
R400). -/
def State.raise (s : State) (t : Trap) : State :=
  if s.co.debug then s.bufferFault t
  else if s.co.tm then s.haltTrap t
  else s.trapEntry t

/-! ### Commit and completion (01 R13, R19, R21, R22) -/

/-- `COMMIT`'s effect on a cohort: every live strand's floor becomes its count, and the whey empties (R22). -/
def Cohort.commit (c : Cohort) : Cohort :=
  { c.mapStrands (fun t => { t with floor := t.icnt, checked := t.icnt }) with whey := [], wheyWb := 0, mism := [] }

/-- Records the arrival at a marked target from `pred` (R19): the come-from record merges when nothing else was pushed. -/
def Cohort.recordArrival (c : Cohort) (pred : DWord) (count : Word) (alone : Bool) : Cohort :=
  let new : Rec := { strand := c.st.id, count := count, body := .come 1 pred }
  let whey := match c.whey with
    | { strand := id, count := b, body := .come run p } :: rest =>
      if alone && id == c.st.id && p == pred && run < 0xFFFF then
        { strand := id, count := count, body := .come (run + 1) p } :: rest
      else new :: { strand := id, count := b, body := .come run p } :: rest
    | w => new :: w
  { c with whey := whey, st := { c.st with cfr := pred.low } }

/-- Pushes records in the order given. -/
def Cohort.pushRecs (c : Cohort) (count : Word) (bs : List RecBody) : Cohort :=
  { c with whey := (bs.map fun b => ({ strand := c.st.id, count := count, body := b } : Rec)).reverse ++ c.whey }

/-- What an instruction does, once nothing stops it: the state with its effect, the records it pushes, the flags it
raises, whether it is class H, whether a write left the core, and a variable-latency result. -/
structure Effect where
  post : State
  recs : List RecBody := []
  flags : Flags := 0
  hard : Bool := false
  wrote : Bool := false
  outst : Option Outst := none

/-- Outcome of an instruction's own rules. -/
inductive Act where
  /-- a cause raised at issue: nothing of the instruction has happened -/
  | trap (t : Trap)
  /-- a late fault of an access (R27) -/
  | late (ev : LateEv)
  /-- an access misses the TLBs -/
  | miss (va : Nat)
  /-- parked; the state holds what has taken effect -/
  | park (w : Wait) (s : State)
  | done (e : Effect)
  /-- the meaning has done everything itself, count and program counter included -/
  | whole (s : State)

/-- Where control goes. -/
inductive Next where
  | seq
  | to (va : DWord) (call : Bool)
  /-- the meaning decides and checks -/
  | own
  deriving DecidableEq, Repr

/-- The trap of R31 for cause 0x01 and 0x02: the instruction's words. -/
def wordTrap (code sub : Nat) (i : Instr) : Trap := trapOf code sub (pairOf i.word1 i.word0)

/-- The cohort with an instruction's flags made sticky and its outstanding result noted (02 R40, 03 R65). -/
def Effect.cohort (e : Effect) : Cohort :=
  let c := if e.flags = 0 then e.post.co else { e.post.co with fmode := stickFlags e.post.co.fmode e.flags }
  match e.outst with
  | some o => { c with st := { c.st with outst := c.st.outst ++ [o] } }
  | none => c

/-- Records of an instruction: its own, and Flags when a sticky flag becomes set (R18, 02 R40). -/
def Effect.bodies (e : Effect) (s : State) : List RecBody :=
  e.recs ++ (if newSticky s.co.fmode e.flags then [RecBody.flags (fmodeSf s.co.fmode)] else [])

/-- The cohort with the records pushed in the order of R18, the arrival at a marked target last. In trap and debug mode
nothing is recorded (R29). -/
def Effect.pushed (e : Effect) (s : State) (next : DWord) : Cohort :=
  let count := s.co.st.icnt.low
  let c := if s.co.special then e.cohort else e.cohort.pushRecs count (e.bodies s)
  if s.co.special || !s.markedTarget next then c else c.recordArrival s.pcAddr count (e.bodies s).isEmpty

/-- The cohort once the instruction has counted: the program counter and the count, which trap and debug mode hold (R29),
the checks that a write passes, and the commit of class H (R13). -/
def Cohort.counted (c : Cohort) (debug special wrote hard : Bool) (next icnt : DWord) : Cohort :=
  let c := { c with st := { c.st with park := none, pc := if debug then c.st.pc else next.setWidth 56
                                      icnt := if special then c.st.icnt else icnt + 1 } }
  let c := if wrote then c.pass else c
  if hard then c.commit else c

/-- Completes an instruction of the focused strand whose effect stands in `e.post` (R21). `s` is the state before the
instruction. The answer is the completed state, or the state in which a fault or a park leaves the instruction unexecuted:
the region is full (R17), a flag is trapped (02 R41), or the write-back meets an absent page or a fatal result (R15,
R16). -/
def State.tryComplete (s : State) (e : Effect) (next : DWord) : Except State State :=
  let c := e.pushed s next
  if !s.co.special && decide (c.lim < c.wheyt) then
    .error (s.raise (trapOf 0x0D 0 (BitVec.ofNat 64 (c.wheyt - s.co.wheyt))))
  else if trappedFlags s.co.fmode e.flags != 0 then
    .error (s.raise (trapOf 0x1E 0 ((trappedFlags s.co.fmode e.flags).setWidth 64)))
  else match ({ e.post with co := c } : State).wheyFlush 1024 with
    | .miss a => .error (s.parkMiss a)
    | .fault c a => .error (s.haltTrap (trapOf c 0 (BitVec.ofNat 64 a)))
    | .ok t => .ok { t with co := t.co.counted s.co.debug s.co.special e.wrote e.hard next s.co.st.icnt }

/-- Completes an instruction, or leaves it unexecuted. -/
def State.complete (s : State) (e : Effect) (next : DWord) : State :=
  match s.tryComplete e next with
  | .ok t => t
  | .error t => t

/-- Enters a trap after an instruction that has completed into `t` (04 R113, 01 R24). Where the entry must wait, the
instruction waits in `s` instead. -/
def State.thenTrap (s t : State) (tr : Trap) : State :=
  let u := t.raise tr
  match u.co.st.park with
  | some (.walking _ va) => s.parkMiss va.toNat
  | some w => s.parkSt w
  | none => u

/-- The scope of a barrier instruction (R291): SCOPE 7 takes the default scope of level LEVEL (07 R151). -/
def State.barScope (s : State) (scope level : Nat) : Option Nat :=
  if scope != 7 then some scope
  else match s.launch? s.co.launch with
    | some l => (l.record.levels[level]?).map (·.scope)
    | none => none

/-- An instruction that the mode, the kind of cohort or the launch forbids: cause 0x01 (01 R29, R30, 04 R111, 09 R203, R212,
R214, 12 R291, R297, 16 R338, 19 R388, 20 R400, R403; log 80). -/
def State.modeBad (s : State) : Instr → Bool
  | .spawn _ => s.co.special || !((s.launch? s.co.launch).any (·.record.ten))
  | .tend _ => s.co.special || s.co.task.isNone
  | .bar o | .bara o => s.co.special || (s.barScope o.scopeN o.level).isNone
  | .regang _ | .exit _ | .tjoin _ | .tclaim _ | .qpost _ | .qpush _ | .qpop _
  | .waitq _ | .wake _ | .rflush _ | .twait _ | .acc _
  | .copy _ | .gather _ | .mma _ | .znew _ | .zst _ | .zclr _ | .coll _ | .waitk _ | .leave _ | .rewindt _ =>
      s.co.special
  | .tret _ | .yield _ => !s.co.tm || s.co.debug
  | .hpush _ | .hpop _ => !s.co.special
  | .br _ | .brz _ | .brnz _ | .call _ | .ret _ | .jmpr _ | .brl _ | .brlz _ | .trap _
  | .snap _ | .tmark _ | .dbrk _ => s.co.debug
  | .rewind _ => s.co.tm && (s.co.debug || s.co.tpcWritten)
  | _ => false

/-- The settle marker of an instruction (03 R65). -/
def settleOf (i : Instr) : Bool := i.word0.getLsbD 30

/-- The checks of R75 at issue, first failure first: cause 0x01 for operands and mode, 0x02, then 0x05. `inr` is the
park of the settle marker or of a write that waits (03 R65, R66). -/
def State.decodeChecks (s : State) (i : Instr) : Option (Trap ⊕ Wait) :=
  if s.modeBad i || i.badValue || !i.operands.all s.co.operandOk then some (.inl (wordTrap 0x01 0 i))
  else if !i.reservedOk then some (.inl (wordTrap 0x02 0 i))
  else if settleOf i && !s.co.st.outst.isEmpty then some (.inr .settle)
  else match hazardOf s.co.st i with
    | some (u, n) => some (.inl (trapOf 0x05 0 (BitVec.ofNat 64 (n + (if u then 256 else 0)))))
    | none => if writeWaits s.co.st i then some (.inr .settle) else none

/-- Logs a read of package time (04 R91, 20 R410). -/
def State.logTime (s : State) (i : Instr) : State :=
  if i.operands.any fun o => (Operand.reads o).any fun r => r.1 && (r.2 == 219 || r.2 == 220) then
    s.logHere .time [BitVec.ofNat 64 s.time]
  else s

/-- Ends an issue with the outcome of the instruction's own rules. -/
def State.conclude (s : State) (i : Instr) (a : Act) (next : DWord) : State :=
  match a with
  | .trap t => s.raise t
  | .late ev => s.setSt fun st => { st with late := some ev, park := some .late }
  | .miss va => s.parkMiss va
  | .park w t => t.parkSt w
  | .done e => s.complete { e with post := e.post.logTime i } next
  | .whole t => t

/-- Issues an instruction of the focused strand (01 R21, 03 R75): the decode checks and the hazard, the faults of the
successor, then the instruction's own rules. -/
def issue (i : Instr) (next : State → Next) (act : State → Act) (s : State) : Host.Outcome State Fault Refusal :=
  match s.decodeChecks i with
  | some (.inl t) => .next (s.raise t)
  | some (.inr w) => .next (s.parkSt w)
  | none =>
    match next s with
    | .own => .next (s.conclude i (act s) s.pcAddr)
    | .seq =>
      let va := seqNext s.pcAddr i.length
      if s.co.debug then .next (s.conclude i (act s) va)
      else match s.checkArrival va true false with
        | .bad c sub info => .next (s.raise (trapOf c sub info))
        | .fill l => .next (s.parkSt (.fill l))
        | .page a => .next (s.parkSt (.page a))
        | .ok => .next (s.conclude i (act s) va)
    | .to va call =>
      match s.checkArrival va false call with
      | .bad c sub info => .next (s.raise (trapOf c sub info))
      | .fill l => .next (s.parkSt (.fill l))
      | .page a => .next (s.parkSt (.page a))
      | .ok => .next (s.conclude i (act s) va)

/-- Issues an instruction that goes on at its sequential successor. -/
def issueSeq (i : Instr) (act : State → Act) (s : State) : Host.Outcome State Fault Refusal :=
  issue i (fun _ => .seq) act s

end Sys2Proof.Machine
end

