-- ==== Sys2Proof/Machine/Lane.lean ====
section
/-! DEFINITION. What every lane instruction shares (05 R117, R118): values of the active lanes, the Lane register record
of the class-D lanes, flags, and variable-latency results (03 R65). -/

namespace Sys2Proof.Machine

/-- A value for each of the 96 lanes. -/
def laneVals (f : Nat → Word) : List Word := laneNums.map f

/-- OR of the flags that the lanes of a set raise (02 R40). -/
def flagsOver (m : LaneSet) (f : Nat → Flags) : Flags := (lanesOf m).foldl (fun fl i => fl ||| f i) 0

/-- The Lane register record of the class-D lanes, when there is one (R118). -/
def laneRecs (c : Cohort) (d : Nat) (dm : LaneSet) : List RecBody :=
  if dm = 0 then [] else [.lane d dm (pickLanes dm (c.vreg d))]

/-- The effect of writing a vector register in the active lanes (R117, R118): `classI` tells the lanes that record
nothing. -/
def laneWrite (s : State) (d : Nat) (vals : List Word) (classI : Nat → Bool) (fl : Flags) : Effect :=
  let m := s.co.st.mask
  { post := s.writeV d m vals, recs := laneRecs s.co d (laneSetOf fun i => m.getLsbD i && !classI i), flags := fl }

/-- A write of which every lane is class D. -/
def laneWriteD (s : State) (d : Nat) (vals : List Word) (fl : Flags) : Effect :=
  laneWrite s d vals (fun _ => false) fl

/-- Results with their flags, lane by lane. -/
def laneFlags (s : State) (d : Nat) (f : Nat → Word × Flags) : Effect :=
  laneWriteD s d (laneVals fun i => (f i).1) (flagsOver s.co.st.mask fun i => (f i).2)

/-- B names a vector register other than D, or none (R121). -/
def bNotD (b : BitVec 8) (d : BitVec 7) : Bool := b.toNat != d.toNat

/-- An L instruction with two sources and class-D lanes. -/
def lane2 (i : Instr) (o : LForm) (f : Word → Word → Word) (s : State) : Host.Outcome State Fault Refusal :=
  issueSeq i (fun s =>
    let a := s.co.vreg o.a.toNat
    let b := s.laneSrc o.b o.lit
    .done (laneWriteD s o.d.toNat (laneVals fun k => f (wordAt a k) (wordAt b k)) 0)) s

/-- An L instruction with two sources whose lane is class I when A = D, b ≠ d and a test of b holds (R121). -/
def lane2I (i : Instr) (o : LForm) (f : Word → Word → Word) (t : Word → Bool) (s : State) :
    Host.Outcome State Fault Refusal :=
  issueSeq i (fun s =>
    let a := s.co.vreg o.a.toNat
    let b := s.laneSrc o.b o.lit
    .done (laneWrite s o.d.toNat (laneVals fun k => f (wordAt a k) (wordAt b k))
      (fun k => o.a == o.d && bNotD o.b o.d && t (wordAt b k)) 0)) s

/-- An L instruction with one source and class-D lanes. -/
def lane1 (i : Instr) (o : LForm) (f : Word → Word) (s : State) : Host.Outcome State Fault Refusal :=
  issueSeq i (fun s =>
    let a := s.co.vreg o.a.toNat
    .done (laneWriteD s o.d.toNat (laneVals fun k => f (wordAt a k)) 0)) s

/-- An L instruction with one source that is class I when A = D (R121). -/
def lane1I (i : Instr) (o : LForm) (f : Word → Word) (s : State) : Host.Outcome State Fault Refusal :=
  issueSeq i (fun s =>
    let a := s.co.vreg o.a.toNat
    .done (laneWrite s o.d.toNat (laneVals fun k => f (wordAt a k)) (fun _ => o.a == o.d) 0)) s

/-- An LQ instruction with two sources and a c-code, class D. -/
def lane3 (i : Instr) (o : LqForm) (f : Word → Word → Word → Word) (s : State) : Host.Outcome State Fault Refusal :=
  issueSeq i (fun s =>
    let a := s.co.vreg o.a.toNat
    let b := s.laneSrc o.b o.lit
    let c := s.laneSrc o.c o.lit
    .done (laneWriteD s o.d.toNat (laneVals fun k => f (wordAt a k) (wordAt b k) (wordAt c k)) 0)) s

/-- An LQ instruction with two sources and no c-code, class D. -/
def lane2q (i : Instr) (o : LqForm) (f : Word → Word → Word) (s : State) : Host.Outcome State Fault Refusal :=
  issueSeq i (fun s =>
    let a := s.co.vreg o.a.toNat
    let b := s.laneSrc o.b o.lit
    .done (laneWriteD s o.d.toNat (laneVals fun k => f (wordAt a k) (wordAt b k)) 0)) s

/-- An LQ instruction with one source, class D. -/
def lane1q (i : Instr) (o : LqForm) (f : Word → Word) (s : State) : Host.Outcome State Fault Refusal :=
  issueSeq i (fun s =>
    let a := s.co.vreg o.a.toNat
    .done (laneWriteD s o.d.toNat (laneVals fun k => f (wordAt a k)) 0)) s

/-- Two sources, results with flags; `f` gets `%fmode`. -/
def lane2f (i : Instr) (o : LForm) (f : Word → Word → Word → Word × Flags) (s : State) :
    Host.Outcome State Fault Refusal :=
  issueSeq i (fun s =>
    let a := s.co.vreg o.a.toNat
    let b := s.laneSrc o.b o.lit
    .done (laneFlags s o.d.toNat fun k => f s.co.fmode (wordAt a k) (wordAt b k))) s

/-- LQ, two sources, results with flags. -/
def lane2qf (i : Instr) (o : LqForm) (f : Word → Word → Word → Word × Flags) (s : State) :
    Host.Outcome State Fault Refusal :=
  issueSeq i (fun s =>
    let a := s.co.vreg o.a.toNat
    let b := s.laneSrc o.b o.lit
    .done (laneFlags s o.d.toNat fun k => f s.co.fmode (wordAt a k) (wordAt b k))) s

/-- LQ, two sources and a c-code, results with flags; `f` also gets D's old value. -/
def lane4f (i : Instr) (o : LqForm) (f : Word → Word → Word → Word → Word → Word × Flags) (s : State) :
    Host.Outcome State Fault Refusal :=
  issueSeq i (fun s =>
    let a := s.co.vreg o.a.toNat
    let b := s.laneSrc o.b o.lit
    let c := s.laneSrc o.c o.lit
    let d := s.co.vreg o.d.toNat
    .done (laneFlags s o.d.toNat fun k => f s.co.fmode (wordAt a k) (wordAt b k) (wordAt c k) (wordAt d k))) s

/-- LQ, one source, results with flags. -/
def lane1qf (i : Instr) (o : LqForm) (f : Word → Word → Word × Flags) (s : State) :
    Host.Outcome State Fault Refusal :=
  issueSeq i (fun s =>
    let a := s.co.vreg o.a.toNat
    .done (laneFlags s o.d.toNat fun k => f s.co.fmode (wordAt a k))) s

/-- Number of the class in `%tickets` (04 R93). -/
def ResClass.index : ResClass → Nat
  | .dm => 0
  | .sp => 1
  | .qr => 2
  | .zr => 3
  | .sf => 4

/-- Runs `k` unless the strand's outstanding results of a class are at their maximum (04 R93). -/
def withTicket (s : State) (cls : ResClass) (k : Act) : Act :=
  if ticketMax cls.index ≤ s.co.st.ticket cls.index then .park (.resource (.ticket cls.index)) s else k

/-- An outstanding result of the focused strand. -/
def outstOf (s : State) (cls : ResClass) (dests : List Dest) : Option Outst :=
  some { cls := cls, count := s.co.st.icnt, dests := dests }

/-- A special function (R129): variable-latency, class D; its flags are found at issue. -/
def laneSpecial (i : Instr) (o : LForm) (f : Word → Word → Word → Word × Flags) (s : State) :
    Host.Outcome State Fault Refusal :=
  issueSeq i (fun s =>
    let a := s.co.vreg o.a.toNat
    let b := s.laneSrc o.b o.lit
    let r := laneNums.map fun k => f s.co.fmode (wordAt a k) (wordAt b k)
    let m := s.co.st.mask
    withTicket s .sf (.done
      { post := s, recs := laneRecs s.co o.d.toNat m
        flags := flagsOver m fun k => (r.getD k (0, 0)).2
        outst := outstOf s .sf [.v o.d.toNat m (r.map (·.1))] })) s

end Sys2Proof.Machine
end

