-- ==== Sys2Proof/Machine/Special.lean ====
section
/-! DEFINITION. The special-function group (05 R129): exact and special results, and for every other input a free value
kept within the bound (log 8). The functions work on FP32 bit patterns. -/

namespace Sys2Proof.Machine

/-- The finite positive value of a bit pattern. -/
def posDy (b : Nat) : Dy := (fp32.value false b).dy

/-- Bits of log2 of m / 2^160 in [1, 2), `k` of them. -/
def log2Bits : Nat → Nat → Nat
  | 0, _ => 0
  | k + 1, m =>
    let q := m * m / 2 ^ 160
    if 2 ^ 161 ≤ q then 2 ^ k + log2Bits k (q / 2) else log2Bits k q

/-- log2 of a positive dyadic, in units of 2^-64, rounded down. -/
def log2Fix (d : Dy) : Int :=
  let l := Nat.log2 d.m
  ((l : Int) + d.e) * 2 ^ 64 + (log2Bits 64 (d.m * 2 ^ 160 / 2 ^ l) : Nat)

/-- log2(e) in units of 2^-128. -/
def log2e : Nat := 490923683258796565746369346286093237521

/-- m x 2^e as an integer, rounded down. -/
def floorDy (neg : Bool) (m : Nat) (e : Int) : Int :=
  let x : Nat := if 0 ≤ e then m * 2 ^ e.toNat else m / 2 ^ (-e).toNat
  if neg then -(x : Int) - 1 else x

/-- x log2(e) of a dyadic, in units of 2^-64. -/
def timesLog2e (d : Dy) : Int := floorDy d.neg (d.m * log2e) (d.e - 64)

/-- The largest positive finite bit pattern below 2^k above `b` that satisfies a downward closed test, or `b`. -/
def largestBits (le : Nat → Bool) : Nat → Nat → Nat
  | 0, b => b
  | k + 1, b =>
    let t := b + 2 ^ k
    largestBits le k (if t < 0x7F800000 && le t then t else b)

/-- Sum of dyadics is at most zero. -/
def dyLe0 (ds : List Dy) : Bool := (dySum ds).1 ≤ 0

/-- a ≤ b. -/
def Dy.le (a b : Dy) : Bool := dyLe0 [a, { b with neg := !b.neg }]

/-- One. -/
def dyOne : Dy := ⟨false, 1, 0⟩
/-- Exact sum as a dyadic. -/
def Dy.plus (a b : Dy) : Dy := let (x, q) := dySum [a, b]; dyOfInt x q

/-- Delivers an inexact result of a sign: flags and flush (R129, R36). -/
def sfDeliver (ftz neg : Bool) (b : Nat) : Word × Flags :=
  let sg := if neg then 2 ^ 31 else 0
  if b < 0x00800000 then (BitVec.ofNat 32 (if ftz then sg else sg + b), flagUF) else (BitVec.ofNat 32 (sg + b), flagNX)

/-- An inexact result within `n` ulp: one of the n representable values on either side of the true magnitude, whose
lower neighbour is the largest value that `le` admits (R129, log 8). -/
def sfPick (op : Nat) (a : Word) (ftz neg : Bool) (n : Nat) (le : Nat → Bool) : Word × Flags :=
  let low := largestBits le 31 0
  let k := Config.ulpPick op a ftz % (2 * n)
  sfDeliver ftz neg (min 0x7F7FFFFF (low + k + 1 - n))

/-- A result that is exact. -/
def sfExact (b : Nat) : Word × Flags := (BitVec.ofNat 32 b, 0)

/-- Exact FP32 bits of a dyadic. -/
def sfRound (d : Dy) : Nat := (fp32.round 0 false d).1

/-- Exponent k when a magnitude is 2^k. -/
def Dy.pow2 (d : Dy) : Option Int :=
  let l := Nat.log2 d.m
  if d.m = 2 ^ l then some (l + d.e) else none

/-- NaN results (R35). -/
def sfNan (sig : Bool) : Word × Flags := (BitVec.ofNat 32 fp32.qnan, if sig then flagNV else 0)

/-- `FRCP`. -/
def frcpW (ftz : Bool) (a : Word) : Word × Flags :=
  match fp32.value ftz a.toNat with
  | .nan s => sfNan s
  | .inf s => sfExact (fp32.zero s)
  | .fin d =>
    if d.m = 0 then (BitVec.ofNat 32 (fp32.inf d.neg), flagDZ)
    else match d.pow2 with
      | some k =>
        if -127 ≤ k && k ≤ 126 then sfExact (sfRound ⟨d.neg, 1, -k⟩)
        else if k < -127 then (BitVec.ofNat 32 (fp32.inf d.neg), flagOF)
        else sfPick 0x33 a ftz d.neg 1 fun b => ((posDy b).mul { d with neg := false }).le dyOne
      | none =>
        if Dy.le { d with neg := false } ⟨false, 1, -128⟩ then (BitVec.ofNat 32 (fp32.inf d.neg), flagOF)
        else sfPick 0x33 a ftz d.neg 1 fun b => ((posDy b).mul { d with neg := false }).le dyOne

/-- `FRSQ`. -/
def frsqW (ftz : Bool) (a : Word) : Word × Flags :=
  match fp32.value ftz a.toNat with
  | .nan s => sfNan s
  | .inf s => if s then (BitVec.ofNat 32 fp32.qnan, flagNV) else sfExact 0
  | .fin d =>
    if d.m = 0 then (BitVec.ofNat 32 (fp32.inf d.neg), flagDZ)
    else if d.neg then (BitVec.ofNat 32 fp32.qnan, flagNV)
    else match d.pow2 with
      | some k =>
        if k % 2 = 0 then sfExact (sfRound ⟨false, 1, -(k / 2)⟩)
        else sfPick 0x34 a ftz false 2 fun b => (((posDy b).mul (posDy b)).mul d).le dyOne
      | none => sfPick 0x34 a ftz false 2 fun b => (((posDy b).mul (posDy b)).mul d).le dyOne

/-- `FEXP2`. -/
def fexp2W (ftz : Bool) (a : Word) : Word × Flags :=
  match fp32.value ftz a.toNat with
  | .nan s => sfNan s
  | .inf s => sfExact (if s then 0 else fp32.inf false)
  | .fin d =>
    if Dy.le ⟨false, 128, 0⟩ d then (BitVec.ofNat 32 (fp32.inf false), flagOF)
    else
      let (n, inx) := d.toInt 2
      if !inx && -149 ≤ n then
        if -126 ≤ n || !ftz then sfExact (sfRound ⟨false, 1, n⟩) else (0, flagUF)
      else
        let x := floorDy d.neg d.m (d.e + 64)
        sfPick 0x35 a ftz false 2 fun b => b = 0 || log2Fix (posDy b) ≤ x

/-- `FLOG2`. -/
def flog2W (ftz : Bool) (a : Word) : Word × Flags :=
  match fp32.value ftz a.toNat with
  | .nan s => sfNan s
  | .inf s => if s then (BitVec.ofNat 32 fp32.qnan, flagNV) else sfExact (fp32.inf false)
  | .fin d =>
    if d.m = 0 then (BitVec.ofNat 32 (fp32.inf true), flagDZ)
    else if d.neg then (BitVec.ofNat 32 fp32.qnan, flagNV)
    else match d.pow2 with
      | some k => sfExact (sfRound (dyOfInt k 0))
      | none =>
        let x := log2Fix d
        sfPick 0x36 a ftz (x < 0) 2 fun b => (posDy b).le ⟨false, x.natAbs, -64⟩

/-- `FTANH`: below 2^-12 by a - a^3/3, else by log2((1+v)/(1-v)) = 2 a log2(e). -/
def ftanhW (ftz : Bool) (a : Word) : Word × Flags :=
  match fp32.value ftz a.toNat with
  | .nan s => sfNan s
  | .inf s => (BitVec.ofNat 32 (0x3F800000 + fp32.zero s), 0)
  | .fin d =>
    if d.m = 0 then sfExact (fp32.zero d.neg)
    else
      let p : Dy := { d with neg := false }
      let three : Dy := ⟨false, 3, 0⟩
      if p.le ⟨false, 1, -12⟩ then
        let cube := (p.mul p).mul p
        sfPick 0x39 a ftz d.neg 2 fun b => dyLe0 [three.mul (posDy b), { three.mul p with neg := true }, cube]
      else
        let x := timesLog2e { p with e := p.e + 1 }
        sfPick 0x39 a ftz d.neg 2 fun b => b < 0x3F800000 &&
          (log2Fix (dyOne.plus (posDy b)) - log2Fix (dyOne.plus { posDy b with neg := true }) ≤ x)

/-- `FSIGM`: log2(v) - log2(1-v) = a log2(e). -/
def fsigmW (ftz : Bool) (a : Word) : Word × Flags :=
  match fp32.value ftz a.toNat with
  | .nan s => sfNan s
  | .inf s => sfExact (if s then 0 else 0x3F800000)
  | .fin d =>
    if d.m = 0 then sfExact 0x3F000000
    else
      let x := timesLog2e d
      sfPick 0x3A a ftz false 2 fun b => b = 0 || (b < 0x3F800000 &&
        (log2Fix (posDy b) - log2Fix (dyOne.plus { posDy b with neg := true }) ≤ x))

/-- 2 pi in units of 2^-96. -/
def twoPi : Nat := 497805226624462170461043889244

/-- Taylor terms of the sine from a term on: fuel, t^2 and the term in units of 2^-96, the next odd number. -/
def sinTerms (t2 : Int) : Nat → Int → Int → Int
  | 0, _, _ => 0
  | k + 1, term, n => term + sinTerms t2 k (-(term * t2 / 2 ^ 96) / ((n + 1) * (n + 2))) (n + 2)

/-- sin(2 pi r / 2^96), in units of 2^-96, for r below 2^96. -/
def sinTurn (r : Nat) : Int :=
  let t : Int := (r * twoPi / 2 ^ 96 : Nat)
  sinTerms (t * t / 2 ^ 96) 40 t 1

/-- Fraction of a turn of a dyadic, in units of 2^-96: what is below one turn, rounded down. -/
def turnOf (d : Dy) : Nat :=
  let x := floorDy false d.m (d.e + 96)
  let r := x.toNat % 2 ^ 96
  if d.neg then (2 ^ 96 - r) % 2 ^ 96 else r

/-- An inexact sine or cosine: the free value where it lies within 2^-22 of the true one, else the nearest. -/
def sfTrig (v : Word) (ftz : Bool) (x : Int) : Word × Flags :=
  let t := dyOfInt x (-96)
  let near (y : Dy) : Bool := dyLe0 [y, { t with neg := !t.neg }, ⟨true, 1, -22⟩]
    && dyLe0 [{ y with neg := !y.neg }, t, ⟨true, 1, -22⟩]
  let w := match fp32.value false v.toNat with
    | .fin y => if near y then v.toNat else sfRound t
    | _ => sfRound t
  sfDeliver ftz (w.testBit 31) (w % 2 ^ 31)

/-- `FSIN`. -/
def fsinW (ftz : Bool) (a : Word) : Word × Flags :=
  match fp32.value ftz a.toNat with
  | .nan s => sfNan s
  | .inf _ => (BitVec.ofNat 32 fp32.qnan, flagNV)
  | .fin d =>
    if d.m = 0 then sfExact (fp32.zero d.neg)
    else if !(Dy.toInt 0 { d with e := d.e + 1 }).2 then sfExact 0
    else sfTrig (Config.fsin a ftz) ftz (sinTurn (turnOf d))

/-- `FCOS`: a quarter turn gives +0 (log 8). -/
def fcosW (ftz : Bool) (a : Word) : Word × Flags :=
  match fp32.value ftz a.toNat with
  | .nan s => sfNan s
  | .inf _ => (BitVec.ofNat 32 fp32.qnan, flagNV)
  | .fin d =>
    if d.m = 0 || !(Dy.toInt 0 d).2 then sfExact 0x3F800000
    else if (Dy.toInt 0 { d with e := d.e + 1 }).2 && !(Dy.toInt 0 { d with e := d.e + 2 }).2 then sfExact 0
    else sfTrig (Config.fcos a ftz) ftz (sinTurn ((turnOf d + 2 ^ 94) % 2 ^ 96))

end Sys2Proof.Machine
end

