-- ==== Sys2Proof/Machine/LaneFloat.lean ====
section
/-! DEFINITION. Floating-point instructions of the lanes (05 R127-R129). -/

namespace Sys2Proof.Machine

/-- A result and its flags as a word. -/
def asWord (r : Nat × Flags) : Word × Flags := (BitVec.ofNat 32 r.1, r.2)

/-- Rounding mode of an LQ instruction: RMO under RO, else RM (03 R69). -/
def modeOf (o : LqForm) (f : Word) : Nat := if o.ro then o.rmo else fmodeRm f

/-- `FSCALE`: a x 2^b; an infinity or zero passes unchanged (R127). -/
def fscaleW (f a b : Word) : Word × Flags :=
  match fp32.value (fmodeFtz f) a.toNat with
  | .nan s => sfNan s
  | .inf s => sfExact (fp32.inf s)
  | .fin d =>
    if d.m = 0 then sfExact (fp32.zero d.neg)
    else asWord (fp32.round (fmodeRm f) (fmodeFtz f) { d with e := d.e + b.toInt })

/-- `FRINT`: an integral value; NX only with X (R128). -/
def frintW (mode : Nat) (x ftz : Bool) (a : Word) : Word × Flags :=
  match fp32.value ftz a.toNat with
  | .nan s => sfNan s
  | .inf s => sfExact (fp32.inf s)
  | .fin d =>
    if d.m = 0 then sfExact (fp32.zero d.neg)
    else if 0 ≤ d.e then (a, 0)
    else
      let (k, inx) := roundAt mode d.neg d.m d.e 0
      let r := if k = 0 then fp32.zero d.neg else (fp32.round 0 false ⟨d.neg, k, 0⟩).1
      (BitVec.ofNat 32 r, if inx && x then flagNX else 0)

/-- `FCLASS` (R128). -/
def fclassW (a : Word) : Word :=
  let neg := a.getLsbD 31
  match fp32.value false a.toNat with
  | .nan s => if s then 0x100 else 0x200
  | .inf s => if s then 0x1 else 0x80
  | .fin d =>
    if d.m = 0 then (if neg then 0x8 else 0x10)
    else if a.toNat / 2 ^ 23 % 256 = 0 then (if neg then 0x4 else 0x20)
    else if neg then 0x2 else 0x40

/-- `FADD` (R127). -/
def execFadd (o : LForm) (s : State) : Host.Outcome State Fault Refusal :=
  lane2f (.fadd o) o (fun f a b => asWord (fp32.add (fmodeRm f) (fmodeFtz f) a.toNat b.toNat)) s

/-- `FSUB` (R127). -/
def execFsub (o : LForm) (s : State) : Host.Outcome State Fault Refusal :=
  lane2f (.fsub o) o (fun f a b => asWord (fp32.sub (fmodeRm f) (fmodeFtz f) a.toNat b.toNat)) s

/-- `FMUL` (R127). -/
def execFmul (o : LForm) (s : State) : Host.Outcome State Fault Refusal :=
  lane2f (.fmul o) o (fun f a b => asWord (fp32.mul (fmodeRm f) (fmodeFtz f) a.toNat b.toNat)) s

/-- `FFMA` (R127). -/
def execFfma (o : LqForm) (s : State) : Host.Outcome State Fault Refusal :=
  lane4f (.ffma o) o (fun f a b c _ =>
    asWord (fp32.dot fp32 (modeOf o f) (fmodeFtz f) [(a.toNat, b.toNat)] [c.toNat])) s

/-- `FFMA3` (R127): also adds D's old value. -/
def execFfma3 (o : LqForm) (s : State) : Host.Outcome State Fault Refusal :=
  lane4f (.ffma3 o) o (fun f a b c d =>
    asWord (fp32.dot fp32 (modeOf o f) (fmodeFtz f) [(a.toNat, b.toNat)] [c.toNat, d.toNat])) s

/-- `FMIN` (R128, 02 R37). -/
def execFmin (o : LForm) (s : State) : Host.Outcome State Fault Refusal :=
  lane2f (.fmin o) o (fun f a b => asWord (fp32.minMax false (fmodeFtz f) a.toNat b.toNat)) s

/-- `FMAX` (R128, 02 R37). -/
def execFmax (o : LForm) (s : State) : Host.Outcome State Fault Refusal :=
  lane2f (.fmax o) o (fun f a b => asWord (fp32.minMax true (fmodeFtz f) a.toNat b.toNat)) s

/-- `FABS` (R128). -/
def execFabs (o : LForm) (s : State) : Host.Outcome State Fault Refusal :=
  lane1 (.fabs o) o (fun a => a &&& 0x7FFFFFFF) s

/-- `FNEG` (R128): class I when A = D (R121). -/
def execFneg (o : LForm) (s : State) : Host.Outcome State Fault Refusal :=
  lane1I (.fneg o) o (fun a => a ^^^ 0x80000000) s

/-- `FDIV` (R129). -/
def execFdiv (o : LForm) (s : State) : Host.Outcome State Fault Refusal :=
  laneSpecial (.fdiv o) o (fun f a b => asWord (fp32.div (fmodeRm f) (fmodeFtz f) a.toNat b.toNat)) s

/-- `FSQRT` (R129). -/
def execFsqrt (o : LForm) (s : State) : Host.Outcome State Fault Refusal :=
  laneSpecial (.fsqrt o) o (fun f a _ => asWord (fp32.sqrt (fmodeRm f) (fmodeFtz f) a.toNat)) s

/-- `FRCP` (R129). -/
def execFrcp (o : LForm) (s : State) : Host.Outcome State Fault Refusal :=
  laneSpecial (.frcp o) o (fun f a _ => frcpW (fmodeFtz f) a) s

/-- `FRSQ` (R129). -/
def execFrsq (o : LForm) (s : State) : Host.Outcome State Fault Refusal :=
  laneSpecial (.frsq o) o (fun f a _ => frsqW (fmodeFtz f) a) s

/-- `FEXP2` (R129). -/
def execFexp2 (o : LForm) (s : State) : Host.Outcome State Fault Refusal :=
  laneSpecial (.fexp2 o) o (fun f a _ => fexp2W (fmodeFtz f) a) s

/-- `FLOG2` (R129). -/
def execFlog2 (o : LForm) (s : State) : Host.Outcome State Fault Refusal :=
  laneSpecial (.flog2 o) o (fun f a _ => flog2W (fmodeFtz f) a) s

/-- `FSIN` (R129). -/
def execFsin (o : LForm) (s : State) : Host.Outcome State Fault Refusal :=
  laneSpecial (.fsin o) o (fun f a _ => fsinW (fmodeFtz f) a) s

/-- `FCOS` (R129). -/
def execFcos (o : LForm) (s : State) : Host.Outcome State Fault Refusal :=
  laneSpecial (.fcos o) o (fun f a _ => fcosW (fmodeFtz f) a) s

/-- `FTANH` (R129). -/
def execFtanh (o : LForm) (s : State) : Host.Outcome State Fault Refusal :=
  laneSpecial (.ftanh o) o (fun f a _ => ftanhW (fmodeFtz f) a) s

/-- `FSIGM` (R129). -/
def execFsigm (o : LForm) (s : State) : Host.Outcome State Fault Refusal :=
  laneSpecial (.fsigm o) o (fun f a _ => fsigmW (fmodeFtz f) a) s

/-- `FRINT` (R128): MOD bit 4 is X. -/
def execFrint (o : LqForm) (s : State) : Host.Outcome State Fault Refusal :=
  lane1qf (.frint o) o (fun f a => frintW (modeOf o f) o.sat (fmodeFtz f) a) s

/-- `FSCALE` (R127). -/
def execFscale (o : LForm) (s : State) : Host.Outcome State Fault Refusal :=
  lane2f (.fscale o) o fscaleW s

/-- `FCLASS` (R128). -/
def execFclass (o : LForm) (s : State) : Host.Outcome State Fault Refusal :=
  lane1 (.fclass o) o fclassW s

end Sys2Proof.Machine
end

