-- ==== Sys2Proof/Machine/Packed.lean ====
section
/-! DEFINITION. Packed operations (05 R130-R133), conversions and block quantising (R134-R137). -/

namespace Sys2Proof.Machine

/-! ### Sub-elements (02 R33) -/

/-- Width of a sub-element. -/
def etWidth (et : Nat) : Nat := 32 / etCount et
/-- IEEE format of a floating element type (03 R69). -/
def etFmt (et : Nat) : Fmt := if et == 6 then bf16 else fp16
/-- Signed integer element types. -/
def etSigned (et : Nat) : Bool := et % 2 == 0

/-- Bits of sub-element j of width w. -/
def subBits (w : Nat) (x : Word) (j : Nat) : Nat := x.toNat / 2 ^ (j * w) % 2 ^ w

/-- A word from its sub-elements, the lowest first. -/
def joinBits (w : Nat) (l : List Nat) : Word :=
  BitVec.ofNat 32 (l.foldr (fun x acc => x % 2 ^ w + 2 ^ w * acc) 0)

/-- Value of an integer sub-element. -/
def etInt (et : Nat) (x : Nat) : Int := if etSigned et then signedOf (etWidth et) x else x

/-- Lowest and highest value of w bits. -/
def intLow (signed : Bool) (w : Nat) : Int := if signed then -(2 ^ (w - 1)) else 0
/-- Highest value of w bits. -/
def intHigh (signed : Bool) (w : Nat) : Int := if signed then 2 ^ (w - 1) - 1 else 2 ^ w - 1

/-- An integer put into w bits: wrapped, or clamped with `.sat` (R32). -/
def fitBits (signed : Bool) (w : Nat) (sat : Bool) (x : Int) : Nat :=
  ((if sat then clampInt (intLow signed w) (intHigh signed w) x else x) % 2 ^ w).toNat

/-- An integer result of an element type. -/
def etFit (o : LqForm) (x : Int) : Nat × Flags := (fitBits (etSigned o.et) (etWidth o.et) o.sat x, 0)

/-- Applies a function to every sub-element of three sources. -/
def packedW (et : Nat) (f : Nat → Nat → Nat → Nat × Flags) (a b c : Word) : Word × Flags :=
  let w := etWidth et
  let r := (List.range (etCount et)).map fun j => f (subBits w a j) (subBits w b j) (subBits w c j)
  (joinBits w (r.map (·.1)), r.foldl (fun fl x => fl ||| x.2) 0)

/-- A packed operation: integer and floating rules per sub-element (R130). -/
def packedOp (i : Instr) (o : LqForm) (fi : Int → Int → Int) (ff : Fmt → Nat → Bool → Nat → Nat → Nat → Nat × Flags)
    (s : State) : Host.Outcome State Fault Refusal :=
  lane4f i o (fun fm a b c _ =>
    if etFloat o.et then packedW o.et (ff (etFmt o.et) (modeOf o fm) (fmodeFtz fm)) a b c
    else packedW o.et (fun x y _ => etFit o (fi (etInt o.et x) (etInt o.et y))) a b c) s

/-- A packed operation on integer bit patterns alone. -/
def packedBits (i : Instr) (o : LqForm) (f : Nat → Nat → Nat) (s : State) : Host.Outcome State Fault Refusal :=
  lane4f i o (fun _ a b c _ => packedW o.et (fun x y _ => (f x y, 0)) a b c) s

/-- `PADD` (R131). -/
def execPadd (o : LqForm) (s : State) : Host.Outcome State Fault Refusal :=
  packedOp (.padd o) o (· + ·) (fun f m z a b _ => f.add m z a b) s

/-- `PSUB` (R131). -/
def execPsub (o : LqForm) (s : State) : Host.Outcome State Fault Refusal :=
  packedOp (.psub o) o (· - ·) (fun f m z a b _ => f.sub m z a b) s

/-- `PMUL` (R131). -/
def execPmul (o : LqForm) (s : State) : Host.Outcome State Fault Refusal :=
  packedOp (.pmul o) o (· * ·) (fun f m z a b _ => f.mul m z a b) s

/-- `PFMA` (R131): floating types alone. -/
def execPfma (o : LqForm) (s : State) : Host.Outcome State Fault Refusal :=
  packedOp (.pfma o) o (fun _ _ => 0) (fun f m z a b c => f.dot f m z [(a, b)] [c]) s

/-- `PMIN` (R131). -/
def execPmin (o : LqForm) (s : State) : Host.Outcome State Fault Refusal :=
  packedOp (.pmin o) o min (fun f _ z a b _ => f.minMax false z a b) s

/-- `PMAX` (R131). -/
def execPmax (o : LqForm) (s : State) : Host.Outcome State Fault Refusal :=
  packedOp (.pmax o) o max (fun f _ z a b _ => f.minMax true z a b) s

/-- `PABS` (R131): floats clear the sign alone. -/
def execPabs (o : LqForm) (s : State) : Host.Outcome State Fault Refusal :=
  packedOp (.pabs o) o (fun a _ => (a.natAbs : Int)) (fun _ _ _ a _ _ => (a % 2 ^ 15, 0)) s

/-- `PNEG` (R131): floats flip the sign alone. -/
def execPneg (o : LqForm) (s : State) : Host.Outcome State Fault Refusal :=
  packedOp (.pneg o) o (fun a _ => -a) (fun _ _ _ a _ _ => (a ^^^ 2 ^ 15, 0)) s

/-- `PSHL` (R131): the shift count is unsigned; with `.sat` the exact value is clamped. -/
def execPshl (o : LqForm) (s : State) : Host.Outcome State Fault Refusal :=
  let w := etWidth o.et
  lane4f (.pshl o) o (fun _ a b c _ => packedW o.et (fun x y _ =>
    if o.sat then etFit o (etInt o.et x * 2 ^ min y 32)
    else (if y < w then x * 2 ^ y % 2 ^ w else 0, 0)) a b c) s

/-- `PSHR` (R131). -/
def execPshr (o : LqForm) (s : State) : Host.Outcome State Fault Refusal :=
  packedBits (.pshr o) o (fun x y => if y < etWidth o.et then x / 2 ^ y else 0) s

/-- `PSAR` (R131). -/
def execPsar (o : LqForm) (s : State) : Host.Outcome State Fault Refusal :=
  let w := etWidth o.et
  packedBits (.psar o) o (fun x y => fitBits true w false (signedOf w x / 2 ^ min y w)) s

/-- `PAVG` (R131). -/
def execPavg (o : LqForm) (s : State) : Host.Outcome State Fault Refusal :=
  packedOp (.pavg o) o (fun a b => (a + b + 1) / 2) (fun _ _ _ _ _ _ => (0, 0)) s

/-- A condition of R98 between two integers: codes 0 to 5. -/
def ordCond (c : Nat) (a b : Int) : Bool :=
  match c with
  | 0 => a == b
  | 1 => a != b
  | 2 => a < b
  | 3 => a ≤ b
  | 4 => b < a
  | _ => b ≤ a

/-- `PCMP` (R133). -/
def execPcmp (o : LqForm) (s : State) : Host.Outcome State Fault Refusal :=
  let ones := 2 ^ etWidth o.et - 1
  lane4f (.pcmp o) o (fun fm a b c _ => packedW o.et (fun x y _ =>
    if etFloat o.et then
      let r := floatCond (etFmt o.et) (fmodeFtz fm) o.imm.toNat x y
      (if r.1 then ones else 0, r.2)
    else (if ordCond o.imm.toNat (etInt o.et x) (etInt o.et y) then ones else 0, 0)) a b c) s

/-- Sub-elements of two sources, side by side. -/
def subPairs (et : Nat) (a b : Word) : List (Nat × Nat) :=
  (List.range (etCount et)).map fun j => (subBits (etWidth et) a j, subBits (etWidth et) b j)

/-- `PDOT` (R132). -/
def execPdot (o : LqForm) (s : State) : Host.Outcome State Fault Refusal :=
  lane4f (.pdot o) o (fun fm a b c _ =>
    let ps := subPairs o.et a b
    if etFloat o.et then asWord ((etFmt o.et).dot fp32 (modeOf o fm) (fmodeFtz fm) ps [c.toNat])
    else
      let x := ps.foldl (fun n p => n + etInt o.et p.1 * etInt o.et p.2) c.toInt
      (BitVec.ofNat 32 (fitBits true 32 o.sat x), 0)) s

/-- `PSAD` (R132). -/
def execPsad (o : LqForm) (s : State) : Host.Outcome State Fault Refusal :=
  lane4f (.psad o) o (fun _ a b c _ =>
    let x := (subPairs o.et a b).foldl (fun n p => n + ((etInt o.et p.1 - etInt o.et p.2).natAbs : Int)) (c.toNat : Int)
    (BitVec.ofNat 32 (fitBits false 32 o.sat x), 0)) s

/-! ### Conversions (R134, R135, 02 R49, R449) -/

/-- Type codes of CVT that are integers. -/
def cvtIsInt (t : Nat) : Bool := t < 2 || 8 ≤ t
/-- Type codes of CVT that are IEEE formats. -/
def cvtIsFp (t : Nat) : Bool := 2 ≤ t && t ≤ 4
/-- Width of a CVT type in a register. -/
def cvtWidth (t : Nat) : Nat := if t ≤ 2 then 32 else if t == 3 || t == 4 || t == 8 || t == 9 then 16 else 8
/-- Signed integer types. -/
def cvtSigned (t : Nat) : Bool := t == 0 || t == 8 || t == 10
/-- IEEE format of a CVT type. -/
def cvtFmt (t : Nat) : Fmt := if t == 2 then fp32 else if t == 3 then fp16 else bf16
/-- Bits of a T type. -/
def cvtT (t : Nat) : Nat := tBits (t - 5)

/-- One conversion between type codes (R134, R49, R449). -/
def cvtBits (src dst mode : Nat) (sat ftz : Bool) (x : Nat) : Nat × Flags :=
  let w := cvtWidth dst
  let sg := cvtSigned dst
  let toInt (v : FV) : Nat × Flags :=
    let (k, fl) := fvToInt mode (intLow sg w) (intHigh sg w) v
    (fitBits sg w false k, fl)
  if cvtIsInt src then
    let v : Int := if cvtSigned src then signedOf (cvtWidth src) x else x
    if cvtIsInt dst then (fitBits sg w sat v, 0)
    else if cvtIsFp dst then (cvtFmt dst).round mode false (dyOfInt v 0)
    else encodeT (cvtT dst) (.fin (dyOfInt v 0))
  else if cvtIsFp src then
    if cvtIsInt dst then toInt ((cvtFmt src).value ftz x)
    else if cvtIsFp dst then
      let z := ftz && src != dst && dst != 2
      (cvtFmt dst).ofFV mode z ((cvtFmt src).value z x)
    else encodeT (cvtT dst) ((cvtFmt src).value false x)
  else
    let n := cvtT src
    if cvtIsInt dst then toInt (valueT (x % 2 ^ n) n)
    else if cvtIsFp dst then (cvtFmt dst).ofFV mode false (valueT (x % 2 ^ n) n)
    else match decodeT (x % 2 ^ n) n with
      | none => (narT (cvtT dst), 0)
      | some d => encodeT (cvtT dst) (.fin d)

/-- `CVT` (R134): SELI picks the source element. -/
def execCvt (o : LqForm) (s : State) : Host.Outcome State Fault Refusal :=
  lane1qf (.cvt o) o (fun f a =>
    let x := subBits (cvtWidth o.cvtFrom) a o.seli
    asWord (cvtBits o.cvtFrom o.cvtTo (modeOf o f) o.sat (fmodeFtz f) x)) s

/-- CVT code of an element type. -/
def etCvt (et : Nat) : Nat := if et == 6 then 4 else 3

/-- `PACK` (R135). -/
def execPack (o : LqForm) (s : State) : Host.Outcome State Fault Refusal :=
  lane4f (.pack o) o (fun f a b _ d =>
    let w := etWidth o.et
    let conv (x : Word) : Nat × Flags :=
      if etFloat o.et then cvtBits 2 (etCvt o.et) (modeOf o f) false (fmodeFtz f) x.toNat
      else etFit o (if etSigned o.et then x.toInt else x.toNat)
    let x := conv a
    let y := conv b
    (joinBits w ((List.range (etCount o.et)).map fun j =>
      if j = o.low3 then x.1 else if j = o.low3 + 1 then y.1 else subBits w d j), x.2 ||| y.2)) s

/-- `UNPK` (R135). -/
def execUnpk (o : LqForm) (s : State) : Host.Outcome State Fault Refusal :=
  lane1qf (.unpk o) o (fun _ a =>
    let x := subBits (etWidth o.et) a o.low3
    if etFloat o.et then asWord (cvtBits (etCvt o.et) 2 0 false false x)
    else (wordInt (etInt o.et x), 0)) s

/-- Scale byte, codes and flags of the beat of each lane (R136). -/
def qblkBeats (s : State) (o : LqForm) : List (Nat × List (Nat × Nat) × Flags) :=
  let a := s.co.vreg o.a.toNat
  (List.range 3).map fun b =>
    let act := (lanesOf s.co.st.mask).filter fun i => i / 32 == b
    if act.isEmpty then (0, [], 0) else qblkBeat o.imm.toNat (fmodeFtz s.co.fmode) (act.map fun i => (i, wordAt a i))

/-- `QBLK` (R136). -/
def execQblk (o : LqForm) (s : State) : Host.Outcome State Fault Refusal :=
  issueSeq (.qblk o) (fun s =>
    let bs := qblkBeats s o
    .done (laneWriteD s o.d.toNat (laneVals fun i =>
      match bs[i / 32]? with
      | some (sb, codes, _) => match codes.find? (·.1 == i) with
        | some p => BitVec.ofNat 32 (sb * 256 + p.2)
        | none => 0
      | none => 0) (bs.foldl (fun fl b => fl ||| b.2.2) 0))) s

/-- `DQBLK` (R137, 02 R52). -/
def execDqblk (o : LqForm) (s : State) : Host.Outcome State Fault Refusal :=
  lane1qf (.dqblk o) o (fun f a =>
    let sb := a.toNat / 256 % 256
    let n := tBits o.imm.toNat
    match decodeT (a.toNat % 2 ^ n) n with
    | none => (0x7FC00000, 0)
    | some d =>
      if sb = 255 then (0x7FC00000, 0)
      else asWord (fp32.round (modeOf o f) (fmodeFtz f) { d with e := d.e + sb - 127 })) s

end Sys2Proof.Machine
end

