-- ==== Sys2Proof/Machine/Cross.lean ====
section
/-! DEFINITION. Lane-crossing operations (05 R138-R140). -/

namespace Sys2Proof.Machine

/-- Lanes of a segment by its code: 4, 8, 16, 32, 96 (R138). -/
def segWidth (code : Nat) : Nat := if code == 4 then 96 else 4 * 2 ^ code

/-- First lane of the segment of lane i. -/
def segBase (w i : Nat) : Nat := i - i % w

/-- A shuffle: `src` gives the source lane from lane and index (R138). -/
def shuffle (i : Instr) (o : LqForm) (src : Nat → Nat → Nat → Option Nat) (s : State) :
    Host.Outcome State Fault Refusal :=
  issueSeq i (fun s =>
    let w := segWidth o.low3
    let a := s.co.vreg o.a.toNat
    let b := s.laneSrc o.b o.lit
    let c := s.laneSrc o.c o.lit
    .done (laneWriteD s o.d.toNat (laneVals fun k =>
      match src w k (wordAt b k).toNat with
      | some j => if segBase w k + w ≤ j || !s.co.st.mask.getLsbD j then wordAt c k else wordAt a j
      | none => wordAt c k) 0)) s

/-- `SHFL` (R138). -/
def execShfl (o : LqForm) (s : State) : Host.Outcome State Fault Refusal :=
  shuffle (.shfl o) o (fun w i b => some (segBase w i + b % w)) s

/-- `SHFLX` (R138). -/
def execShflx (o : LqForm) (s : State) : Host.Outcome State Fault Refusal :=
  shuffle (.shflx o) o (fun w i b => some (segBase w i + ((i % w) ^^^ (b % 128)))) s

/-- `SHFLU` (R138). -/
def execShflu (o : LqForm) (s : State) : Host.Outcome State Fault Refusal :=
  shuffle (.shflu o) o (fun w i b => if b ≤ i % w then some (i - b) else none) s

/-- `SHFLD` (R138). -/
def execShfld (o : LqForm) (s : State) : Host.Outcome State Fault Refusal :=
  shuffle (.shfld o) o (fun w i b => if i + b < segBase w i + w then some (i + b) else none) s

/-- Byte `x` with its bits reversed. -/
def revByte (x : Nat) : Nat := (BitVec.ofNat 8 x).reverse.toNat

/-- `BPICK`'s result (R139). -/
def bpickW (a b c : Word) : Word :=
  let x := a.toNat + 2 ^ 32 * b.toNat
  let byte (k : Nat) : Nat :=
    let ctl := c.toNat / 256 ^ k % 256
    let v := x / 256 ^ (ctl % 8) % 256
    match ctl / 8 % 4 with
    | 0 => v
    | 1 => 0
    | 2 => 0xFF
    | _ => revByte v
  joinBits 8 ((List.range 4).map byte)

/-- `BPICK` (R139). -/
def execBpick (o : LqForm) (s : State) : Host.Outcome State Fault Refusal :=
  lane3 (.bpick o) o bpickW s

/-- Identity of a SCAN operator (R140). -/
def scanIdentity (op : Nat) : Word :=
  match op with
  | 0 => 0
  | 1 => 0x80000000
  | 2 => 0x7FFFFFFF
  | 3 => 0x80000000
  | 4 => 0xFFFFFFFF
  | 5 => 0
  | 6 => 0x7F800000
  | _ => 0xFF800000

/-- Combine of a SCAN operator (R140). -/
def scanCombine (op : Nat) (f x y : Word) : Word × Flags :=
  match op with
  | 0 => (x + y, 0)
  | 1 => asWord (fp32.add (fmodeRm f) (fmodeFtz f) x.toNat y.toNat)
  | 2 => (if x.slt y then x else y, 0)
  | 3 => (if y.slt x then x else y, 0)
  | 4 => (if x.ult y then x else y, 0)
  | 5 => (if y.ult x then x else y, 0)
  | 6 => asWord (fp32.minMax false (fmodeFtz f) x.toNat y.toNat)
  | _ => asWord (fp32.minMax true (fmodeFtz f) x.toNat y.toNat)

/-- The steps of the tree that are below the width. -/
def scanSteps (op : Nat) (f : Word) (w : Nat) : List Nat → List Word × Flags → List Word × Flags
  | [], x => x
  | st :: rest, (x, fl) =>
    let r := laneNums.map fun i =>
      if segBase w i + st ≤ i then scanCombine op f (wordAt x (i - st)) (wordAt x i) else (wordAt x i, 0)
    scanSteps op f w rest (r.map (·.1), r.foldl (fun fl p => fl ||| p.2) fl)

/-- `SCAN` (R140). -/
def execScan (o : LqForm) (s : State) : Host.Outcome State Fault Refusal :=
  issueSeq (.scan o) (fun s =>
    let w := segWidth o.low3
    let op := (o.imm.extractLsb' 3 3).toNat
    let a := s.co.vreg o.a.toNat
    let x := laneVals fun i => if s.co.st.mask.getLsbD i then wordAt a i else scanIdentity op
    let (y, fl) := scanSteps op s.co.fmode w ([1, 2, 4, 8, 16, 32, 64].filter (· < w)) (x, 0)
    let r := laneVals fun i =>
      if o.imm.getLsbD 6 then (if i = segBase w i then scanIdentity op else wordAt y (i - 1)) else wordAt y i
    .done (laneWriteD s o.d.toNat r fl)) s

end Sys2Proof.Machine
end

