-- ==== Sys2Proof/Machine/LaneInt.lean ====
section
/-! DEFINITION. Integer, logic, select, move and compare instructions of the lanes (05 R120-R126). -/

namespace Sys2Proof.Machine

/-- Bits 63:32 of a signed product. -/
def mulHighS (a b : Word) : Word := BitVec.ofInt 32 (a.toInt * b.toInt / 2 ^ 32)
/-- Bits 63:32 of an unsigned product. -/
def mulHighU (a b : Word) : Word := BitVec.ofNat 32 (a.toNat * b.toNat / 2 ^ 32)
/-- Left shift; 0 from 32 on. -/
def shlW (a b : Word) : Word := if b.toNat < 32 then a <<< b.toNat else 0
/-- Right shift with zero fill; 0 from 32 on. -/
def shrW (a b : Word) : Word := if b.toNat < 32 then a >>> b.toNat else 0
/-- Right shift with sign fill; copies of bit 31 from 32 on. -/
def sarW (a b : Word) : Word := a.sshiftRight (if b.toNat < 32 then b.toNat else 31)
/-- Left rotation by b mod 32. -/
def rolW (a b : Word) : Word := a.rotateLeft (b.toNat % 32)
/-- Right rotation by b mod 32. -/
def rorW (a b : Word) : Word := a.rotateRight (b.toNat % 32)
/-- Number of 1 bits. -/
def popcW (a : Word) : Word := BitVec.ofNat 32 (countBits 32 a.toNat)
/-- Number of 0 bits above the highest 1 bit. -/
def clzW (a : Word) : Word := if a = 0 then 32 else BitVec.ofNat 32 (31 - Nat.log2 a.toNat)
/-- Bit order reversed. -/
def brevW (a : Word) : Word := a.reverse
/-- Absolute value; the minimum gives itself. -/
def absW (a : Word) : Word := if a.slt 0 then -a else a
/-- An integer clamped to the signed range. -/
def clampS (x : Int) : Word := BitVec.ofInt 32 (clampInt (-(2 ^ 31)) (2 ^ 31 - 1) x)
/-- Bit field of LEN bits from POS, zero- or sign-extended (04 R101, 05 R122). -/
def bfeW (pos len : Nat) (sx : Bool) (a : Word) : Word :=
  let f := a.toNat / 2 ^ pos % 2 ^ len
  if sx then BitVec.ofInt 32 (signedOf len f) else BitVec.ofNat 32 f
/-- Insertion of a bit field (04 R101, 05 R122). -/
def bfiW (pos len : Nat) (a b : Word) : Word :=
  let m : Word := BitVec.ofNat 32 ((2 ^ len - 1) * 2 ^ pos)
  (b &&& ~~~m) ||| ((a <<< pos) &&& m)

/-- `IADD` (R120, R121). -/
def execIadd (o : LForm) (s : State) : Host.Outcome State Fault Refusal :=
  lane2I (.iadd o) o (· + ·) (fun _ => true) s

/-- `ISUB` (R120, R121). -/
def execIsub (o : LForm) (s : State) : Host.Outcome State Fault Refusal :=
  lane2I (.isub o) o (· - ·) (fun _ => true) s

/-- `IMUL` (R120, R121). -/
def execImul (o : LForm) (s : State) : Host.Outcome State Fault Refusal :=
  lane2I (.imul o) o (· * ·) (fun b => b.getLsbD 0) s

/-- `IXOR` (R120, R121). -/
def execIxor (o : LForm) (s : State) : Host.Outcome State Fault Refusal :=
  lane2I (.ixor o) o (· ^^^ ·) (fun _ => true) s

/-- `ROL` (R120, R121). -/
def execRol (o : LForm) (s : State) : Host.Outcome State Fault Refusal :=
  lane2I (.rol o) o rolW (fun _ => true) s

/-- `ROR` (R120, R121). -/
def execRor (o : LForm) (s : State) : Host.Outcome State Fault Refusal :=
  lane2I (.ror o) o rorW (fun _ => true) s

/-- `IMULH` (R120). -/
def execImulh (o : LForm) (s : State) : Host.Outcome State Fault Refusal :=
  lane2 (.imulh o) o mulHighS s

/-- `UMULH` (R120). -/
def execLaneUmulh (o : LForm) (s : State) : Host.Outcome State Fault Refusal :=
  lane2 (.laneUmulh o) o mulHighU s

/-- `IAND` (R120). -/
def execIand (o : LForm) (s : State) : Host.Outcome State Fault Refusal :=
  lane2 (.iand o) o (· &&& ·) s

/-- `IOR` (R120). -/
def execIor (o : LForm) (s : State) : Host.Outcome State Fault Refusal :=
  lane2 (.ior o) o (· ||| ·) s

/-- `SHL` (R120). -/
def execShl (o : LForm) (s : State) : Host.Outcome State Fault Refusal :=
  lane2 (.shl o) o shlW s

/-- `SHR` (R120). -/
def execShr (o : LForm) (s : State) : Host.Outcome State Fault Refusal :=
  lane2 (.shr o) o shrW s

/-- `SAR` (R120). -/
def execSar (o : LForm) (s : State) : Host.Outcome State Fault Refusal :=
  lane2 (.sar o) o sarW s

/-- `IMIN` (R120). -/
def execImin (o : LForm) (s : State) : Host.Outcome State Fault Refusal :=
  lane2 (.imin o) o (fun a b => if a.slt b then a else b) s

/-- `IMAX` (R120). -/
def execImax (o : LForm) (s : State) : Host.Outcome State Fault Refusal :=
  lane2 (.imax o) o (fun a b => if b.slt a then a else b) s

/-- `UMIN` (R120). -/
def execLaneUmin (o : LForm) (s : State) : Host.Outcome State Fault Refusal :=
  lane2 (.laneUmin o) o (fun a b => if a.ult b then a else b) s

/-- `UMAX` (R120). -/
def execLaneUmax (o : LForm) (s : State) : Host.Outcome State Fault Refusal :=
  lane2 (.laneUmax o) o (fun a b => if b.ult a then a else b) s

/-- `IADDS` (R120). -/
def execIadds (o : LForm) (s : State) : Host.Outcome State Fault Refusal :=
  lane2 (.iadds o) o (fun a b => clampS (a.toInt + b.toInt)) s

/-- `ISUBS` (R120). -/
def execIsubs (o : LForm) (s : State) : Host.Outcome State Fault Refusal :=
  lane2 (.isubs o) o (fun a b => clampS (a.toInt - b.toInt)) s

/-- `INOT` (R120, R121). -/
def execInot (o : LForm) (s : State) : Host.Outcome State Fault Refusal :=
  lane1I (.inot o) o (~~~ ·) s

/-- `INEG` (R120, R121). -/
def execIneg (o : LForm) (s : State) : Host.Outcome State Fault Refusal :=
  lane1I (.ineg o) o (- ·) s

/-- `BREV` (R120, R121). -/
def execBrev (o : LForm) (s : State) : Host.Outcome State Fault Refusal :=
  lane1I (.brev o) o brevW s

/-- `IABS` (R120). -/
def execIabs (o : LForm) (s : State) : Host.Outcome State Fault Refusal :=
  lane1 (.iabs o) o absW s

/-- `POPC` (R120). -/
def execPopc (o : LForm) (s : State) : Host.Outcome State Fault Refusal :=
  lane1 (.popc o) o popcW s

/-- `CLZ` (R120). -/
def execClz (o : LForm) (s : State) : Host.Outcome State Fault Refusal :=
  lane1 (.clz o) o clzW s

/-- `IMAD` (R120). -/
def execImad (o : LqForm) (s : State) : Host.Outcome State Fault Refusal :=
  lane3 (.imad o) o (fun a b c => a * b + c) s

/-- `BFE` (R122). -/
def execBfe (o : LqForm) (s : State) : Host.Outcome State Fault Refusal :=
  lane1q (.bfe o) o (bfeW o.pos o.len (o.imm.getLsbD 4)) s

/-- `BFI` (R122). -/
def execBfi (o : LqForm) (s : State) : Host.Outcome State Fault Refusal :=
  lane2q (.bfi o) o (bfiW o.pos o.len) s

/-- `SEL` (R123). -/
def execSel (o : LqForm) (s : State) : Host.Outcome State Fault Refusal :=
  lane3 (.sel o) o (fun a b c => if c != 0 then a else b) s

/-- `ICMP` (R124). -/
def execIcmp (o : LqForm) (s : State) : Host.Outcome State Fault Refusal :=
  lane2q (.icmp o) o (fun a b => boolWord (intCond o.cond a b)) s

/-- `FCMP` (R125). -/
def execFcmp (o : LqForm) (s : State) : Host.Outcome State Fault Refusal :=
  lane2qf (.fcmp o) o (fun f a b =>
    let r := floatCond fp32 (fmodeFtz f) o.cond a.toNat b.toNat
    (boolWord r.1, r.2)) s

/-- `MOV` (R123): class I when B names D (R121). -/
def execMov (o : LForm) (s : State) : Host.Outcome State Fault Refusal :=
  issueSeq (.mov o) (fun s =>
    .done (laneWrite s o.d.toNat (s.laneSrc o.b o.lit) (fun _ => o.b.toNat == o.d.toNat) 0)) s

/-- `SWAP` (R123): always class I. -/
def execSwap (o : LForm) (s : State) : Host.Outcome State Fault Refusal :=
  issueSeq (.swap o) (fun s =>
    let m := s.co.st.mask
    let x := s.co.vreg o.d.toNat
    let y := s.co.vreg o.a.toNat
    .done { post := (s.writeV o.d.toNat m y).writeV o.a.toNat m x }) s

/-- Linear lane id of lane i of the focused cohort, a launch cohort (07 R149). -/
def State.linearLane (s : State) (i : Nat) : Nat :=
  match s.launch? s.co.launch with
  | some l => 96 * (s.co.blockIdx.toNat * l.record.c + s.co.cid) + i
  | none => 96 * s.co.cid + i

/-- Index at hierarchy level 0 of lane i (07 R149); in a task cohort the lane number (08 R196). -/
def State.lvl0At (s : State) (i : Nat) : Nat :=
  if s.co.task.isSome then i
  else match s.launch? s.co.launch with
    | some l => match l.record.levels with
      | lv :: _ :: _ => s.linearLane i % lv.extent
      | _ => s.linearLane i
    | none => s.linearLane i

/-- What `LREAD` writes in lane i (R126): lane, slice, index at hierarchy level 0 (07 R149), rank among the strand's
active lanes. In a task cohort level 0 is the lane (08 R196). -/
def lreadValue (s : State) (sel i : Nat) : Word :=
  match sel with
  | 0 => BitVec.ofNat 32 i
  | 1 => BitVec.ofNat 32 (i / 4)
  | 2 => BitVec.ofNat 32 (s.lvl0At i)
  | _ => BitVec.ofNat 32 (((lanesOf s.co.st.mask).filter (· < i)).length)

/-- `LREAD` (R126). -/
def execLread (o : LqForm) (s : State) : Host.Outcome State Fault Refusal :=
  issueSeq (.lread o) (fun s =>
    .done (laneWriteD s o.d.toNat (laneVals (lreadValue s o.imm.toNat)) 0)) s

end Sys2Proof.Machine
end

