-- ==== Sys2Proof/Machine/UniInt.lean ====
section
/-! DEFINITION. Uniform integer instructions (04 R83-R101). -/

namespace Sys2Proof.Machine

/-- Writes uniform codes: the value rules of R90 and R92, then the write with the records of R86-R88. `classI` tells
that the instruction's row of R86 holds. -/
def uniWrite (i : Instr) (s : State) (classI : Bool) (ws : List (Nat × Word)) : Act :=
  match ws.findSome? (fun p => s.writeCause p.1 p.2) with
  | some c => .trap (wordTrap c 0 i)
  | none => .done { post := s.writeUs ws, recs := s.recsU classI (ws.map (·.1)) }

/-- A U instruction with two sources. -/
def uni2 (i : Instr) (o : UForm) (classI : Word → Bool) (f : Word → Word → Word) (s : State) :
    Host.Outcome State Fault Refusal :=
  issueSeq i (fun s =>
    let a := s.readU o.a.toNat
    let b := s.readU o.b.toNat
    uniWrite i s (classI b) [(o.d.toNat, f a b)]) s

/-- A U instruction with one source. -/
def uni1 (i : Instr) (o : UForm) (classI : Bool) (f : Word → Word) (s : State) : Host.Outcome State Fault Refusal :=
  issueSeq i (fun s => uniWrite i s classI [(o.d.toNat, f (s.readU o.a.toNat))]) s

/-- A UI instruction. -/
def uniImm (i : Instr) (o : UiForm) (classI : Bool) (f : Word → BitVec 16 → Word) (s : State) :
    Host.Outcome State Fault Refusal :=
  issueSeq i (fun s => uniWrite i s classI [(o.d.toNat, f (s.readU o.d.toNat) o.imm)]) s

/-- A UX instruction that writes one register from three sources. -/
def uniX (i : Instr) (o : UxForm) (f : Word → Word → Word → Word) (s : State) : Host.Outcome State Fault Refusal :=
  issueSeq i (fun s =>
    uniWrite i s false [(o.d.toNat, f (s.readU o.a.toNat) (s.readU o.b.toNat) (s.readU o.c8))]) s

/-- The two writes of a 64-bit destination. -/
def pairWrites (d : Nat) (x : DWord) : List (Nat × Word) := [(d, x.low), (d + 1, x.high)]

/-- d = a and b ≠ d (R86). -/
def selfNotB (o : UForm) : Bool := o.d == o.a && o.b != o.d

/-- `UADD` (R94, R86). -/
def execUadd (o : UForm) (s : State) : Host.Outcome State Fault Refusal :=
  uni2 (.uadd o) o (fun _ => selfNotB o) (· + ·) s

/-- `USUB` (R94, R86). -/
def execUsub (o : UForm) (s : State) : Host.Outcome State Fault Refusal :=
  uni2 (.usub o) o (fun _ => selfNotB o) (· - ·) s

/-- `UMUL` (R94, R86). -/
def execUmul (o : UForm) (s : State) : Host.Outcome State Fault Refusal :=
  uni2 (.umul o) o (fun b => selfNotB o && b.getLsbD 0) (· * ·) s

/-- `UXOR` (R94, R86). -/
def execUxor (o : UForm) (s : State) : Host.Outcome State Fault Refusal :=
  uni2 (.uxor o) o (fun _ => selfNotB o) (· ^^^ ·) s

/-- `UROL` (R94, R86). -/
def execUrol (o : UForm) (s : State) : Host.Outcome State Fault Refusal :=
  uni2 (.urol o) o (fun _ => selfNotB o) rolW s

/-- `UMULH` (R94). -/
def execUmulh (o : UForm) (s : State) : Host.Outcome State Fault Refusal :=
  uni2 (.umulh o) o (fun _ => false) mulHighU s

/-- `UAND` (R94). -/
def execUand (o : UForm) (s : State) : Host.Outcome State Fault Refusal :=
  uni2 (.uand o) o (fun _ => false) (· &&& ·) s

/-- `UOR` (R94). -/
def execUor (o : UForm) (s : State) : Host.Outcome State Fault Refusal :=
  uni2 (.uor o) o (fun _ => false) (· ||| ·) s

/-- `USHL` (R94). -/
def execUshl (o : UForm) (s : State) : Host.Outcome State Fault Refusal :=
  uni2 (.ushl o) o (fun _ => false) shlW s

/-- `USHR` (R94). -/
def execUshr (o : UForm) (s : State) : Host.Outcome State Fault Refusal :=
  uni2 (.ushr o) o (fun _ => false) shrW s

/-- `USAR` (R94). -/
def execUsar (o : UForm) (s : State) : Host.Outcome State Fault Refusal :=
  uni2 (.usar o) o (fun _ => false) sarW s

/-- `UMIN` (R94). -/
def execUmin (o : UForm) (s : State) : Host.Outcome State Fault Refusal :=
  uni2 (.umin o) o (fun _ => false) (fun a b => if a.ult b then a else b) s

/-- `UMAX` (R94). -/
def execUmax (o : UForm) (s : State) : Host.Outcome State Fault Refusal :=
  uni2 (.umax o) o (fun _ => false) (fun a b => if b.ult a then a else b) s

/-- `UNOT` (R94, R86). -/
def execUnot (o : UForm) (s : State) : Host.Outcome State Fault Refusal :=
  uni1 (.unot o) o (o.d == o.a) (~~~ ·) s

/-- `UMOV` (R94, R86). -/
def execUmov (o : UForm) (s : State) : Host.Outcome State Fault Refusal :=
  uni1 (.umov o) o (o.d == o.a) id s

/-- `USWAP` (R95): with d = a it changes nothing. -/
def execUswap (o : UForm) (s : State) : Host.Outcome State Fault Refusal :=
  issueSeq (.uswap o) (fun s =>
    let x := s.readU o.d.toNat
    let y := s.readU o.a.toNat
    let ws := if o.d.toNat < o.a.toNat then [(o.d.toNat, y), (o.a.toNat, x)]
      else if o.a.toNat < o.d.toNat then [(o.a.toNat, x), (o.d.toNat, y)] else [(o.d.toNat, x)]
    uniWrite (.uswap o) s true ws) s

/-- `UADDI` (R96). -/
def execUaddi (o : UiForm) (s : State) : Host.Outcome State Fault Refusal :=
  uniImm (.uaddi o) o true (fun d imm => d + imm.signExtend 32) s

/-- `UMOVI` (R96). -/
def execUmovi (o : UiForm) (s : State) : Host.Outcome State Fault Refusal :=
  uniImm (.umovi o) o false (fun _ imm => imm.signExtend 32) s

/-- `UMOVH` (R96). -/
def execUmovh (o : UiForm) (s : State) : Host.Outcome State Fault Refusal :=
  uniImm (.umovh o) o false (fun d imm => imm ++ d.extractLsb' 0 16) s

/-- `UXORI` (R96). -/
def execUxori (o : UiForm) (s : State) : Host.Outcome State Fault Refusal :=
  uniImm (.uxori o) o true (fun d imm => d ^^^ imm.setWidth 32) s

/-- `UADD64` (R97, R86). -/
def execUadd64 (o : UForm) (s : State) : Host.Outcome State Fault Refusal :=
  issueSeq (.uadd64 o) (fun s =>
    uniWrite (.uadd64 o) s (selfNotB o) (pairWrites o.d.toNat (s.readU2 o.a.toNat + s.readU2 o.b.toNat))) s

/-- `UMOV64` (R97, R86). -/
def execUmov64 (o : UForm) (s : State) : Host.Outcome State Fault Refusal :=
  issueSeq (.umov64 o) (fun s =>
    uniWrite (.umov64 o) s (o.d == o.a) (pairWrites o.d.toNat (s.readU2 o.a.toNat))) s

/-- `UCMP` (R98): COND in the extension's top bits, W compares 64-bit operands. -/
def execUcmp (o : UeForm) (s : State) : Host.Outcome State Fault Refusal :=
  issueSeq (.ucmp o) (fun s =>
    let c := (o.ext.extractLsb' 28 4).toNat
    let r := if o.ext.getLsbD 27 then intCond c (s.readU2 o.a.toNat) (s.readU2 o.b.toNat)
      else intCond c (s.readU o.a.toNat) (s.readU o.b.toNat)
    uniWrite (.ucmp o) s false [(o.d.toNat, boolWord r)]) s

/-- `NOP` (R99). -/
def execNop (o : UForm) (s : State) : Host.Outcome State Fault Refusal :=
  issueSeq (.nop o) (fun s => .done { post := s }) s

/-- `USEL` (R101). -/
def execUsel (o : UxForm) (s : State) : Host.Outcome State Fault Refusal :=
  uniX (.usel o) o (fun a b c => if c != 0 then a else b) s

/-- `UBFE` (R101). -/
def execUbfe (o : UxForm) (s : State) : Host.Outcome State Fault Refusal :=
  uniX (.ubfe o) o (fun a _ _ => bfeW o.pos o.len (o.ext.getLsbD 4) a) s

/-- `UBFI` (R101). -/
def execUbfi (o : UxForm) (s : State) : Host.Outcome State Fault Refusal :=
  uniX (.ubfi o) o (fun a b _ => bfiW o.pos o.len a b) s

/-- `UPOPC` (R101). -/
def execUpopc (o : UxForm) (s : State) : Host.Outcome State Fault Refusal :=
  uniX (.upopc o) o (fun a _ _ => popcW a) s

/-- `UCLZ` (R101). -/
def execUclz (o : UxForm) (s : State) : Host.Outcome State Fault Refusal :=
  uniX (.uclz o) o (fun a _ _ => clzW a) s

end Sys2Proof.Machine
end

