-- ==== Sys2Proof/Machine/Control.lean ====
section
/-! DEFINITION. Transfers of control, history controls, traps and WAITC (04 R102-R115, 01 R22-R30). -/

namespace Sys2Proof.Machine

/-- Target of a branch (03 R71): the instruction's own address + 4 x offset. -/
def State.branchTarget (s : State) (off : DWord) : DWord := s.pcAddr + 4 * off

/-- A conditional branch (R102). -/
def branchIf (i : Instr) (o : UcForm) (taken : Word → Bool) (s : State) : Host.Outcome State Fault Refusal :=
  issue i (fun s =>
    if taken (s.readU o.reg.toNat) then .to (s.branchTarget (o.off.signExtend 64)) false else .seq)
    (fun s => .done { post := s.trace 2 (2 ^ 16 + if taken (s.readU o.reg.toNat) then 1 else 0) [] }) s

/-- `BR` (R102). -/
def execBr (o : UbForm) (s : State) : Host.Outcome State Fault Refusal :=
  issue (.br o) (fun s => .to (s.branchTarget (o.off.signExtend 64)) false) (fun s => .done { post := s }) s

/-- `BRZ` (R102). -/
def execBrz (o : UcForm) (s : State) : Host.Outcome State Fault Refusal := branchIf (.brz o) o (· == 0) s

/-- `BRNZ` (R102). -/
def execBrnz (o : UcForm) (s : State) : Host.Outcome State Fault Refusal := branchIf (.brnz o) o (· != 0) s

/-- `CALL` (R103). -/
def execCall (o : UbForm) (s : State) : Host.Outcome State Fault Refusal :=
  issue (.call o) (fun s => .to (s.branchTarget (o.off.signExtend 64)) true)
    (fun s => uniWrite (.call o) s false (pairWrites 203 (seqNext s.pcAddr 1))) s

/-- `RET` (R104). -/
def execRet (o : UForm) (s : State) : Host.Outcome State Fault Refusal :=
  issue (.ret o) (fun s => .to s.co.link false)
    (fun s => .done { post := s.trace 3 0 (dwordWords s.co.link) }) s

/-- `JMPR` (R105). -/
def execJmpr (o : UForm) (s : State) : Host.Outcome State Fault Refusal :=
  issue (.jmpr o) (fun s => .to (s.readU2 o.a.toNat) false)
    (fun s => .done { post := s.trace 3 0 (dwordWords (s.readU2 o.a.toNat)) }) s

/-- `COMMIT` (R107, 01 R22): class H. -/
def execCommit (o : UForm) (s : State) : Host.Outcome State Fault Refusal :=
  issueSeq (.commit o) (fun s => .done { post := s, hard := true }) s

/-- The strand awaits answers to an accumulate or to fabric messages, and goes on forward when they have come. -/
def Strand.answering (t : Strand) : Bool :=
  match t.park with
  | some (.resource .eddy) | some (.fabric _) => true
  | _ => false

/-- Every result outstanding for any strand has landed, and no strand's accumulates or fabric messages are under way (01
R13, R23). -/
def Cohort.landed (c : Cohort) : Bool := c.strands.all fun t => t.outst.isEmpty && !t.answering

/-- The same, counting what the halted strand waits for during a run of the program buffer. -/
def State.landed (s : State) : Bool := s.co.landed && match s.co.debug, s.dbg.held with
  | true, some (.resource .eddy) | true, some (.fabric _) => false
  | _, _ => true

/-- The rules that `REWIND` and `REWINDT` share outside trap mode (01 R23, R24): `zero` is what a walk of no step does. -/
def rewindAct (kind : WalkKind) (target : DWord) (zero : State → Act) (s : State) : Act :=
  let st := s.co.st
  if target < st.floor then .trap (trapOf 0x0E 0 target)
  else if st.icnt < target then .trap (trapOf 0x0E 1 target)
  else if !s.landed then .park .landed s
  else if target = st.icnt then zero s
  else
    let s := if s.co.debug then { s with dbg := { s.dbg with held := none } } else s
    .whole (((s.trace 6 0 (dwordWords target)).setCo fun c => { c with dir := true, walk := some ⟨target, st.id, kind⟩ }).setSt fun t =>
    { t with park := none })

/-- `REWIND` (R108, R109): in trap mode it only sets the pending target. -/
def execRewind (o : UForm) (s : State) : Host.Outcome State Fault Refusal :=
  issue (.rewind o)
    (fun s => if s.co.tm || s.readU2 o.a.toNat = s.co.st.icnt then .seq else .own)
    (fun s =>
      let target := s.readU2 o.a.toNat
      if s.co.tm then
        if target < s.co.st.floor then .trap (trapOf 0x0E 0 target)
        else if s.co.st.icnt < target then .trap (trapOf 0x0E 1 target)
        else .done { post := s.setCo fun c => { c with dir := true, walk := some ⟨target, c.st.id, .plain⟩ } }
      else rewindAct .plain target (fun s => .done { post := s }) s) s

/-- The trap of `REWINDT` (01 R24). -/
def rewindtTrap : Trap := trapOf 0x06 0 0xFFFFFFFF

/-- `REWINDT` (R110, 01 R24). -/
def execRewindt (o : UxForm) (s : State) : Host.Outcome State Fault Refusal :=
  issue (.rewindt o)
    (fun s => if s.readU2 o.a.toNat = s.co.st.icnt then .seq else .own)
    (fun s => rewindAct .trap (s.readU2 o.a.toNat) (fun s =>
      match s.tryComplete { post := s } (seqNext s.pcAddr (Instr.rewindt o).length) with
      | .ok t => .whole (s.thenTrap t rewindtTrap)
      | .error t => .whole t) s) s

/-- `HPUSH` (R111, R112). -/
def execHpush (o : UForm) (s : State) : Host.Outcome State Fault Refusal :=
  issueSeq (.hpush o) (fun s =>
    if s.co.lim < s.co.hbase + 4 * s.co.hsave.length + 4 then .trap (trapOf 0x0D 0 4)
    else .done { post := s.setCo fun c => { c with hsave := s.readU o.a.toNat :: c.hsave } }) s

/-- `HPOP` (R111, R112). -/
def execHpop (o : UForm) (s : State) : Host.Outcome State Fault Refusal :=
  issueSeq (.hpop o) (fun s =>
    match s.co.hsave with
    | [] => .trap (wordTrap 0x01 0 (.hpop o))
    | w :: rest => uniWrite (.hpop o) (s.setCo fun c => { c with hsave := rest }) false [(o.d.toNat, w)]) s

/-- `TRAP` (R113): completes, then enters the trap. -/
def execTrap (o : UiForm) (s : State) : Host.Outcome State Fault Refusal :=
  issueSeq (.trap o) (fun s =>
    match s.tryComplete { post := s } (seqNext s.pcAddr 1) with
    | .ok t => .whole (s.thenTrap t (trapOf 0x06 0 (o.imm.setWidth 64)))
    | .error t => .whole t) s

/-- `TRET` (R114, 01 R30): a written `%tpc` commits and must name a marked target. -/
def execTret (o : UxForm) (s : State) : Host.Outcome State Fault Refusal :=
  issue (.tret o) (fun _ => .own) (fun s =>
    let va := pairOf ((s.co.st.pc.extractLsb' 32 24).setWidth 32) s.co.tpc
    match s.checkArrival va (!s.co.tpcWritten) false with
    | .bad c sub info => .trap (trapOf c sub info)
    | .fill l => .park (.fill l) s
    | .page a => .park (.page a) s
    | .ok =>
      let t := if s.co.tpcWritten then s.setCo Cohort.commit else s
      let t := t.setCo fun c =>
        { c with tm := false, hbase := 0, hsave := [], walk := c.walk.map fun w => { w with kind := .plain } }
      let t := match t.co.dir, t.co.walk with
        | true, some w => t.trace 6 0 (dwordWords w.target)
        | _, _ => t
      .whole (((t.trace 3 0 (dwordWords va)).setPc va).setSt fun st => { st with park := none })) s

/-- `WAITC` (R115). -/
def execWaitc (o : UForm) (s : State) : Host.Outcome State Fault Refusal :=
  issueSeq (.waitc o) (fun s =>
    if ((List.range 6).filter fun k => o.a.getLsbD k).all fun k => s.co.st.ticket k ≤ o.b.toNat then .done { post := s }
    else .park (.waitc o.a.toNat o.b.toNat) s) s

end Sys2Proof.Machine
end

