-- ==== Sys2Proof/Machine/Parallel.lean ====
section
/-! DEFINITION. Divergence, joining and leaving (07 R156-R166, 09 R203-R207) and values across lanes (09 R208-R210). -/

namespace Sys2Proof.Machine

/-! ### The reconvergence stack -/

/-- An entry names a strand as one of its children. -/
def Entry.names (e : Entry) (id : Nat) : Bool := e.cha == id || e.chb == id

/-- The innermost entry of a strand (R163). -/
def Cohort.innermost (c : Cohort) (id : Nat) : Option Entry := c.stack.find? (·.names id)

/-- Changes the innermost entry of a strand. -/
def Cohort.modInner (c : Cohort) (id : Nat) (f : Entry → Entry) : Cohort :=
  { c with stack := modifyFirst (·.names id) f c.stack }

/-- Removes the innermost entry of a strand; the entries above close the gap (R163). -/
def Cohort.dropInner (c : Cohort) (id : Nat) : Cohort := { c with stack := dropFirst (·.names id) c.stack }

/-- Marks a strand as arrived, or not, in its innermost entry (R164). -/
def Entry.mark (id : Nat) (b : Bool) (e : Entry) : Entry :=
  { e with arra := if e.cha == id then b else e.arra, arrb := if e.chb == id then b else e.arrb }

/-- Pending lanes: exited, not removed (R156). -/
def Cohort.pendingLanes (c : Cohort) : LaneSet := c.exm &&& ~~~c.removed

/-- The running set of the focused strand (R166). -/
def Cohort.running (c : Cohort) : LaneSet :=
  match c.innermost c.st.id with
  | some e =>
    if !e.ser then c.st.held
    else if e.second then c.st.held &&& ~~~(e.pmask &&& ~~~e.dmask)
    else c.st.held &&& ~~~e.dmask
  | none => c.st.held

/-- The lowest id that no live strand has (R160, R162). -/
def Cohort.freeId (c : Cohort) : Option Nat := (List.range 4).find? fun k => !(c.strands.any (·.id == k))

/-- Ends an instruction whose own effect, records included, stands in `t`: the room of R17 and R163, the spill, the
write-back and the commit of class H. `s` is the state before it. -/
def State.finish (s t : State) (hard : Bool) : State :=
  if t.co.lim < t.co.wheyt then
    s.raise (trapOf 0x0D 0 (BitVec.ofNat 64 (t.co.wheyt - s.co.wheyt + 64 * (t.co.spilled - s.co.spilled))))
  else
    let spill := if s.co.stack.length < t.co.stack.length then t.spillEntry else .ok t
    match spill with
    | .miss a => s.parkMiss a
    | .fault c a => s.haltTrap (trapOf c 0 (BitVec.ofNat 64 a))
    | .ok t => match t.wheyFlush 1024 with
      | .miss a => s.parkMiss a
      | .fault c a => s.haltTrap (trapOf c 0 (BitVec.ofNat 64 a))
      | .ok t => if hard then t.setCo Cohort.commit else t

/-- Acts on the outcome of an arrival check: goes on, or raises or parks. -/
def State.onArrive (s : State) (a : Arrive) (k : State) : State :=
  match a with
  | .ok => k
  | .fill l => s.parkSt (.fill l)
  | .page p => s.parkSt (.page p)
  | .bad c sub info => s.raise (trapOf c sub info)

/-! ### BRL and BRLZ -/

/-- Lanes of the strand that take the branch (R204). -/
def takenLanes (s : State) (zero : Bool) (a : Nat) : LaneSet :=
  laneSetOf fun i => s.co.st.mask.getLsbD i && ((s.co.vlane a i == 0) == zero)

/-- The split of R160: `tk` takes the branch to `va`, `nt` goes on at `succ`. -/
def State.diverge (s : State) (va succ : DWord) (tk nt : LaneSet) : State :=
  let p := s.co.st
  match s.co.freeId with
  | some x =>
    let rec5 := RecBody.div p.id x false false tk nt s.pcAddr
    let e : Entry := { parent := p.id, cha := p.id, chb := x, ser := false, join := none, second := false, arra := false,
                       arrb := false, pmask := p.mask, dmask := 0, dstart := 0 }
    let child : Strand := { p with id := x, pc := succ.setWidth 56, icnt := p.icnt + 1, mask := nt, held := nt, outst := [],
                                   park := none, passed := 0, fabErr := none, reports := [], copies := [], late := none }
    let t := (s.setCo fun c => { c.pushRecs p.icnt.low [rec5] with stack := e :: c.stack, sibs := child :: c.sibs }).setSt
      fun st => { st with pc := va.setWidth 56, icnt := st.icnt + 1, mask := tk,
                          held := tk ||| (st.held &&& ~~~p.mask), park := none }
    t.trace 4 x []
  | none =>
    let rec5 := RecBody.div p.id p.id true false tk nt s.pcAddr
    let e : Entry := { parent := p.id, cha := p.id, chb := p.id, ser := true, join := none, second := false,
                       arra := false, arrb := false, pmask := p.mask, dmask := nt, dstart := succ }
    let t := (s.setCo fun c => { c.pushRecs p.icnt.low [rec5] with stack := e :: c.stack }).setSt
      fun st => { st with pc := va.setWidth 56, icnt := st.icnt + 1, mask := tk, park := none }
    t.trace 4 (4 + p.id) []

/-- A branch on lanes (R204, R205). -/
def branchLanes (i : Instr) (o : UcForm) (zero : Bool) (s : State) : Host.Outcome State Fault Refusal :=
  let a := o.reg.toNat % 128
  issue i (fun s =>
      let tk := takenLanes s zero a
      if tk = 0 then .seq else if tk = s.co.st.mask then .to (s.branchTarget (o.off.signExtend 64)) false else .own)
    (fun s =>
      let tk := takenLanes s zero a
      let nt := s.co.st.mask &&& ~~~tk
      if tk = 0 || nt = 0 then .done { post := s.trace 2 (2 ^ 16 + if tk = 0 then 0 else 1) [] }
      else if s.co.special then .trap (wordTrap 0x01 0 i)
      else
        let va := s.branchTarget (o.off.signExtend 64)
        let succ := seqNext s.pcAddr 1
        .whole (s.onArrive (s.checkArrival va false false)
          (s.onArrive (s.checkArrival succ true false) (s.finish (s.diverge va succ tk nt) false)))) s

/-- `BRL` (R204). -/
def execBrl (o : UcForm) (s : State) : Host.Outcome State Fault Refusal := branchLanes (.brl o) o false s

/-- `BRLZ` (R204). -/
def execBrlz (o : UcForm) (s : State) : Host.Outcome State Fault Refusal := branchLanes (.brlz o) o true s

/-! ### REGANG -/

/-- The strand that results from children of an entry (R165): ids, masks and counts as they stand at arrival; `plus`
is the count that a completing `REGANG` adds. -/
def mergeStrand (c : Cohort) (e : Entry) (parts : List Strand) (base : Strand) (plus : DWord) : Strand :=
  let top := parts.foldl (fun m t => if m < t.icnt then t.icnt else m) 0
  { base with
    id := e.parent
    icnt := top + plus
    floor := parts.foldl (fun m t => if m < t.floor then t.floor else m) 0
    held := parts.foldl (fun h t => h ||| t.held) 0
    mask := e.pmask &&& ~~~c.exm
    outst := parts.flatMap (·.outst)
    park := none
    passed := 0
    horizon := parts.foldl (fun m t => max m t.horizon) 0
    unacked := parts.flatMap (·.unacked)
    fabErr := parts.findSome? (·.fabErr)
    reports := parts.flatMap (·.reports)
    copies := parts.flatMap (·.copies)
    late := none
    checked := parts.foldl (fun m t => if m < t.checked then t.checked else m) 0 }

/-- The strands that an entry names, in ascending id. -/
def Cohort.children (c : Cohort) (e : Entry) : List Strand :=
  (List.range 4).filterMap fun k => if e.names k then c.strand? k else none

/-- The merge at a `REGANG` (R165): removal, Rejoin record or commit. `t` is `s` with the arrival marked. -/
def State.merge (s t : State) (e : Entry) : State :=
  let c := t.co
  let parts := c.children e
  let base := (c.strand? e.parent).getD c.st
  let st := mergeStrand c e parts base 1
  let pending := c.pendingLanes != 0
  let body := RecBody.rejoin e.parent (parts.map fun t => ⟨t.id, t.mask, t.held, t.icnt.low⟩) s.pcAddr
  let record : Rec := { strand := e.parent, count := (st.icnt - 1).low, body := body }
  let st := { st with pc := (seqNext s.pcAddr 1).setWidth 56 }
  let t := t.setCo fun c => { c.dropInner c.st.id with
    st := st, sibs := c.sibs.filter (fun t => !e.names t.id), removed := c.exm,
    whey := if pending then c.whey else record :: c.whey }
  s.finish (t.trace 5 0 []) pending

/-- `REGANG` (R206, 07 R164). -/
def execRegang (o : UForm) (s : State) : Host.Outcome State Fault Refusal :=
  issue (.regang o) (fun s => if (s.co.innermost s.co.st.id).isSome then .own else .seq) (fun s =>
    let pending := s.co.pendingLanes != 0
    match s.co.innermost s.co.st.id with
    | none => .done { post := s.setCo fun c => { c with removed := c.exm }, hard := pending }
    | some e0 =>
      let id := s.co.st.id
      let j := s.pcAddr
      if (e0.join.getD j) != j then .trap (wordTrap 0x01 1 (.regang o))
      else
        let e := (({ e0 with join := some j } : Entry)).mark id true
        let t := s.setCo fun c => c.modInner id fun _ => if e0.ser then { e0 with join := some j } else e
        if !e0.ser && !(e.arra && e.arrb) then .park .regang t
        else if e0.ser && !e0.second then
          .whole (s.onArrive (s.checkArrival e0.dstart true false)
            (let st := s.co.st
             let body := RecBody.div id id true false st.mask e0.dmask j
             let t := t.setCo fun c => { (if pending then c else c.pushRecs st.icnt.low [body]) with removed := c.exm }
             let t := (t.setCo fun c => c.modInner id fun e => { e with second := true }).setSt fun st =>
               { st with mask := e0.dmask &&& st.held, pc := e0.dstart.setWidth 56, icnt := st.icnt + 1, park := none }
             s.finish t pending))
        else .whole (s.onArrive (s.checkArrival (seqNext j 1) true false) (s.merge t e))) s

/-! ### EXIT -/

/-- What emptying its running set does to the focused strand (R166): the new state, the record of a move to the join,
and whether the instruction is class H. `fuel` bounds the entries closed in turn; `old` is the mask before the
instruction. -/
def State.emptied (old : LaneSet) : Nat → State → State × List RecBody × Bool
  | 0, s => (s, [], false)
  | fuel + 1, s =>
    let c := s.co
    let id := c.st.id
    match c.innermost id with
    | none =>
      if c.sibs.all (·.held = 0) then (s.setCo fun c => { c with ending := true }, [], false)
      else match c.sibs with
        | [] => (s.setCo fun c => { c with ending := true }, [], false)
        | t :: rest => (s.setCo fun c => { c with st := t, sibs := rest }, [], false)
    | some e =>
      if e.ser then
        if e.second then
          if e.join.isSome then
            let back := e.pmask &&& c.st.held &&& ~~~e.dmask
            (s.setSt fun st => { st with mask := back, pc := (e.join.getD 0).setWidth 56 },
              [.div id id true true old back s.pcAddr], false)
          else
            let r := (s.setCo fun c => { c.dropInner id with st := { c.st with id := e.parent } }).emptied old fuel
            (r.1, r.2.1, true)
        else
          let t := (s.setCo fun c => c.modInner id fun e => { e with second := true }).setSt fun st =>
            { st with mask := e.dmask &&& st.held, pc := e.dstart.setWidth 56 }
          if t.co.running = 0 then t.emptied old fuel else (t, [], false)
      else
        let e' := e.mark id true
        let t := s.setCo fun c => c.modInner id fun _ => e'
        let sib := if e.cha == id then e.chb else e.cha
        let gone := match c.strand? sib with
          | some x => x.held = 0
          | none => true
        if e'.arra && e'.arrb && gone then
          let parts := c.children e
          let base := (c.strand? e.parent).getD c.st
          let st := mergeStrand c e parts base 0
          let t := t.setCo fun c => { c.dropInner id with st := st, sibs := c.sibs.filter (fun t => !e.names t.id) }
          let r := (t.trace 5 0 []).emptied old fuel
          (r.1, r.2.1, true)
        else
          let t := t.parkSt .regang
          let wake (x : Strand) : Strand := if x.id == sib && e'.arra && e'.arrb then { x with park := none } else x
          (t.setCo fun c => { c with sibs := c.sibs.map wake }, [], false)

/-- Records of an `EXIT` (R207). -/
def exitRecs (s : State) : List RecBody :=
  let c := s.co
  let x := c.st.mask
  let exm := (List.range 3).filter fun k => maskWord x k != 0
  let switch := match c.innermost c.st.id with
    | some e => if c.running &&& ~~~x = 0 && e.ser && !e.second then
        [RecBody.div c.st.id c.st.id true false x e.dmask s.pcAddr] else []
    | none => []
  .mask x :: exm.map (fun k => .uni (225 + k) (maskWord c.exm k)) ++ switch

/-- The exit of the active lanes: pending lanes, masks, and the arrival of R166 when the running set is empty (R207).
`recs` are the instruction's records, none for `TEND`; `hard` is its own class. -/
def State.exitLanes (s : State) (recs : List RecBody) (hard : Bool) : State :=
  let x := s.co.st.mask
  let n := s.co.st.icnt
  let t := (s.setCo fun c => { c with exm := c.exm ||| x }).setSt fun st =>
    { st with held := st.held &&& ~~~x, mask := 0, icnt := n + 1, pc := (seqNext s.pcAddr 1).setWidth 56, park := none }
  let (t, more, h) := t.emptied x (t.co.stack.length + 2)
  let t := if h || hard then t else
    t.setCo fun c => { c with whey := (recs ++ more).reverse.map (fun b => ⟨s.co.st.id, n.low, b⟩) ++ c.whey }
  s.finish t (h || hard)

/-- The exit empties the running set of the strand. -/
def exitEmpties (s : State) : Bool := s.co.running &&& ~~~s.co.st.mask = 0

/-- `EXIT` (R207). -/
def execExit (o : UForm) (s : State) : Host.Outcome State Fault Refusal :=
  issue (.exit o) (fun s => if s.co.st.mask != 0 && exitEmpties s then .own else .seq) (fun s =>
    let x := s.co.st.mask
    if x = 0 then .done { post := s }
    else if exitEmpties s then .whole (s.exitLanes (exitRecs s) false)
    else .done { post := (s.setCo fun c => { c with exm := c.exm ||| x }).setSt fun st =>
                   { st with held := st.held &&& ~~~x, mask := 0 }
                 recs := exitRecs s }) s

/-! ### Values across lanes -/

/-- `MBALLOT` (R208). -/
def execMballot (o : UForm) (s : State) : Host.Outcome State Fault Refusal :=
  issueSeq (.mballot o) (fun s =>
    let m := takenLanes s (o.b.getLsbD 0) (o.a.toNat % 128)
    uniWrite (.mballot o) s false ((List.range 3).map fun k => (o.d.toNat + k, maskWord m k))) s

/-- The vote of R209 over the active lanes' values. -/
def voteValue (mode : Nat) (l : List Word) : Word :=
  match mode with
  | 0 => boolWord (l.any (· != 0))
  | 1 => boolWord (l.all (· != 0))
  | 2 => boolWord (l.all (· == l.headD 0))
  | _ => BitVec.ofNat 32 (l.filter (· != 0)).length

/-- `VOTE` (R209). -/
def execVote (o : UForm) (s : State) : Host.Outcome State Fault Refusal :=
  issueSeq (.vote o) (fun s =>
    let l := pickLanes s.co.st.mask (s.co.vreg (o.a.toNat % 128))
    uniWrite (.vote o) s false [(o.d.toNat, voteValue o.b.toNat l)]) s

/-- `RDLANE` (R210). -/
def execRdlane (o : UForm) (s : State) : Host.Outcome State Fault Refusal :=
  issueSeq (.rdlane o) (fun s =>
    let l := (s.readU o.b.toNat).toNat
    let v := if l ≤ 95 && s.co.st.mask.getLsbD l then s.co.vlane (o.a.toNat % 128) l else 0
    uniWrite (.rdlane o) s false [(o.d.toNat, v)]) s

/-- `WRLANE` (R210). -/
def execWrlane (o : UForm) (s : State) : Host.Outcome State Fault Refusal :=
  issueSeq (.wrlane o) (fun s =>
    let l := (s.readU o.b.toNat).toNat
    let d := o.d.toNat % 128
    if l ≤ 95 && s.co.st.mask.getLsbD l then
      let m : LaneSet := 1#96 <<< l
      .done { post := s.writeV d m (laneVals fun _ => s.readU o.a.toNat), recs := laneRecs s.co d m }
    else .done { post := s }) s

end Sys2Proof.Machine
end

