-- ==== Sys2Proof/Machine/Access.lean ====
section
/-! DEFINITION. Data accesses: where bytes lie (10 R225-R234, 21 R427), the checks at issue and the late ones (12 R269),
orders and scopes (11 R249, R253, R257, R259), and messages to other devices (21 R426-R430). -/

namespace Sys2Proof.Machine

/-! ### Orders -/

/-- ORDER codes with an acquire part (R249). -/
def isAcq (order : Nat) : Bool := order == 1 || order == 3 || order == 4
/-- ORDER codes with a release part (R249). -/
def isRel (order : Nat) : Bool := order == 2 || order == 3 || order == 5 || order == 6

/-- Commands of the focused strand that still read scratchpad operands (15 R330). -/
def State.mmaReading (s : State) : Bool :=
  (s.pair (pairOfCore s.co.core)).queue.any fun m => !m.redo && m.cohort == s.co.uid && m.strand == s.co.st.id

/-- What a release at a scope must wait for, or the fabric error that it finds (R257, 21 R429, R430, 15 R330). -/
def State.relWait (s : State) (scope : Nat) : Option (Wait ⊕ DWord) :=
  let st := s.co.st
  if s.mmaReading then some (.inl (.resource .reading))
  else if st.unacked.any (fun u => scope == 5 || u.tid.isNone) then some (.inl (.resource (.acks false)))
  else if st.horizon != 0 && 4 ≤ scope && s.time ≤ st.horizon then some (.inl (.resource (.acks true)))
  else match (if scope == 5 then st.fabErr else none) with
    | some va => some (.inr va)
    | none => none

/-- Runs `k` once a release may perform; a release that meets the strand's fabric error raises it and clears it. -/
def withRelease (s : State) (rel : Bool) (scope : Nat) (k : Act) : Act :=
  if !rel then k
  else match s.relWait scope with
    | some (.inl w) => .park w s
    | some (.inr va) => .whole ((s.setSt fun st => { st with fabErr := none }).raise (trapOf 0x0B 1 va))
    | none => k

/-- L1 part of the orders before the access: the release writes back, the acquire invalidates (R253). -/
def State.orderL1 (s : State) (order scope : Nat) : State :=
  let s := if isRel order then s.releaseAt s.co.core scope else s
  if isAcq order then s.acquireAt s.co.core scope else s

/-! ### Places -/

/-- Where the bytes of one access lie. -/
inductive Place where
  /-- device memory: a physical address for each byte -/
  | mem (pas : List Nat)
  /-- scratchpad of a core: an offset for each byte -/
  | sp (core : Nat) (offs : List Nat)
  /-- fabric window (21 R427) -/
  | fab (va : Nat)
  deriving DecidableEq, Repr

/-- Outcome of finding a place. -/
inductive PRes where
  | ok (p : Place)
  | miss (va : Nat)
  | late (code sub va : Nat)
  | wait (w : Wait)
  deriving DecidableEq, Repr

/-- The address lies in the fabric window (R427). -/
def isFabric (va : Nat) : Bool := va / 2 ^ 48 == 0xFF

/-- Where an access comes from: core, block, launch. -/
structure Origin where
  core : Nat
  block : Nat
  launch : Nat
  deriving DecidableEq, Repr

/-- Where a cohort's accesses come from. -/
def Cohort.origin (c : Cohort) : Origin := ⟨c.core, c.block, c.launch⟩

/-- First offset and P of a block. -/
def State.blockRange (s : State) (block : Nat) : Nat × Nat :=
  match s.block? block with
  | some b => (b.base, b.p)
  | none => (0, 0)

/-- The block that serves a peer access to a core (R229): resident first, lowest index. -/
def State.targetBlock (s : State) (f : Origin) (core : Nat) : Option Block :=
  let group := match s.block? f.block with
    | some b => b.group
    | none => none
  let l := s.blocks.filter fun b => b.phase < 3 && b.core == core && b.launch == f.launch && b.group == group
  let low (l : List Block) : Option Block := l.foldl (fun m b => match m with
    | none => some b
    | some x => if b.index < x.index then some b else some x) none
  match low (l.filter (·.phase < 2)) with
  | some b => some b
  | none => low l

/-- Core of a peer address (R227). -/
def peerCore (core addr : Nat) : Nat := 4 * clusterOf core + addr / 2 ^ 21 % 4

/-- A scratchpad address that acts as a local linear one: below 2^21, or a peer address of the own core (R229). -/
def spLocal (core addr : Nat) : Bool := addr < 0x200000 || (0x800000 ≤ addr && peerCore core addr == core)

/-- Reserved ranges of R227, and addresses past 24 bits (03 R70). -/
def spReserved (addr : Nat) : Bool :=
  0x1000000 ≤ addr || (0x200000 ≤ addr && addr < 0x400000) || (0x600000 ≤ addr && addr < 0x800000)

/-- Block offset of a byte of the local linear range or the diagonal window (R227, R231). -/
def spOffset (addr : Nat) : Nat :=
  if 0x400000 ≤ addr && addr < 0x600000 then diagToLinear (addr - 0x400000) else addr % 0x200000

/-- Finds a scratchpad access of n bytes. -/
def State.spPlace (s : State) (f : Origin) (addr n : Nat) : PRes :=
  if addr < 0x800000 || spLocal f.core addr then
    .ok (.sp f.core ((spanNat addr n).map fun a => (s.blockRange f.block).1 + spOffset a))
  else
    match s.targetBlock f (peerCore f.core addr) with
    | none => .late 0x0C 0 addr
    | some b =>
      if b.phase = 2 then .wait .line
      else match (spanNat addr n).find? fun a => b.p ≤ a % 0x200000 with
        | some a => .late 0x0A 0 a
        | none => .ok (.sp b.core ((spanNat addr n).map fun a => b.base + a % 0x200000))

/-- Finds a device memory access of n bytes. -/
def State.devPlace (s : State) (acc : Acc) (va n : Nat) : PRes :=
  if isFabric va then .ok (.fab va)
  else match xlateList (fun a => s.xlate s.co.core a acc) (spanNat va n) with
    | .ok pas => .ok (.mem pas)
    | .miss a => .miss a
    | .fault c a => .late c 0 a

/-- What a fabric access needs (R427). -/
inductive FabNeed where
  | read | write
  deriving DecidableEq, Repr

/-- A byte of the fabric window may be accessed (R427). -/
def State.fabricByteOk (s : State) (need : FabNeed) (va : Nat) : Bool :=
  match s.fabric.windows[va / 2 ^ 40 % 256]? with
  | none => false
  | some w =>
    w.word2.getLsbD 31 && va % 2 ^ 40 < 2 ^ (w.word2.extractLsb' 16 6).toNat
      && (match need with | .read => w.word2.getLsbD 29 | .write => w.word2.getLsbD 30)
      && (w.word2.extractLsb' 0 16).toNat != s.fabric.device && isFabric va

/-- One access of a lane or a strand: lane (127 for uniform), address. -/
structure LaneAcc where
  lane : Nat
  addr : Nat
  deriving DecidableEq, Repr

/-- The checks at issue of R269, stage by stage, lowest lane first. `align` is the alignment asked. -/
def State.issueChecks (s : State) (sp : Bool) (need : List FabNeed) (fabOk : Bool) (n align : Nat) (l : List LaneAcc) :
    Option Trap :=
  let hit (c a : Nat) : Option Trap := some (trapOf c 0 (BitVec.ofNat 64 a))
  match l.find? fun x => x.addr % align != 0 with
  | some x => hit 0x07 x.addr
  | none =>
    match l.find? fun x => if sp then spReserved x.addr else 2 ^ 56 ≤ x.addr || 2 ^ 56 ≤ (x.addr + n - 1) % 2 ^ 64 with
    | some x => hit 0x08 x.addr
    | none =>
      let bad (a : Nat) : Bool :=
        if sp then (a < 0x800000 || spLocal s.co.core a) && (s.blockRange s.co.block).2 ≤ spOffset a
        else isFabric a && (!fabOk || need.any fun f => !s.fabricByteOk f a)
      match l.findSome? fun x => (spanNat x.addr n).find? bad with
      | some a => hit 0x0A a
      | none => none

/-- Finds the place of each access, lowest lane first; the first that has none decides (R269, R245). -/
def resolveAll (f : Nat → PRes) : List LaneAcc → Except PRes (List (LaneAcc × Place))
  | [] => .ok []
  | x :: rest =>
    match f x.addr with
    | .ok p => match resolveAll f rest with
      | .ok ps => .ok ((x, p) :: ps)
      | .error e => .error e
    | e => .error e

/-- Lines of scratchpad that accesses touch: (core, line). -/
def spLines (ps : List (LaneAcc × Place)) : List (Nat × Nat) :=
  ps.flatMap fun p => match p.2 with
    | .sp k offs => (dedup (offs.map (· / 128))).map fun l => (k, l)
    | _ => []

/-- The presence condition of an order over the lines (R233, R234). -/
def State.linesReady (s : State) (order : Nat) (ls : List (Nat × Nat)) : Bool :=
  if order == 5 then ls.all fun l => !(s.core l.1).present l.2 && !(s.core l.1).filling l.2
  else ls.all fun l => (s.core l.1).present l.2

/-- Clears or sets the bits of the lines after `.take` or `.give` (R234). -/
def State.flipLines (s : State) (order : Nat) (ls : List (Nat × Nat)) : State :=
  if order == 4 then ls.foldl (fun s l => s.modCore l.1 fun c => c.setLines false [l.2]) s
  else if order == 5 then ls.foldl (fun s l => s.modCore l.1 fun c => c.setLines true [l.2]) s
  else s

/-- An access: space, order, size in bytes, alignment, rights, lanes. -/
structure AccSpec where
  sp : Bool
  order : Nat
  n : Nat
  align : Nat
  acc : Acc
  /-- a read-modify-write: it reads what it writes (19 R383) -/
  rmw : Bool
  need : List FabNeed
  fabOk : Bool
  lanes : List LaneAcc

/-- The access reads its bytes, and meets their poison (19 R383). -/
def AccSpec.reads (a : AccSpec) : Bool := a.rmw || a.acc == .read

/-- The lowest poisoned byte of an access, by its address. -/
def State.poisonOf (s : State) (p : LaneAcc × Place) : Option Nat :=
  match p.2 with
  | .mem pas => ((spanNat 0 pas.length).find? fun k => s.poisoned (pas.getD k 0)).map (p.1.addr + ·)
  | .sp k offs => (s.spPoison k offs).map (p.1.addr + ·)
  | .fab _ => none

/-- Runs `k` on the places of an access that passes every check and whose lines are ready (R269, R233). -/
def withAccess (s : State) (a : AccSpec) (k : List (LaneAcc × Place) → Act) : Act :=
  match s.issueChecks a.sp a.need a.fabOk a.n a.align a.lanes with
  | some t => .trap t
  | none =>
    match resolveAll (fun x => if a.sp then s.spPlace s.co.origin x a.n else s.devPlace a.acc x a.n) a.lanes with
    | .error (.miss va) => .miss va
    | .error (.late c sub va) => .late ⟨c, sub, BitVec.ofNat 64 va⟩
    | .error (.wait w) => .park w s
    | .error (.ok _) => .park .line s
    | .ok ps =>
      match (if a.reads then ps.findSome? s.poisonOf else none) with
      | some va => .late ⟨0x0B, 0, BitVec.ofNat 64 va⟩
      | none => if s.linesReady a.order (spLines ps) then k ps else .park .line s

/-- A completed access, unless the core's miss-status entries ran out (10 R236). -/
def guardMse (s : State) (e : Effect) : Act :=
  if 128 < (e.post.core s.co.core).mse.length then .park (.resource .mse) s else .done e

/-! ### Reading and writing places -/

/-- The home takes back update-only copies of the bytes' lines, and other owners lose the words (R238, R253). -/
def State.claim (s : State) (core : Nat) (pas : List Nat) : State :=
  (dedup (pas.map (· / 4))).foldl (fun s wa => (s.takeBack (wa / 32)).recall (some core) wa) s

/-- A byte as its owner holds it: the core's own word, else the home. -/
def State.ownByte (s : State) (core pa : Nat) : Byte :=
  match (s.core core).l1Find (pa / 4) with
  | some w => if w.owned then w.val.extractLsb' (8 * (pa % 4)) 8 else s.homeByte pa
  | none => s.homeByte pa

/-- Poison of each 8-byte unit that a write covers whole is cleared (19 R383). -/
def State.heal (s : State) (pas : List Nat) : State :=
  { s with poison := s.poison.filter fun u => !((spanNat (8 * u) 8).all pas.contains) }

/-- Reads a place as a load does. -/
def State.loadPlace (s : State) : Place → List Byte × State
  | .mem pas => s.loadBytes s.co.core pas
  | .sp k offs => (s.spRead k offs, s)
  | .fab _ => ([], s)

/-- Bytes of a place just before a write of this strand. -/
def State.oldBytes (s : State) : Place → List Byte
  | .mem pas => pas.map (s.ownByte s.co.core)
  | .sp k offs => s.spRead k offs
  | .fab _ => []

/-- Notes a store of the strand that its home has to acknowledge (R257). -/
def State.noteUnack (s : State) (line : Nat) (remote : Bool) (tid : Option Word) : State :=
  { s.setSt fun st => { st with unacked := st.unacked ++ [⟨s.fresh, line, remote, tid⟩] } with fresh := s.fresh + 1 }

/-- Stores bytes at a place of memory or scratchpad: ownership is registered, the store awaits its acknowledgement. -/
def State.storePlace (s : State) (bs : List Byte) : Place → State
  | .mem pas =>
    let k := s.co.core
    let miss := pas.any fun pa => ((s.core k).l1Find (pa / 4)).all (!·.owned)
    let s := (s.claim k pas).storeBytes k (pas.zip bs)
    let s := s.heal pas
    let lines := dedup (pas.map (· / 128))
    let s := if miss then lines.foldl (fun s l => s.missLine k l false true false) s else s
    lines.foldl (fun s l => s.noteUnack l (homeDie (128 * l) != dieOf k) none) s
  | .sp k offs => s.spWrite k (offs.zip bs)
  | .fab _ => s

/-- One read-modify-write at a place (11 R258): old bytes and the state after. -/
def State.rmwPlace (s : State) (f : List Byte → List Byte) : Place → List Byte × State
  | .mem pas =>
    let s := s.claim s.co.core pas
    let s := (dedup (pas.map (· / 4))).foldl (fun s wa => s.writeBack s.co.core wa) s
    let (old, s) := s.rmwHome s.co.core pas f
    let s := if f old = old then s else s.heal pas
    (old, (dedup (pas.map (· / 128))).foldl (fun s l => s.noteUnack l (homeDie (128 * l) != dieOf s.co.core) none) s)
  | .sp k offs =>
    let old := s.spRead k offs
    (old, s.spWrite k (offs.zip (f old)))
  | .fab _ => ([], s)

/-! ### Other devices (R426-R430) -/

/-- The link that a message to a device takes (R426): the route hash over the links of its set that are up. -/
def State.linkFor (s : State) (device va : Nat) : Option Nat :=
  let set := (s.fabric.routes.filter (·.1 == device)).map (·.2)
  let up := set.filter fun k => match s.fabric.links[k]? with
    | some l => !l.down
    | none => false
  up[Config.routeHash device (va / 128 % 2 ^ 49) up.length % max up.length 1]?

/-- Device and target address of a fabric address (R427). -/
def State.fabTarget (s : State) (va : Nat) : Nat × DWord :=
  match s.fabric.windows[va / 2 ^ 40 % 256]? with
  | some w => ((w.word2.extractLsb' 0 16).toNat, w.rbase + BitVec.ofNat 64 (va % 2 ^ 40))
  | none => (0, 0)

/-- Sends a message of the focused strand to a fabric address: kind of R420, lane, size, bytes with their mask. -/
def State.sendFab (s : State) (kind lane va size : Nat) (data : List Byte) (mask : List Bool) (op : Option FabOp) :
    State :=
  let (dev, target) := s.fabTarget va
  let m : FabMsg := { tid := s.fabric.tid, device := dev, link := s.linkFor dev target.toNat, kind := kind,
                      va := BitVec.ofNat 64 va, target := target, data := data, mask := mask, op := op,
                      cohort := s.co.uid, strand := s.co.st.id, lane := lane, size := size, piece := none }
  { s with fabric := { s.fabric with out := s.fabric.out ++ [m], tid := s.fabric.tid + 1 } }

/-- A fabric write, accumulate or arrive message: it awaits its acknowledgement, or sets the fabric error when no link is
up (R429). -/
def State.fabWrite (s : State) (kind lane va : Nat) (data : List Byte) (mask : List Bool) (op : Option FabOp) : State :=
  let (dev, target) := s.fabTarget va
  match s.linkFor dev target.toNat with
  | none => s.setSt fun st => { st with fabErr := some (st.fabErr.getD (BitVec.ofNat 64 va)) }
  | some _ => (s.noteUnack (va / 128) true (some s.fabric.tid)).sendFab kind lane va data.length data mask op

/-- Writes bytes to fabric addresses: one Write message for each line, with a byte mask (R420, R426); a later byte of
the list wins. -/
def State.fabStore (s : State) (lane : Nat) (bs : List (Nat × Byte)) : State :=
  let r := bs.reverse
  (dedup (bs.map (·.1 / 128))).foldl (fun s l =>
    let at? (k : Nat) : Option Byte := (r.find? fun p => p.1 == 128 * l + k).map (·.2)
    s.fabWrite 2 lane (128 * l) ((List.range 128).map fun k => (at? k).getD 0)
      ((List.range 128).map fun k => (at? k).isSome) none) s

/-- The strand has an unacknowledged fabric write to a line (R426). -/
def State.fabBusy (s : State) (va : Nat) : Bool :=
  s.co.st.unacked.any fun u => u.tid.isSome && u.line == va / 128

/-- Runs `k` with the answers of the fabric lanes (R429): messages go out first and the strand waits for every response.
`late` tells a load, whose failure is a late fault. -/
def withFabric (s : State) (late : Bool) (size : Nat) (ps : List (LaneAcc × Place)) (kind : Nat)
    (msg : LaneAcc → List Byte × Option FabOp) (k : List (Nat × List Byte) → Act) : Act :=
  let fabs := ps.filter fun p => match p.2 with
    | .fab _ => true
    | _ => false
  let fail (va : DWord) : Act := if late then .late ⟨0x0B, 1, va⟩ else .trap (trapOf 0x0B 1 va)
  match fabs with
  | [] => k []
  | _ =>
    match s.co.st.park with
    | some (.fabric ms) =>
      if ms.any (·.answer.isNone) then .park (.fabric ms) s
      else match ms.find? fun m => match m.answer with | some (g, _) => !g | none => false with
        | some m => fail m.va
        | none => k (ms.map fun m => (m.lane, match m.answer with | some (_, d) => d | none => []))
    | _ =>
      match fabs.find? fun p => (s.linkFor (s.fabTarget p.1.addr).1 (s.fabTarget p.1.addr).2.toNat).isNone with
      | some p => fail (BitVec.ofNat 64 p.1.addr)
      | none =>
        let r := fabs.foldl (fun (acc : State × List FabWait) p =>
          let tid := acc.1.fabric.tid
          let (d, op) := msg p.1
          (acc.1.sendFab kind p.1.lane p.1.addr size d [] op, acc.2 ++ [⟨tid, p.1.lane, BitVec.ofNat 64 p.1.addr, none⟩])) (s, [])
        .park (.fabric r.2) r.1

/-- Some access lies in the fabric window. -/
def anyFabric (ps : List (LaneAcc × Place)) : Bool :=
  ps.any fun p => match p.2 with
    | .fab _ => true
    | _ => false

end Sys2Proof.Machine
end

