-- ==== Sys2Proof/Machine/LaneMem.lean ====
section
/-! DEFINITION. The lane memory instructions (12 R268-R284, 10 R238-R241). -/

namespace Sys2Proof.Machine

/-! ### Addresses and values -/

/-- The displacement of an LM access (03 R67). -/
def disp20 (o : LmForm) : DWord := o.disp.signExtend 64
/-- The displacement beside an AOP field (R268). -/
def disp16 (o : LmForm) : DWord := (o.disp.extractLsb' 0 16).signExtend 64

/-- The address of lane i (03 R70), given the lane values of a scratchpad base. -/
def lmAddress (s : State) (o : LmForm) (sp : Bool) (base : List Word) (disp : DWord) (i : Nat) : Nat :=
  let off : DWord := if o.xs = 3 then 0 else (s.co.vlane o.a.toNat i).setWidth 64 <<< o.xs.toNat
  if sp then (wordAt base i + off.low + disp.low).toNat
  else
    let b := o.b.toNat
    ((if b < 128 then pairOf (s.co.vlane (b + 1) i) (s.co.vlane b i) else s.readU2 (b - 128)) + off + disp).toNat

/-- The accesses of lanes. -/
def lmAccesses (s : State) (o : LmForm) (sp : Bool) (disp : DWord) (lanes : List Nat) : List LaneAcc :=
  let base := if sp then s.laneSrc o.b 0 else []
  lanes.map fun i => ⟨i, lmAddress s o sp base disp i⟩

/-- The access of sizes 0 to 4 by every active lane (R269). -/
def lmSpec (s : State) (o : LmForm) (sp : Bool) (disp : DWord) (acc : Acc) (rmw : Bool) (need : FabNeed) : AccSpec :=
  { sp := sp, order := o.orderN, n := 2 ^ o.sizeN, align := 2 ^ o.sizeN, acc := acc, rmw := rmw, need := [need],
    fabOk := true, lanes := lmAccesses s o sp disp (lanesOf s.co.st.mask) }

/-- Registers from the bytes of a load: a byte or halfword is extended (R273). -/
def loadWords (size : Nat) (sx : Bool) (bs : List Byte) : List Word :=
  if size < 2 then [if sx then BitVec.ofInt 32 (signedOf (8 * bs.length) (natOf bs)) else wordOf bs]
  else wordsOf 4 bs

/-- The words of k registers from d in a lane. -/
def laneWords' (c : Cohort) (d k i : Nat) : List Word := (spanNat d k).map fun r => c.vlane r i

/-- The bytes that a lane stores: the low n of its data registers (R273). -/
def laneBytes (c : Cohort) (d n i : Nat) : List Byte :=
  ((laneWords' c d ((n + 3) / 4) i).flatMap fun w => bytesOf 4 w.toNat).take n

/-- Lane register records of k registers from d over the active lanes (R270). -/
def regRecs (c : Cohort) (d k : Nat) : List RecBody := (spanNat d k).flatMap fun r => laneRecs c r c.st.mask

/-- Destinations of k registers from d, from the words of each lane. -/
def regDests (m : LaneSet) (d k : Nat) (rs : List (Nat × List Word)) : List Dest :=
  (List.range k).map fun j => .v (d + j) m (laneVals fun i =>
    match rs.find? (·.1 == i) with
    | some r => wordAt r.2 j
    | none => 0)

/-! ### Loads -/

/-- The bytes that a lane's response brought. -/
def answerOf (ans : List (Nat × List Byte)) (lane : Nat) : List Byte :=
  match ans.find? (·.1 == lane) with
  | some a => a.2
  | none => []

/-- Reads places in order; fabric bytes come from their responses. -/
def State.readPlaces (s : State) (ans : List (Nat × List Byte)) : List (LaneAcc × Place) → List (Nat × List Byte) × State
  | [] => ([], s)
  | (x, p) :: rest =>
    let (bs, s) := match p with
      | .fab _ => (answerOf ans x.lane, s)
      | p => s.loadPlace p
    let (r, s) := s.readPlaces ans rest
    ((x.lane, bs) :: r, s)

/-- What a load does beyond its access: scope, result class, registers written, whether it records, and the words of a
lane from the bytes read. -/
structure LoadSpec where
  scope : Nat
  cls : ResClass
  regs : Nat
  recs : Bool
  value : List (Nat × List Byte) → Nat → List Word

/-- A load of the active lanes into registers from d (R269-R275): checks, fabric responses, the orders in L1, the bytes,
the presence bits. An acquire load at `.sy` is logged (20 R410). -/
def loadAct (s : State) (d : Nat) (a : AccSpec) (l : LoadSpec) : Act :=
  withAccess s a fun ps =>
    withTicket s l.cls (withFabric s true a.n ps 1 (fun _ => ([], none)) fun ans =>
      let (rs, t) := (s.orderL1 a.order l.scope).readPlaces ans ps
      let t := t.flipLines a.order (spLines ps)
      let t := if isAcq a.order && l.scope == 5 then
          t.logHere .atomic (rs.map fun r => BitVec.ofNat 64 (natOf (r.2.take 8))) else t
      let m := s.co.st.mask
      guardMse s
        { post := t
          recs := if l.recs then regRecs s.co d l.regs else []
          wrote := a.order == 4
          outst := outstOf s l.cls (regDests m d l.regs ((lanesOf m).map fun i => (i, l.value rs i))) })

/-- The words of a lane that read its own bytes. -/
def ownValue (f : Nat → List Byte → List Word) (rs : List (Nat × List Byte)) (i : Nat) : List Word :=
  match rs.find? (·.1 == i) with
  | some r => f i r.2
  | none => []

/-- `LD` (R273). -/
def execLd (o : LmForm) (s : State) : Host.Outcome State Fault Refusal :=
  issueSeq (.ld o) (fun s =>
    loadAct s o.d.toNat (lmSpec s o false (disp20 o) .read false .read)
      { scope := o.scopeN, cls := .dm, regs := sizeRegs o.sizeN, recs := true,
        value := ownValue fun _ bs => loadWords o.sizeN o.sx bs }) s

/-- `LDS` (R273). -/
def execLds (o : LmForm) (s : State) : Host.Outcome State Fault Refusal :=
  issueSeq (.lds o) (fun s =>
    loadAct s o.d.toNat (lmSpec s o true (disp20 o) .read false .read)
      { scope := o.scopeN, cls := .sp, regs := sizeRegs o.sizeN, recs := true,
        value := ownValue fun _ bs => loadWords o.sizeN o.sx bs }) s

/-- A load-xor (R274). -/
def xorValue (s : State) (o : LmForm) (rs : List (Nat × List Byte)) (i : Nat) : List Word :=
  ownValue (fun i bs => ((laneWords' s.co o.d.toNat (sizeRegs o.sizeN) i).zip (wordsOf 4 bs)).map fun p => p.1 ^^^ p.2)
    rs i

/-- `LDX` (R274): a fabric address raises cause 0x0A (21 R428). -/
def execLdx (o : LmForm) (s : State) : Host.Outcome State Fault Refusal :=
  issueSeq (.ldx o) (fun s =>
    loadAct s o.d.toNat { lmSpec s o false (disp20 o) .read false .read with fabOk := false }
      { scope := o.scopeN, cls := .dm, regs := sizeRegs o.sizeN, recs := false, value := xorValue s o }) s

/-- `LDSX` (R274). -/
def execLdsx (o : LmForm) (s : State) : Host.Outcome State Fault Refusal :=
  issueSeq (.ldsx o) (fun s =>
    loadAct s o.d.toNat (lmSpec s o true (disp20 o) .read false .read)
      { scope := o.scopeN, cls := .sp, regs := sizeRegs o.sizeN, recs := false, value := xorValue s o }) s

/-- The lowest active lane of each 32-lane beat that has one (R275). -/
def beatLanes (m : LaneSet) : List Nat :=
  (List.range 3).filterMap fun b => (lanesOf m).find? fun i => i / 32 == b

/-- The access of a block form: one record for each beat, without alignment (R275, R276). -/
def blkSpec (s : State) (o : LmForm) (acc : Acc) (need : FabNeed) : AccSpec :=
  { sp := false, order := o.orderN, n := blockBytes (o.sizeN - 5), align := 1, acc := acc, rmw := false,
    need := [need], fabOk := true, lanes := lmAccesses s o false (disp20 o) (beatLanes s.co.st.mask) }

/-- `LDBLK` (R275). -/
def execLdblk (o : LmForm) (s : State) : Host.Outcome State Fault Refusal :=
  issueSeq (.ldblk o) (fun s =>
    loadAct s o.d.toNat (blkSpec s o .read .read)
      { scope := o.scopeN, cls := .dm, regs := 1, recs := true,
        value := fun rs i => match rs.find? (·.1 / 32 == i / 32) with
          | some r => [BitVec.ofNat 32 ((r.2.headD 0).toNat * 256 + blockCode (o.sizeN - 5) r.2 (i % 32))]
          | none => [] }) s

/-- Window address of the unit that lane i reads (R282). -/
def ldfAddress (ea : Nat) (col : Bool) (i : Nat) : Nat :=
  let a := ea - 0x400000
  let t := a / 32768 % 64
  let r := a / 512 % 64
  let c := a / 8 % 64
  let u := i % 64
  0x400000 + t * 32768
    + (if col then (r + u) % 64 * 512 + c * 8 else r * 512 + (c + u) % 64 * 8) + a % 8

/-- `LDF` (R282): the effective address is checked once, then each lane's unit as a scratchpad access. -/
def execLdf (o : LmForm) (s : State) : Host.Outcome State Fault Refusal :=
  issueSeq (.ldf o) (fun s =>
    let ea := (s.uniSrc o.b + (disp20 o).low).toNat
    let n := 2 ^ o.sizeN
    if ea < 0x400000 || 0x5FFFFF < ea then .trap (trapOf 0x08 0 (BitVec.ofNat 64 ea))
    else if ea % n != 0 then .trap (trapOf 0x07 0 (BitVec.ofNat 64 ea))
    else
      loadAct s o.d.toNat
        { sp := true, order := 0, n := n, align := 1, acc := .read, rmw := false, need := [.read], fabOk := true,
          lanes := (lanesOf s.co.st.mask).map fun i => ⟨i, ldfAddress ea o.sx i⟩ }
        { scope := 0, cls := .sp, regs := sizeRegs o.sizeN, recs := true, value := ownValue fun _ bs => wordsOf 4 bs }) s

/-! ### Stores -/

/-- The accesses that write: of two at one place, the higher lane's (R271). -/
def lastAtPlace : List (LaneAcc × Place) → List (LaneAcc × Place)
  | [] => []
  | p :: rest => if rest.any (·.2 == p.2) then lastAtPlace rest else p :: lastAtPlace rest

/-- Writes places in order: the state after, and the old bytes just before each write (R270). -/
def State.writePlaces (s : State) (bytes : LaneAcc → List Byte) :
    List (LaneAcc × Place) → List (LaneAcc × Place × List Byte) × State
  | [] => ([], s)
  | (x, p) :: rest =>
    let s := match p with
      | .mem pas => s.claim s.co.core pas
      | _ => s
    let old := s.oldBytes p
    let s := match p with
      | .fab _ => s
      | p => s.storePlace (bytes x) p
    let (r, s) := s.writePlaces bytes rest
    ((x, p, old) :: r, s)

/-- Memory records: the old bytes taken at each write, the new bytes as the whole instruction leaves them (R270). -/
def memRecs (t : State) (sp : Bool) (l : List (LaneAcc × Place × List Byte)) : List RecBody :=
  l.map fun w => .mem w.1.lane sp (BitVec.ofNat 64 w.1.addr) w.2.2 (t.oldBytes w.2.1)

/-- Bytes for the fabric lanes of a store, by address. -/
def fabBytes (bytes : LaneAcc → List Byte) (ps : List (LaneAcc × Place)) : List (Nat × Byte) :=
  ps.flatMap fun p => match p.2 with
    | .fab va => (spanNat va (bytes p.1).length).zip (bytes p.1)
    | _ => []

/-- Adds the store arrival of an `.arrive` store (R284): it waits for the strand's stores to be acknowledged. -/
def State.addArrival (s : State) (dsg : DWord) : State :=
  { s with arrivals := s.arrivals ++ [{ dsg := dsg, core := s.co.core, block := s.co.block, cohort := s.co.uid,
                                        strand := s.co.st.id, after := s.co.st.unacked.map (·.id) }] }

/-- Form and alignment of a barrier designator (R283): cause 0x08, then 0x07. -/
def dsgFault (dsg : DWord) (align : Nat) : Option Trap :=
  let bad := if dsg.getLsbD 63 then dsg.extractLsb' 24 39 != 0 || spReserved (dsg.toNat % 2 ^ 24)
    else dsg.extractLsb' 56 8 != 0
  if bad then some (trapOf 0x08 0 dsg)
  else if dsg.toNat % align != 0 then some (trapOf 0x07 0 dsg)
  else none

/-- A store by lanes (R269-R271, R273, R284, 21 R428-R431): `dsg` is the designator of an `.arrive` store. -/
def storeAct (s : State) (a : AccSpec) (scope : Nat) (bytes : LaneAcc → List Byte) (dsg : Option DWord) : Act :=
  match dsg.bind fun d => dsgFault d 16 with
  | some t => .trap t
  | none => withAccess s a fun ps => withRelease s (isRel a.order) scope (
      let ps := lastAtPlace ps
      let fb := fabBytes bytes ps
      if fb.any fun b => s.fabBusy b.1 then .park (.resource (.acks false)) s
      else
        let (ws, t) := (s.orderL1 a.order scope).writePlaces bytes ps
        let t := t.flipLines a.order (spLines ps)
        let recs := if anyFabric ps then [] else memRecs t a.sp ws
        let t := t.fabStore 0 fb
        let t := match dsg with
          | some d => t.addArrival d
          | none => t
        guardMse s { post := t, recs := if dsg.isSome then [] else recs, hard := dsg.isSome || anyFabric ps,
                     wrote := !ps.isEmpty })

/-- `ST` (R273, R284). -/
def execSt (o : LmForm) (s : State) : Host.Outcome State Fault Refusal :=
  issueSeq (.st o) (fun s =>
    storeAct s (lmSpec s o false (disp20 o) .write false .write) o.scopeN
      (fun x => laneBytes s.co o.d.toNat (2 ^ o.sizeN) x.lane)
      (if o.orderN = 6 then some (s.readU2 (o.b.toNat - 128 + 2)) else none)) s

/-- `STS` (R273). -/
def execSts (o : LmForm) (s : State) : Host.Outcome State Fault Refusal :=
  issueSeq (.sts o) (fun s =>
    storeAct s (lmSpec s o true (disp20 o) .write false .write) o.scopeN
      (fun x => laneBytes s.co o.d.toNat (2 ^ o.sizeN) x.lane) none) s

/-- The record that a beat writes (R276): the scale byte of its lowest active lane, the codes of its active lanes. -/
def beatRecord (s : State) (o : LmForm) (x : LaneAcc) : List Byte :=
  let d := s.co.vreg o.d.toNat
  let n := tBits (o.sizeN - 5)
  blockOf (o.sizeN - 5) ((wordAt d x.lane).extractLsb' 8 8) ((List.range 32).map fun j =>
    let i := x.lane / 32 * 32 + j
    if s.co.st.mask.getLsbD i then (wordAt d i).toNat % 2 ^ n else 0)

/-- The higher beat's record of two that overlap in part (R271). -/
def partialOverlap (n : Nat) : List LaneAcc → Option LaneAcc
  | [] => none
  | x :: rest =>
    match rest.find? fun y => x.addr != y.addr && x.addr < y.addr + n && y.addr < x.addr + n with
    | some y => some y
    | none => partialOverlap n rest

/-- `STBLK` (R276). -/
def execStblk (o : LmForm) (s : State) : Host.Outcome State Fault Refusal :=
  issueSeq (.stblk o) (fun s =>
    let a := blkSpec s o .write .write
    match partialOverlap a.n a.lanes with
    | some y => .trap (trapOf 0x07 0 (BitVec.ofNat 64 y.addr))
    | none => storeAct s a o.scopeN (beatRecord s o) none) s

/-! ### Exchanges and atomics -/

/-- Read-modify-writes of the lanes in order (R271): for each lane the old bytes, and the state after. -/
def State.rmwPlaces (s : State) (f : LaneAcc → List Byte → List Byte) (ans : List (Nat × List Byte)) :
    List (LaneAcc × Place) → List (LaneAcc × Place × List Byte) × State
  | [] => ([], s)
  | (x, p) :: rest =>
    let (old, s) := match p with
      | .fab _ => (answerOf ans x.lane, s)
      | p => s.rmwPlace (f x) p
    let (r, s) := s.rmwPlaces f ans rest
    ((x, p, old) :: r, s)

/-- An access in the fabric window must wait for an earlier write of the strand to its line (21 R426). -/
def fabLaneBusy (s : State) (ps : List (LaneAcc × Place)) : Bool :=
  ps.any fun p => match p.2 with
    | .fab va => s.fabBusy va
    | _ => false

/-- A read-modify-write by lanes (R270-R272, R277-R279, 11 R258, 21 R428-R429): `k` registers from d are written,
`classI` tells that nothing is recorded, `op` gives a lane's fabric operation. -/
def rmwAct (s : State) (a : AccSpec) (scope d k : Nat) (cls : ResClass) (classI : Bool)
    (f : LaneAcc → List Byte → List Byte) (keep : LaneAcc → List Byte → Bool) (op : LaneAcc → FabOp) : Act :=
  withAccess s a fun ps => withRelease s (isRel a.order) scope (withTicket s cls (
    let n := a.n
    if fabLaneBusy s ps then .park (.resource (.acks false)) s
    else withFabric s false n ps 3 (fun x => ([], some (op x))) fun ans =>
      let (ws, t) := (s.orderL1 a.order scope).rmwPlaces f ans ps
      let t := t.logHere .atomic (ws.map fun w => BitVec.ofNat 64 (natOf w.2.2))
      let fab := anyFabric ps
      let recs := if classI then [] else
        regRecs s.co d k ++ (if fab then [] else memRecs t a.sp (ws.filter fun w => !keep w.1 w.2.2))
      let m := s.co.st.mask
      guardMse s
        { post := t, recs := recs, hard := fab, wrote := !ps.isEmpty
          outst := outstOf s cls (regDests m d k (ws.map fun w => (w.1.lane, wordsOf 4 w.2.2))) }))

/-- The two or four data bytes that a lane brings, as a number. -/
def laneNum (c : Cohort) (d k i : Nat) : Nat := natOf ((laneWords' c d k i).flatMap fun w => bytesOf 4 w.toNat)

/-- The new value of an AOP on w bits (R278). -/
def aopValue (aop w old v : Nat) : Nat :=
  match aop with
  | 0 => (old + v) % 2 ^ w
  | 1 => old &&& v
  | 2 => old ||| v
  | 3 => old ^^^ v
  | 4 => if signedOf w v < signedOf w old then v else old
  | 5 => if signedOf w old < signedOf w v then v else old
  | 6 => min old v
  | 7 => max old v
  | 8 => (fp32.add 0 false old v).1
  | 9 => (fp32.minMax false false old v).1
  | 10 => (fp32.minMax true false old v).1
  | _ => if v ≤ old then 0 else old + 1

/-- An exchange by lanes (R277): class I with one live strand (R272). -/
def exchangeAct (s : State) (o : LmForm) (sp : Bool) : Act :=
  let k := sizeRegs o.sizeN
  let n := 2 ^ o.sizeN
  rmwAct s (lmSpec s o sp (disp20 o) .write true .write) o.scopeN o.d.toNat k (if sp then .sp else .dm)
    (!s.co.diverged) (fun x _ => laneBytes s.co o.d.toNat n x.lane) (fun _ _ => false)
    (fun x => .xchg (o.sizeN == 3) (BitVec.ofNat 64 (laneNum s.co o.d.toNat k x.lane)))

/-- `XCHG` (R277). -/
def execXchg (o : LmForm) (s : State) : Host.Outcome State Fault Refusal :=
  issueSeq (.xchg o) (fun s => exchangeAct s o false) s

/-- `XCHGS` (R277). -/
def execXchgs (o : LmForm) (s : State) : Host.Outcome State Fault Refusal :=
  issueSeq (.xchgs o) (fun s => exchangeAct s o true) s

/-- An atomic by lanes (R278, R279). -/
def atomicAct (s : State) (o : LmForm) (sp : Bool) : Act :=
  let k := sizeRegs o.sizeN
  let n := 2 ^ o.sizeN
  rmwAct s (lmSpec s o sp (disp16 o) .write true .write) o.scopeN o.d.toNat k (if sp then .sp else .dm) false
    (fun x old => bytesOf n (aopValue o.aop (8 * n) (natOf old) (laneNum s.co o.d.toNat k x.lane)))
    (fun _ _ => false)
    (fun x => .atom o.aop (o.sizeN == 3) (BitVec.ofNat 64 (laneNum s.co o.d.toNat k x.lane)))

/-- `ATOM` (R279). -/
def execAtom (o : LmForm) (s : State) : Host.Outcome State Fault Refusal :=
  issueSeq (.atom o) (fun s => atomicAct s o false) s

/-- `ATOMS` (R279). -/
def execAtoms (o : LmForm) (s : State) : Host.Outcome State Fault Refusal :=
  issueSeq (.atoms o) (fun s => atomicAct s o true) s

/-- `ACAS` (R279): a lane whose compare fails leaves memory and pushes no Memory record. -/
def execAcas (o : LmForm) (s : State) : Host.Outcome State Fault Refusal :=
  issueSeq (.acas o) (fun s =>
    let k := sizeRegs o.sizeN
    let n := 2 ^ o.sizeN
    let cmp (x : LaneAcc) : List Byte := laneBytes s.co o.d.toNat n x.lane
    let new (x : LaneAcc) : List Byte := laneBytes s.co (o.d.toNat + k) n x.lane
    rmwAct s (lmSpec s o false (disp20 o) .write true .write) o.scopeN o.d.toNat k .dm false
      (fun x old => if old == cmp x then new x else old) (fun x old => old != cmp x)
      (fun x => .cas (o.sizeN == 3) (BitVec.ofNat 64 (natOf (cmp x))) (BitVec.ofNat 64 (natOf (new x))))) s

/-! ### Accumulates (R280, 10 R238-R241) -/

/-- Combines an addend into the partial sums of a line that a core holds update-only (R238). -/
def State.accLocal (s : State) (core pa op : Nat) (x : DWord) : State :=
  let hit (p : PSum) : Bool := p.pa == pa && p.op == op
  let put (sums : List PSum) : List PSum :=
    if sums.any hit then modifyFirst hit (fun p => { p with val := accCombine op p.val x }) sums
    else sums ++ [⟨pa, op, x⟩]
  s.modCore core fun c => { c with upd := modifyFirst (·.line == pa / 128) (fun u => { u with sums := put u.sums }) c.upd }

/-- An eddy entry of a block for a word and operation. -/
def eddyHit (pa op : Nat) (e : Option EddyEnt) : Bool :=
  match e with
  | some e => e.addr == pa && e.op == op
  | none => false

/-- Sends an addend: it always carries a valid eddy entry of its word and operation (R241), and joins the core's request
for the line when one is under way (R236). -/
def State.accSend (s : State) (block cohort strand core pa op : Nat) (x : DWord) : State :=
  let entry : Option EddyEnt := match s.block? block with
    | some b => (b.eddy.find? (eddyHit pa op)).bind id
    | none => none
  let s := s.modBlock block fun b => { b with eddy := modifyFirst (eddyHit pa op) (fun _ => none) b.eddy }
  let add : AccAdd := match entry with
    | some e => ⟨block, cohort, strand, pa, op, accCombine op e.addend x, some (e.refs, e.born)⟩
    | none => ⟨block, cohort, strand, pa, op, x, none⟩
  let hit (r : AccReq) : Bool := r.core == core && r.line == pa / 128
  let s := if (s.slice (sliceOf pa)).requests.any hit then s else s.missLine core (pa / 128) false false true
  s.modSlice (sliceOf pa) fun sl =>
    { sl with requests := if sl.requests.any hit then modifyFirst hit (fun r => { r with adds := r.adds ++ [add] }) sl.requests
                          else sl.requests ++ [⟨core, pa / 128, [add]⟩] }

/-- One addend of the focused strand at a physical address: held in L1, or sent (R238). -/
def State.accOne (s : State) (pa op : Nat) (x : DWord) : State :=
  if (s.core s.co.core).upd.any (·.line == pa / 128) then s.accLocal s.co.core pa op x
  else s.accSend s.co.block s.co.uid s.co.st.id s.co.core pa op x

/-- Some addend of the strand awaits its slice's answer. -/
def State.accPending (s : State) (cohort strand : Nat) : Bool :=
  s.slices.any fun sl => sl.requests.any fun r => r.adds.any fun a => a.cohort == cohort && a.strand == strand

/-- The addends of the lanes, in order. -/
def State.accLanes (s : State) (op : Nat) (val : LaneAcc → DWord) (ps : List (LaneAcc × Place)) : State :=
  ps.foldl (fun s p => match p.2 with
    | .mem pas => s.accOne (pas.headD 0) op (val p.1)
    | .fab va => s.fabWrite 4 p.1.lane va [] [] (some (.atom op (op == 1) (val p.1)))
    | _ => s) s

/-- `ACC` (R280): class H for `.f32`, while diverged, and with a fabric lane; else class I. It completes when every addend
is granted, held or in the tile; the answers come at the slices. -/
def accAct (s : State) (a : AccSpec) (op : Nat) (val : LaneAcc → DWord) : Act :=
  match s.co.st.park with
  | some (.resource .eddy) =>
    if s.accPending s.co.uid s.co.st.id then .park (.resource .eddy) s
    else .done { post := s, hard := op == 2 || s.co.diverged || a.lanes.any fun x => isFabric x.addr }
  | _ => withAccess s a fun ps =>
      if fabLaneBusy s ps then .park (.resource (.acks false)) s
      else
        let hard := op == 2 || s.co.diverged || anyFabric ps
        let t := s.accLanes op val ps
        if 128 < (t.core s.co.core).mse.length then .park (.resource .mse) s
        else if t.accPending s.co.uid s.co.st.id then
          .park (.resource .eddy) (t.setCo fun c => if hard then c.commit else c.pass)
        else .done { post := t, hard := hard, wrote := !ps.isEmpty }

/-- `ACC` (R280). -/
def execAcc (o : LmForm) (s : State) : Host.Outcome State Fault Refusal :=
  issueSeq (.acc o) (fun s =>
    let k := sizeRegs o.sizeN
    accAct s (lmSpec s o false (disp16 o) .write false .write) o.aop
      (fun x => BitVec.ofNat 64 (laneNum s.co o.d.toNat k x.lane))) s

/-! ### Prefetch -/

/-- Prefetches one line: into L1, or the RDC only (R281). A line without a free miss-status entry is dropped. -/
def State.prefetch (s : State) (l2 : Bool) (line : Nat) : State :=
  if l2 then s.missRdc (dieOf s.co.core) line
  else if (s.core s.co.core).mse.length < 128 then s.missLine s.co.core line true false false
  else s

/-- `PFETCH` (R281): a lane that cannot be served is dropped. -/
def execPfetch (o : LmForm) (s : State) : Host.Outcome State Fault Refusal :=
  issueSeq (.pfetch o) (fun s =>
    .done { post := (lmAccesses s o false (disp20 o) (lanesOf s.co.st.mask)).foldl (fun t x =>
      if 2 ^ 56 ≤ x.addr || isFabric x.addr then t
      else match s.xlateWalk x.addr .read with
        | .ok pa => t.prefetch (o.d.getLsbD 0) (pa / 128)
        | _ => t) s }) s

end Sys2Proof.Machine
end

