-- ==== Sys2Proof/Machine/UniMem.lean ====
section
/-! DEFINITION. The uniform memory instructions (12 R285, R286): one access for the strand, LANE 127 in records. -/

namespace Sys2Proof.Machine

/-- The address of a uniform access (R285): a scratchpad value or a 64-bit pair, plus the displacement. -/
def uniAddress (s : State) (sp : Bool) (a : Nat) (disp : DWord) : Nat :=
  if sp then (s.readU a + disp.low).toNat else (s.readU2 a + disp).toNat

/-- The access of a strand. -/
def uniSpec (s : State) (sp : Bool) (order n : Nat) (acc : Acc) (rmw : Bool) (need : FabNeed) (a : Nat) (disp : DWord) :
    AccSpec :=
  { sp := sp, order := order, n := n, align := n, acc := acc, rmw := rmw, need := [need], fabOk := true,
    lanes := [⟨127, uniAddress s sp a disp⟩] }

/-- Value of a 32- or 64-bit uniform operand. -/
def uniNum (s : State) (wide : Bool) (c : Nat) : Nat := if wide then (s.readU2 c).toNat else (s.readU c).toNat

/-- Uniform writes of one or two registers from a code. -/
def uniDests (d : Nat) (ws : List Word) : List (Nat × Word) := (spanNat d ws.length).zip ws

/-- Ends a uniform access whose destinations wait for its latency (03 R65): the value rules of R90 are judged at issue
(log 30), the registers' records precede the Memory records (R270). -/
def uniLater (i : Instr) (s t : State) (cls : ResClass) (classI hard wrote : Bool) (ws : List (Nat × Word))
    (mem : List RecBody) : Act :=
  match ws.findSome? (fun p => s.writeCause p.1 p.2) with
  | some c => .trap (wordTrap c 0 i)
  | none => guardMse s { post := t, recs := s.recsU classI (ws.map (·.1)) ++ mem, hard := hard, wrote := wrote
                         outst := outstOf s cls (ws.map fun p => .u p.1 p.2) }

/-- Result class by space. -/
def spClass (sp : Bool) : ResClass := if sp then .sp else .dm

/-- The first element's words or bytes. -/
def headWords (size : Nat) (sx : Bool) (rs : List (Nat × List Byte)) : List Word :=
  match rs with
  | r :: _ => loadWords size sx r.2
  | [] => []

/-- `ULD` (R285, R286). -/
def execUld (o : UeForm) (s : State) : Host.Outcome State Fault Refusal :=
  issueSeq (.uld o) (fun s =>
    let a := uniSpec s o.sp o.orderN (2 ^ o.sizeN) .read false .read o.a.toNat ((o.ext.extractLsb' 0 20).signExtend 64)
    withAccess s a fun ps => withTicket s (spClass o.sp) (
      withFabric s true a.n ps 1 (fun _ => ([], none)) fun ans =>
        let (rs, t) := (s.orderL1 a.order o.scopeN).readPlaces ans ps
        let t := t.flipLines a.order (spLines ps)
        let t := if isAcq a.order && o.scopeN == 5 then
            t.logHere .atomic (rs.map fun r => BitVec.ofNat 64 (natOf r.2)) else t
        uniLater (.uld o) s t (spClass o.sp) false false (a.order == 4)
          (uniDests o.d.toNat (headWords o.sizeN o.sx rs)) [])) s

/-- `UST` (R285, R286). -/
def execUst (o : UeForm) (s : State) : Host.Outcome State Fault Refusal :=
  issueSeq (.ust o) (fun s =>
    let n := 2 ^ o.sizeN
    storeAct s (uniSpec s o.sp o.orderN n .write false .write o.a.toNat ((o.ext.extractLsb' 0 20).signExtend 64))
      o.scopeN (fun _ => bytesOf n (uniNum s (o.sizeN == 3) o.d.toNat))
      (if o.orderN = 6 then some (s.readU2 o.b.toNat) else none)) s

/-- A uniform read-modify-write into D (R286): `classI` for an exchange with one live strand. -/
def uniRmw (i : Instr) (s : State) (a : AccSpec) (scope d : Nat) (classI : Bool) (f : List Byte → List Byte)
    (keep : List Byte → Bool) (op : FabOp) : Act :=
  withAccess s a fun ps => withRelease s (isRel a.order) scope (withTicket s (spClass a.sp) (
    if fabLaneBusy s ps then .park (.resource (.acks false)) s
    else withFabric s false a.n ps 3 (fun _ => ([], some op)) fun ans =>
      let (ws, t) := (s.orderL1 a.order scope).rmwPlaces (fun _ => f) ans ps
      let t := t.logHere .atomic (ws.map fun w => BitVec.ofNat 64 (natOf w.2.2))
      let fab := anyFabric ps
      let mem := if classI || fab then [] else memRecs t a.sp (ws.filter fun w => !keep w.2.2)
      let old := match ws with
        | w :: _ => wordsOf 4 w.2.2
        | [] => []
      uniLater i s t (spClass a.sp) classI fab true (uniDests d old) mem))

/-- `UATOM` (R286, R278). -/
def execUatom (o : UeForm) (s : State) : Host.Outcome State Fault Refusal :=
  issueSeq (.uatom o) (fun s =>
    let n := 2 ^ o.sizeN
    let v := uniNum s (o.sizeN == 3) o.b.toNat
    uniRmw (.uatom o) s
      (uniSpec s o.sp o.orderN n .write true .write o.a.toNat ((o.ext.extractLsb' 0 16).signExtend 64))
      o.scopeN o.d.toNat false (fun old => bytesOf n (aopValue o.aop (8 * n) (natOf old) v)) (fun _ => false)
      (.atom o.aop (o.sizeN == 3) (BitVec.ofNat 64 v))) s

/-- `UXCHG` (R286). A mask destination is class D (R87). -/
def execUxchg (o : UxForm) (s : State) : Host.Outcome State Fault Refusal :=
  issueSeq (.uxchg o) (fun s =>
    let n := if o.w64 then 8 else 4
    let v := uniNum s o.w64 o.d.toNat
    uniRmw (.uxchg o) s
      (uniSpec s o.sp o.orderN n .write true .write o.a.toNat ((o.ext.extractLsb' 0 16).signExtend 64))
      o.scopeN o.d.toNat (!s.co.diverged && 3 ≤ o.d.toNat) (fun _ => bytesOf n v) (fun _ => false)
      (.xchg o.w64 (BitVec.ofNat 64 v))) s

/-- `UACAS` (R286). -/
def execUacas (o : UxForm) (s : State) : Host.Outcome State Fault Refusal :=
  issueSeq (.uacas o) (fun s =>
    let n := if o.w64 then 8 else 4
    let cmp := bytesOf n (uniNum s o.w64 o.d.toNat)
    let new := bytesOf n (uniNum s o.w64 o.b.toNat)
    uniRmw (.uacas o) s
      (uniSpec s o.sp o.orderN n .write true .write o.a.toNat ((o.ext.extractLsb' 0 16).signExtend 64))
      o.scopeN o.d.toNat false (fun old => if old == cmp then new else old) (fun old => old != cmp)
      (.cas o.w64 (BitVec.ofNat 64 (natOf cmp)) (BitVec.ofNat 64 (natOf new)))) s

end Sys2Proof.Machine
end

