-- ==== Sys2Proof/Machine/Queue.lean ====
section
/-! DEFINITION. Register-mapped queues (09 R219-R223, 15 R332). -/

namespace Sys2Proof.Machine

/-- Column and row of a cluster in the package mesh (R219, 07 R151). -/
def meshOf (cluster : Nat) : Nat × Nat :=
  let die := cluster / 12
  (4 * (die % 2) + cluster % 12 % 4, 3 * (die / 2) + cluster % 12 / 4)

/-- The cluster at a column and row. -/
def clusterAt (x y : Nat) : Nat := 12 * (x / 4 + 2 * (y / 3)) + x % 4 + 4 * (y % 3)

/-- The cluster and queue where a push to a link lands, or `none` toward the mesh edge (R219). -/
def linkEnd (cluster q : Nat) : Option (Nat × Nat) :=
  let (x, y) := meshOf cluster
  match q with
  | 4 => if y = 0 then none else some (clusterAt x (y - 1), 6)
  | 5 => if x = 7 then none else some (clusterAt (x + 1) y, 7)
  | 6 => if y = 5 then none else some (clusterAt x (y + 1), 4)
  | _ => if x = 0 then none else some (clusterAt (x - 1) y, 5)

/-- Blocks of the cohort's launch in a cluster. -/
def State.blocksIn (s : State) (cluster : Nat) : List Block :=
  s.blocks.filter fun b => b.phase < 3 && b.launch == s.co.launch && clusterOf b.core == cluster

/-- Entries of a receiving end, on their way included. -/
def State.endCount (s : State) (cluster q : Nat) : Nat :=
  ((s.ends ++ s.flying).filter fun e => e.cluster == cluster && e.queue == q).length

/-- Entries of queue n of the focused cohort, oldest first: of the block, or of its cluster's receiving end under the
launch's tag. -/
def State.queueEntries (s : State) (n : Nat) : List QEntry :=
  if n < 4 then match s.block? s.co.block with
    | some b => b.queues.getD n []
    | none => []
  else (s.ends.filter fun e => e.cluster == clusterOf s.co.core && e.queue == n && e.launch == s.co.launch).map (·.entry)

/-- Removes the oldest entry of queue n. -/
def State.queueDrop (s : State) (n : Nat) : State :=
  if n < 4 then s.modBlock s.co.block fun b => { b with queues := modifyAt (·.drop 1) b.queues n }
  else { s with ends := dropFirst (fun e => e.cluster == clusterOf s.co.core && e.queue == n && e.launch == s.co.launch) s.ends }

/-- Free entries that a push to queue n could append now (R223). -/
def State.queueFree (s : State) (n : Nat) : Nat :=
  if n < 4 then 4 - (s.queueEntries n).length
  else match linkEnd (clusterOf s.co.core) n with
    | some (c, q) => 2 - s.endCount c q
    | none => 0

/-- Appends an entry to queue n. -/
def State.queuePut (s : State) (n : Nat) (e : QEntry) : State :=
  if n < 4 then s.modBlock s.co.block fun b => { b with queues := modifyAt (· ++ [e]) b.queues n }
  else match linkEnd (clusterOf s.co.core) n with
    | some (c, q) => { s with flying := s.flying ++ [⟨c, q, s.co.launch, e⟩] }
    | none => s

/-- Scope of a queue's push and pop (R221). -/
def queueScope (n : Nat) : Nat := if n < 4 then 1 else 4

/-- Why a push to a link cannot be made: the edge, no resident block, or only pre-empted ones (R220). -/
def State.linkBar (s : State) (n : Nat) : Option (Trap ⊕ Wait) :=
  if n < 4 then none
  else match linkEnd (clusterOf s.co.core) n with
    | none => some (.inl (trapOf 0x15 2 (BitVec.ofNat 64 n)))
    | some (c, _) =>
      if (s.blocksIn c).any (·.phase < 2) then none
      else if (s.blocksIn c).isEmpty then some (.inl (trapOf 0x0C 0 (BitVec.ofNat 64 (n + c * 2 ^ 32))))
      else some (.inr (.queue n))

/-- `QPUSH` (R220). -/
def execQpush (o : LForm) (s : State) : Host.Outcome State Fault Refusal :=
  issueSeq (.qpush o) (fun s =>
    let n := o.a.toNat % 8
    let m := s.co.st.mask
    match s.linkBar n with
    | some (.inl t) => .trap t
    | some (.inr w) => .park w s
    | none =>
      if s.queueFree n = 0 then
        if o.a.getLsbD 3 then .trap (trapOf 0x15 0 (BitVec.ofNat 64 n)) else .park (.queue n) s
      else withRelease s true (queueScope n) (
        let b := s.laneSrc o.b o.lit
        let e : QEntry := { words := laneVals fun i => if m.getLsbD i then wordAt b i else 0, valid := m }
        .done { post := (s.releaseAt s.co.core (queueScope n)).queuePut n e, hard := true })) s

/-- Runs `k` on the oldest entry of a queue, or waits for one (R220). -/
def withEntry (s : State) (a : BitVec 7) (k : Nat → QEntry → Act) : Act :=
  let n := a.toNat % 8
  match s.queueEntries n with
  | [] => if a.getLsbD 3 then .trap (trapOf 0x14 0 (BitVec.ofNat 64 n)) else .park (.queue n) s
  | e :: _ => withTicket s .qr (k n e)

/-- `QPOP` (R220). -/
def execQpop (o : LForm) (s : State) : Host.Outcome State Fault Refusal :=
  issueSeq (.qpop o) (fun s => withEntry s o.a fun n e =>
    let m := s.co.st.mask
    let t := (s.queueDrop n).acquireAt s.co.core (queueScope n)
    let t := if e.valid &&& ~~~m != 0 then t.setCo fun c => { c with qdrop := c.qdrop ||| (1#8 <<< n) } else t
    .done { post := t, hard := true, outst := outstOf s .qr [.v o.d.toNat m e.words] }) s

/-- `QPEEK` (R220). -/
def execQpeek (o : LForm) (s : State) : Host.Outcome State Fault Refusal :=
  issueSeq (.qpeek o) (fun s => withEntry s o.a fun n e =>
    let m := s.co.st.mask
    .done { post := s.acquireAt s.co.core (queueScope n), recs := laneRecs s.co o.d.toNat m
            outst := outstOf s .qr [.v o.d.toNat m e.words] }) s

/-- What `QSTAT` reads (R223). -/
def State.qstat (s : State) (n : Nat) : Word :=
  let c := clusterOf s.co.core
  let count := if n < 4 then (s.queueEntries n).length
    else (s.ends.filter fun e => e.cluster == c && e.queue == n).length
  BitVec.ofNat 32 (count + s.queueFree n * 2 ^ 8
    + (if 4 ≤ n && (linkEnd (clusterOf s.co.core) n).isNone then 2 ^ 16 else 0)
    + (if s.co.qdrop.getLsbD n then 2 ^ 17 else 0))

/-- `QSTAT` (R223). -/
def execQstat (o : UxForm) (s : State) : Host.Outcome State Fault Refusal :=
  issueSeq (.qstat o) (fun s =>
    withTicket s .qr (uniLater (.qstat o) s s .qr false false false [(o.d.toNat, s.qstat (o.ext.toNat % 8))] [])) s

end Sys2Proof.Machine
end

