-- ==== Sys2Proof/Machine/Barrier.lean ====
section
/-! DEFINITION. Barrier objects, wait queues, fences, `RFLUSH` and `TWAIT` (12 R283-R296). -/

namespace Sys2Proof.Machine

/-! ### Objects named by designators (R283, R287) -/

/-- Place of an object for an agent, as something to compare: scratchpad or not, core, offset or physical address. -/
def State.objKey (s : State) (f : Origin) (dsg : DWord) : Option (Bool × Nat × Nat) :=
  if dsg.getLsbD 63 then
    if (s.block? f.block).any (·.phase < 2) then
      match s.spPlace f (dsg.toNat % 2 ^ 24) 1 with
      | .ok (.sp k offs) => some (true, k, offs.headD 0)
      | _ => none
    else none
  else match s.xlateWalk dsg.toNat .write with
    | .ok pa => some (false, 0, pa)
    | _ => none

/-- The key of a place. -/
def Place.key : Place → Option (Bool × Nat × Nat)
  | .mem pas => some (false, 0, pas.headD 0)
  | .sp k offs => some (true, k, offs.headD 0)
  | .fab _ => none

/-- Changes an object at its place, as one action there (R287): the bytes before and the state after. -/
def State.objUpdate (s : State) (core : Nat) (f : List Byte → List Byte) : Place → List Byte × State
  | .mem pas => s.rmwHome core pas f
  | .sp k offs =>
    let old := s.spRead k offs
    (old, s.spWrite k (offs.zip (f old)))
  | .fab _ => ([], s)

/-- The access to an object of n bytes by the focused strand: form and alignment, then the checks of an access; a fabric
designator raises cause 0x0A (21 R428). -/
def withObject (s : State) (dsg : DWord) (n : Nat) (acc : Acc) (k : Place → Act) : Act :=
  match dsgFault dsg n with
  | some t => .trap t
  | none =>
    let sp := dsg.getLsbD 63
    withAccess s
      { sp := sp, order := 0, n := n, align := 1, acc := acc, rmw := true, need := [], fabOk := false,
        lanes := [⟨127, if sp then dsg.toNat % 2 ^ 24 else dsg.toNat⟩] } fun ps =>
      match ps with
      | p :: _ => k p.2
      | [] => .park .line s

/-! ### Barrier objects (R288, R289) -/

/-- A barrier object's fields; `bad` tells that a reserved bit is set. -/
structure BarObj where
  cexp : Nat
  carr : Nat
  sexp : Nat
  sarr : Nat
  phase : Bool
  ovr : Bool
  bad : Bool
  deriving DecidableEq, Repr

/-- Reads the fields (R288). -/
def BarObj.ofBytes (bs : List Byte) : BarObj :=
  let ws := wordsOf 4 bs
  let w0 := wordAt ws 0
  let w1 := wordAt ws 1
  let w2 := wordAt ws 2
  { cexp := (w0.extractLsb' 16 16).toNat, carr := (w0.extractLsb' 0 16).toNat, sexp := (w1.extractLsb' 0 24).toNat,
    sarr := (w2.extractLsb' 0 24).toNat, phase := w2.getLsbD 31, ovr := w2.getLsbD 30,
    bad := w1.extractLsb' 24 8 != 0 || w2.extractLsb' 24 6 != 0 || wordAt ws 3 != 0 }

/-- The object's bytes (R288). -/
def BarObj.bytes (o : BarObj) : List Byte :=
  bytesOf 4 (o.cexp * 2 ^ 16 + o.carr) ++ bytesOf 4 o.sexp
    ++ bytesOf 4 ((if o.phase then 2 ^ 31 else 0) + (if o.ovr then 2 ^ 30 else 0) + o.sarr) ++ bytesOf 4 0

/-- `check_complete` (R289): the object after, and the status when the phase completed. -/
def BarObj.complete (o : BarObj) : BarObj × Option Word :=
  if o.carr = o.cexp && o.sarr = o.sexp then
    ({ o with phase := !o.phase, carr := 0, sarr := 0, ovr := false },
      some (boolWord (!o.phase) ||| (boolWord o.ovr <<< 1)))
  else (o, none)

/-- `cohort_arrival` (R289): SUB of cause 0x11, or the object after. -/
def BarObj.cohortArrive (o : BarObj) : Except Nat (BarObj × Option Word) :=
  if o.bad || (o.cexp = 0 && o.sexp = 0) then .error 1
  else if o.carr = o.cexp then .error 0
  else .ok ({ o with carr := o.carr + 1 }).complete

/-- `store_arrival` (R289). The OVR bit is set even where the object is malformed. -/
def BarObj.storeArrive (o : BarObj) : BarObj × Option Word :=
  if o.bad || (o.cexp = 0 && o.sexp = 0) || o.sarr = o.sexp then ({ o with ovr := true }, none)
  else ({ o with sarr := o.sarr + 1 }).complete

/-- Sets OVR in an object's bytes and nothing else. -/
def setOvr (bs : List Byte) : List Byte := modifyAt (fun b => b ||| 0x40) bs 11

/-- A completed phase releases every waiter on the object with its status (R289); a `BAR.w` whose token is the new PHASE
waits on (R291). -/
def State.releaseWaiters (s : State) (key : Option (Bool × Nat × Nat)) (status : Word) : State :=
  let phase := status.getLsbD 0
  s.mapParks fun c _ w => match w with
    | .barrier d p none => if key.isSome && s.objKey c.origin d == key then .barrier d p (some status) else w
    | .barW d tok =>
      if key.isSome && s.objKey c.origin d == key && phase != tok then .barrier d tok (some status) else w
    | w => w

/-- A store arrival at a place (R289). -/
def State.storeArrivalAt (s : State) (core : Nat) (p : Place) : State :=
  let o := BarObj.ofBytes (s.objUpdate core (fun b => b) p).1
  let (o', done) := o.storeArrive
  let t := (s.objUpdate core (fun b => if o.bad then setOvr b else o'.bytes) p).2
  match done with
  | some st => t.releaseWaiters p.key st
  | none => t

/-! ### BAR, BARA, BARI -/

/-- Completes a barrier wait: the status goes to d, the strand acquires (R290, R291). The status is logged (20 R410). -/
def barDone (s : State) (d scope : Nat) (status : Word) : Act :=
  .done { post := ((s.acquireAt s.co.core scope).writeU d status).logHere .atomic [status.setWidth 64], hard := true }

/-- One cohort arrival of the focused strand (R289): cause 0x11, or the state after it with the arrived phase and the
status of a completed phase. -/
def State.arriveAt (s : State) (scope : Nat) (p : Place) : Except Nat (State × Bool × Option Word) :=
  let o := BarObj.ofBytes (s.objUpdate s.co.core (fun b => b) p).1
  match o.cohortArrive with
  | .error sub => .error sub
  | .ok (o', done) =>
    let t := ((s.releaseAt s.co.core scope).objUpdate s.co.core (fun _ => o'.bytes) p).2
    .ok ((match done with
      | some st => t.releaseWaiters p.key st
      | none => t), o.phase, done)

/-- `BAR` (R291): the arrival stands while the strand is parked; it commits at its own count then, and again when it
completes (log 31). -/
def execBar (o : UeForm) (s : State) : Host.Outcome State Fault Refusal :=
  issueSeq (.bar o) (fun s =>
    match s.barScope o.scopeN o.level with
    | none => .trap (wordTrap 0x01 0 (.bar o))
    | some scope =>
      let d := o.d.toNat
      match s.co.st.park with
      | some (.barrier _ _ (some st)) => barDone s d scope st
      | some (.barrier g p none) => .park (.barrier g p none) s
      | some (.barW g p) => .park (.barW g p) s
      | _ =>
        let dsg := s.readU2 o.a.toNat
        let tok := s.readU o.b.toNat
        if o.barW && tok.extractLsb' 1 31 != 0 then .trap (wordTrap 0x01 0 (.bar o))
        else withObject s dsg 16 (if o.barW then .read else .write) fun p =>
          if o.barW then
            let (bs, t) := s.objUpdate s.co.core (fun b => b) p
            let ob := BarObj.ofBytes bs
            if ob.phase != tok.getLsbD 0 then barDone t d scope (boolWord ob.phase ||| (boolWord ob.ovr <<< 1))
            else .park (.barW dsg (tok.getLsbD 0)) t
          else withRelease s true scope (match s.arriveAt scope p with
            | .error sub => .trap (trapOf 0x11 sub dsg)
            | .ok (t, _, some st) => barDone t d scope st
            | .ok (t, ph, none) => .park (.barrier dsg ph none) (t.setCo Cohort.commit))) s

/-- `BARA` (R291): its token is the PHASE it arrived in. -/
def execBara (o : UeForm) (s : State) : Host.Outcome State Fault Refusal :=
  issueSeq (.bara o) (fun s =>
    match s.barScope o.scopeN o.level with
    | none => .trap (wordTrap 0x01 0 (.bara o))
    | some scope =>
      let dsg := s.readU2 o.a.toNat
      withObject s dsg 16 .write fun p => withRelease s true scope (match s.arriveAt scope p with
        | .error sub => .trap (trapOf 0x11 sub dsg)
        | .ok (t, ph, _) => .done { post := t.writeU o.d.toNat (boolWord ph), hard := true })) s

/-- `BARI` (R292). -/
def execBari (o : UxForm) (s : State) : Host.Outcome State Fault Refusal :=
  issueSeq (.bari o) (fun s =>
    let dsg := s.readU2 o.a.toNat
    let c := s.readU o.d.toNat
    let e := s.readU o.b.toNat
    if c.extractLsb' 16 16 != 0 || e.extractLsb' 24 8 != 0 then .trap (wordTrap 0x01 0 (.bari o))
    else withObject s dsg 16 .write fun p => withRelease s o.bit20 o.scopeN (
      let bs := ({ cexp := c.toNat, carr := 0, sexp := e.toNat, sarr := 0, phase := false, ovr := false,
                   bad := false } : BarObj).bytes
      let s' := if o.bit20 then s.releaseAt s.co.core o.scopeN else s
      let (old, t) := s'.objUpdate s.co.core (fun _ => bs) p
      let addr := if dsg.getLsbD 63 then dsg &&& 0xFFFFFF else dsg
      .done { post := t, recs := [.mem 127 (dsg.getLsbD 63) addr old bs], wrote := true })) s

/-! ### Wait queues (R293) -/

/-- TICKET and SERVED. -/
def waitqWords (bs : List Byte) : Word × Word := (wordAt (wordsOf 2 bs) 0, wordAt (wordsOf 2 bs) 1)

/-- The bytes of a wait queue. -/
def waitqBytes (t v : Word) : List Byte := bytesOf 4 t.toNat ++ bytesOf 4 v.toNat

/-- A waiter of this ticket has been released. -/
def waitqServed (served ticket : Word) : Bool :=
  let k := (served - ticket).toNat
  1 ≤ k && k ≤ 2 ^ 31

/-- `WAITQ` (R293): the ticket is taken once; the strand looks at SERVED when it issues again. -/
def execWaitq (o : UeForm) (s : State) : Host.Outcome State Fault Refusal :=
  issueSeq (.waitq o) (fun s =>
    let look (s : State) (dsg : DWord) (t : Word) : Act :=
      withObject s dsg 8 .write fun p =>
        let (bs, u) := s.objUpdate s.co.core (fun b => b) p
        if waitqServed (waitqWords bs).2 t then
          .done { post := (u.acquireAt s.co.core o.scopeN).writeU o.d.toNat t, hard := true }
        else .park (.waitq dsg t) (u.setCo Cohort.commit)
    match s.co.st.park with
    | some (.waitq g t) => look s g t
    | _ =>
      let dsg := s.readU2 o.a.toNat
      withObject s dsg 8 .write fun p =>
        let (bs, u) := s.objUpdate s.co.core
          (fun b => waitqBytes ((waitqWords b).1 + 1) (waitqWords b).2) p
        let t := (waitqWords bs).1
        match s.writeCause o.d.toNat t with
        | some c => .trap (wordTrap c 0 (.waitq o))
        | none => look u dsg t) s

/-- `WAKE` (R293). -/
def execWake (o : UeForm) (s : State) : Host.Outcome State Fault Refusal :=
  issueSeq (.wake o) (fun s =>
    let dsg := s.readU2 o.a.toNat
    let n := s.readU o.b.toNat
    withObject s dsg 8 .write fun p => withRelease s true o.scopeN (
      let (t, v) := waitqWords (s.objUpdate s.co.core (fun b => b) p).1
      let k := if (t - v) < n then t - v else n
      match s.writeCause o.d.toNat k with
      | some c => .trap (wordTrap c 0 (.wake o))
      | none =>
        let u := ((s.releaseAt s.co.core o.scopeN).objUpdate s.co.core (fun _ => waitqBytes t (v + k)) p).2
        .done { post := u.writeU o.d.toNat k, hard := true })) s

/-! ### FENCE, RFLUSH, TWAIT -/

/-- `FENCE` (R294, 11 R249, R257, R259). -/
def execFence (o : UForm) (s : State) : Host.Outcome State Fault Refusal :=
  issueSeq (.fence o) (fun s =>
    let scope := (o.b.extractLsb' 0 3).toNat
    let order := (o.b.extractLsb' 3 3).toNat
    withRelease s (isRel order) scope (.done { post := s.orderL1 order scope })) s

/-- Inserts an entry by age, oldest first. -/
def insertAge (e : EddyEnt) : List EddyEnt → List EddyEnt
  | [] => [e]
  | x :: rest => if e.born ≤ x.born then e :: x :: rest else x :: insertAge e rest

/-- Forces every entry of a block's eddy tile, oldest first (10 R242). -/
def Block.forceAll (b : Block) : Block :=
  { b with forced := b.forced ++ (b.eddy.filterMap id).foldr insertAge [], eddy := b.eddy.map fun _ => none }

/-- Deliveries that a block has still to make. -/
def State.forcedLeft (s : State) (block : Nat) : Nat :=
  match s.block? block with
  | some b => b.forced.length
  | none => 0

/-- `RFLUSH` (R295). -/
def execRflush (o : UxForm) (s : State) : Host.Outcome State Fault Refusal :=
  issueSeq (.rflush o) (fun s =>
    match s.co.st.park with
    | some (.resource (.flush n)) =>
      if n = 0 then .done { post := s, hard := true } else .park (.resource (.flush n)) s
    | _ =>
      let t := s.modBlock s.co.block Block.forceAll
      if t.forcedLeft s.co.block = 0 then .done { post := t, hard := true }
      else .park (.resource (.flush (t.forcedLeft s.co.block))) (t.setCo Cohort.commit)) s

/-- `TWAIT` (R296): class D, one Uniform register record; an acquire at `.pk`. -/
def execTwait (o : UxForm) (s : State) : Host.Outcome State Fault Refusal :=
  issueSeq (.twait o) (fun s =>
    let va := match s.co.st.park with
      | some (.task e) => e
      | _ => s.readU2 o.a.toNat
    withAccess s
      { sp := false, order := 1, n := 4, align := 4, acc := .read, rmw := true, need := [], fabOk := false,
        lanes := [⟨127, va.toNat⟩] } fun ps =>
      match ps with
      | (_, .mem pas) :: _ =>
        let (bs, t) := (s.acquireAt s.co.core 4).objUpdate s.co.core (fun b => b) (.mem pas)
        let st := (wordOf bs).extractLsb' 29 3
        if st = 1 then .park (.task va) s
        else match s.writeCause o.d.toNat (st.setWidth 32) with
          | some c => .trap (wordTrap c 0 (.twait o))
          | none => .done { post := t.writeU o.d.toNat (st.setWidth 32), recs := s.recsU false [o.d.toNat] }
      | _ => .park (.task va) s) s

end Sys2Proof.Machine
end

