-- ==== Sys2Proof/Machine/Agent.lean ====
section
/-! DEFINITION. Accesses by agents outside the cores (11 R247, 08 R183, 15 R320): controllers, engines, the host port;
and queues in device memory (08 R175-R178). -/

namespace Sys2Proof.Machine

/-- Loads bytes by virtual address for an agent that has no L1. -/
def State.agentLoad (s : State) (va n : Nat) : XRes (List Byte × State) :=
  match s.walkRun .read none (spanNat va n) with
  | .ok pas =>
    let t := s.bringHome pas
    .ok (pas.map t.homeByte, t)
  | .miss a => .miss a
  | .fault c a => .fault c a

/-- Stores bytes by virtual address for an agent that has no L1. -/
def State.agentStore (s : State) (va : Nat) (bs : List Byte) : XRes State :=
  match s.walkRun .write none (spanNat va bs.length) with
  | .ok pas => .ok ((s.homeStore (pas.zip bs)).heal pas)
  | .miss a => .miss a
  | .fault c a => .fault c a

/-- What such a load would return, or nothing. -/
def State.peek (s : State) (va n : Nat) : List Byte :=
  match s.agentLoad va n with
  | .ok (bs, _) => bs
  | _ => []

/-- Such a store, where the bytes can be written. -/
def State.put (s : State) (va : Nat) (bs : List Byte) : State :=
  match s.agentStore va bs with
  | .ok t => t
  | _ => s

/-- Two bytes runs of an address: 8 bytes of a 64-bit value. -/
def bytes8 (x : DWord) : List Byte := bytesOf 8 x.toNat

/-- The 64-bit value at byte k of a run. -/
def dwordAt (bs : List Byte) (k : Nat) : DWord := BitVec.ofNat 64 (natOf ((bs.drop k).take 8))

/-- The word at byte k of a run. -/
def word32At (bs : List Byte) (k : Nat) : Word := wordOf ((bs.drop k).take 4)

/-! ### Queues -/

/-- A queue descriptor (R175). -/
structure Desc where
  base : Nat
  kind : Nat
  log2n : Nat
  resv : DWord
  head : DWord
  good : Bool
  deriving DecidableEq, Repr

/-- Bytes of an entry (R175). -/
def entrySize (kind : Nat) : Nat := if kind = 0 then 256 else 64

/-- Reads a descriptor: reserved bits are 0, KIND and LOG2N valid, BASE aligned to the ring (R175, R178). -/
def Desc.ofBytes (bs : List Byte) : Desc :=
  let w2 := word32At bs 8
  let base := (dwordAt bs 0).toNat
  let kind := (w2.extractLsb' 28 4).toNat
  let l := (w2.extractLsb' 0 5).toNat
  { base := base, kind := kind, log2n := l, resv := dwordAt bs 16, head := dwordAt bs 24,
    good := base < 2 ^ 56 && w2.extractLsb' 5 23 == 0 && kind < 2 && 4 ≤ l && l ≤ 20 && word32At bs 12 == 0
      && (bs.drop 32).all (· == 0) && base % (2 ^ l * entrySize kind) == 0 }

/-- Address of queue q's descriptor. -/
def State.descVa (s : State) (q : Nat) : Nat := s.setup.qtbase.toNat + 64 * q

/-- Reports a dead queue once (R178). -/
def State.reportDead (s : State) (q : Nat) : State := if s.fw.contains (.dead q) then s else s.toFw (.dead q)

/-- The controller's view of a queue: `none` when it is dead. Its fixed words changed while in use leave it dead (R176). -/
def State.openQueue (s : State) (q : Nat) : XRes (Option Desc × State) :=
  if 4095 < q || s.dead.contains q then .ok (none, s)
  else match s.agentLoad (s.descVa q) 64 with
    | .miss a => .miss a
    | .fault c a => .fault c a
    | .ok (bs, s) =>
      let d := Desc.ofBytes bs
      let seen := match s.descs.find? (·.1 == q) with
        | some p => p.2 == bs.take 12
        | none => true
      if !seen && d.resv != d.head then .ok (none, { s with dead := q :: s.dead }.reportDead q)
      else if !d.good then .ok (none, s.reportDead q)
      else .ok (some d, { s with descs := (q, bs.take 12) :: s.descs.filter (·.1 != q) })

/-- Sets RESV. -/
def State.setResv (s : State) (q : Nat) (x : DWord) : State := s.put (s.descVa q + 16) (bytes8 x)
/-- Sets HEAD. -/
def State.setHead (s : State) (q : Nat) (x : DWord) : State := s.put (s.descVa q + 24) (bytes8 x)

/-- Address of the ring slot of a ticket (R177). -/
def Desc.slot (d : Desc) (t : Nat) : Nat := d.base + t % 2 ^ d.log2n * entrySize d.kind

/-- The ring has room for a ticket (R177). -/
def Desc.room (d : Desc) (t : Nat) : Bool := (BitVec.ofNat 64 t - d.head).toNat < 2 ^ d.log2n

/-- Writes an entry and publishes it (R177). -/
def State.postEntry (s : State) (d : Desc) (e : PostEntry) : XRes State :=
  s.agentStore (d.slot e.ticket) (e.bytes ++ bytesOf 4 ((e.ticket + 1) % 2 ^ 32))

/-- Posts entries in order as far as the ring has room: what is left, and the state after. -/
def State.postAll (s : State) (q : Nat) : List PostEntry → List PostEntry × State
  | [] => ([], s)
  | e :: rest =>
    match s.openQueue q with
    | .ok (some d, s) =>
      if d.room e.ticket then
        match s.postEntry d e with
        | .ok t => t.postAll q rest
        | _ => (e :: rest, s)
      else (e :: rest, s)
    | _ => (e :: rest, s)

/-- The published entry at HEAD (R177): an acquire read finds VALID = ticket + 1. -/
def State.published (s : State) (d : Desc) (t : DWord) : Option (List Byte) :=
  let bs := s.peek (d.slot t.toNat) (entrySize d.kind)
  if bs.length = entrySize d.kind && word32At bs (entrySize d.kind - 4) == t.low + 1 && t != d.resv then some bs else none

end Sys2Proof.Machine
end

