-- ==== Sys2Proof/Machine/Tasks.lean ====
section
/-! DEFINITION. Tasks: `SPAWN`, `TJOIN`, `TEND`, `TCLAIM`, `QPOST` (09 R211-R216), views and presses (08 R194-R202,
R452). -/

namespace Sys2Proof.Machine

/-! ### View-table entries and declarations -/

/-- Bytes of a view-table entry (R199). -/
def viewBytes (st ntile pidx : Nat) (left parent decl faddr : DWord) : List Byte :=
  bytesOf 4 (st * 2 ^ 29 + ntile * 2 ^ 26) ++ bytesOf 4 pidx ++ bytes8 left ++ bytes8 parent ++ bytes8 decl
    ++ bytes8 faddr ++ List.replicate 24 0

/-- A tile of a declaration (R198). -/
structure Tile where
  op : Nat
  bytes : Nat
  shared : DWord
  deriving DecidableEq, Repr

/-- The tiles of a declaration record (R198). -/
def declTiles (bs : List Byte) : List Tile :=
  (List.range 4).map fun t =>
    let w := word32At bs (8 + 4 * t)
    { op := (w.extractLsb' 28 4).toNat, bytes := (w.extractLsb' 0 15).toNat, shared := dwordAt bs (24 + 8 * t) }

/-- The declaration that governs an entry address: its address and number of tiles; 0 without one (R198). -/
def State.declFor (s : State) (r : LaunchRec) (entry : DWord) : DWord × Nat :=
  let hit := (List.range r.curdn).find? fun k => dwordAt (s.peek (r.curds.toNat + 64 * k) 64) 0 == entry
  match hit with
  | some k =>
    let bs := s.peek (r.curds.toNat + 64 * k) 64
    (r.curds + BitVec.ofNat 64 (64 * k), ((declTiles bs).filter (·.bytes != 0)).length)
  | none => (0, 0)

/-- Tiles of a declaration by address. -/
def State.tilesAt (s : State) (decl : DWord) : List Tile := if decl = 0 then [] else declTiles (s.peek decl.toNat 64)

/-- P of a tile: its size rounded up to 128 (R199). -/
def Tile.pitch (t : Tile) : Nat := (t.bytes + 127) / 128 * 128

/-- Offset O of tile t: the sum of P of the present tiles below it (R199). -/
def tileOffset (ts : List Tile) (t : Nat) : Nat := (ts.take t).foldl (fun n x => n + x.pitch) 0

/-- Bytes of a view block (R199). -/
def viewBlockSize (ts : List Tile) : Nat := 96 * tileOffset ts 4

/-- A task of a launch. -/
def Launch.task? (l : Launch) (e : DWord) : Option TaskView := l.tasks.find? (·.entry == e)

/-- STATE of a task; 0 where there is none. -/
def Launch.taskSt (l : Launch) (e : DWord) : Nat :=
  match l.task? e with
  | some t => t.st
  | none => 0

/-- Sets the STATE of a task in its entry (R199). -/
def State.setTaskSt (s : State) (launch : Nat) (e : DWord) (st : Nat) : State :=
  let t := s.modLaunch launch fun l =>
    { l with tasks := modifyFirst (·.entry == e) (fun t => { t with st := st }) l.tasks }
  let b := (s.peek e.toNat 4).getD 3 0
  t.put (e.toNat + 3) [(b &&& 0x1F) ||| BitVec.ofNat 8 (st * 32)]

/-! ### Presses (R200, R201, R452) -/

/-- A launch of the state; absent launches read as one without tasks. -/
def State.tasksOf (s : State) (launch : Nat) : List TaskView :=
  match s.launch? launch with
  | some l => l.tasks
  | none => []

/-- STATE of a task of a launch. -/
def State.taskSt (s : State) (launch : Nat) (e : DWord) : Nat :=
  match s.launch? launch with
  | some l => l.taskSt e
  | none => 0

/-- Adds the press of a final task whose target is ready (R200), for the strand and lane that made it due; child 0 presses
for the join of its group. -/
def State.addDue (s : State) (launch : Nat) (e : DWord) (cohort strand lane : Nat) : State :=
  match (s.tasksOf launch).find? (·.entry == e) with
  | none => s
  | some t =>
    if t.st = 3 && (t.left = 0 || s.taskSt launch t.left = 2)
        && !(match s.launch? launch with | some l => l.presses.any (·.entry == e) | none => true) then
      s.modLaunch launch fun l =>
        let p : Press := match if t.left = 0 then l.closed.find? (·.first == e) else none with
          | some j => { entry := e, cohort := j.cohort, strand := j.strand, lane := j.lane, pidx := 0, stopped := none }
          | none => { entry := e, cohort := cohort, strand := strand, lane := lane, pidx := 0, stopped := none }
        { l with presses := l.presses ++ [p] }
    else s

/-- A task that has ended becomes final when it is the last child of a closed group; presses fall due (R200). -/
def State.settleTask (s : State) (launch : Nat) (e : DWord) (cohort strand lane : Nat) : State :=
  let closed := match s.launch? launch with
    | some l => l.closed.any (·.last == e)
    | none => false
  let s := if s.taskSt launch e = 2 && closed then s.setTaskSt launch e 3 else s
  let s := s.addDue launch e cohort strand lane
  match (s.tasksOf launch).find? (fun t => t.left == e && e != 0) with
  | some right => s.addDue launch right.entry cohort strand lane
  | none => s

/-- Combines two elements (R198): op(left, right). -/
def pressOp (op l r : Nat) : Nat :=
  match op with
  | 0 => (l + r) % 2 ^ 32
  | 1 => (fp32.add 0 false l r).1
  | 2 => if signedOf 32 r < signedOf 32 l then r else l
  | 3 => if signedOf 32 l < signedOf 32 r then r else l
  | 4 => (fp32.minMax false false l r).1
  | 5 => (fp32.minMax true false l r).1
  | 6 => l &&& r
  | 7 => l ||| r
  | 8 => l ^^^ r
  | _ => if r / 2 ^ 32 != 0 then r else l

/-- Bytes of an element (R198). -/
def tileElem (op : Nat) : Nat := if op = 9 then 8 else 4

/-- Identity of an operator (R198). -/
def tileIdentity (op : Nat) : Nat :=
  match op with
  | 1 => 0x80000000
  | 2 => 0x7FFFFFFF
  | 3 => 0x80000000
  | 4 => 0x7F800000
  | 5 => 0xFF800000
  | 6 => 0xFFFFFFFF
  | _ => 0

/-- Address of tile t of a task's view. -/
def TaskView.tileVa (v : TaskView) (ts : List Tile) (t : Nat) : Nat :=
  v.base + 96 * tileOffset ts t + v.lane * (match ts[t]? with | some x => x.pitch | none => 0)

/-- Bytes of one element that hold an operator's identity: the flag word of `last` is 0 (R198). -/
def identityBytes (op : Nat) : List Byte := bytesOf (tileElem op) (tileIdentity op)

/-- Sets every element of a task's views to its identity (R199, R202). -/
def State.blankView (s : State) (v : TaskView) : State :=
  let ts := s.tilesAt v.decl
  (List.range 4).foldl (fun s t => match ts[t]? with
    | some x => s.put (v.tileVa ts t) ((List.range (x.bytes / tileElem x.op)).flatMap fun _ => identityBytes x.op)
    | none => s) s

/-- One element of a press: its address in the pressing task's view, its target, its operator and size. -/
structure PressElem where
  src : Nat
  dst : Option Nat
  op : Nat

/-- The elements of a press, upward over present tiles (R200); the target of each by R452. -/
def pressElems (xs : List Tile) (x : TaskView) (ys : List Tile) (dst : Nat → Nat) : List PressElem :=
  (List.range 4).flatMap fun t => match xs[t]? with
    | none => []
    | some tile =>
      let es := tileElem tile.op
      (List.range (tile.bytes / es)).map fun e =>
        { src := x.tileVa xs t + e * es
          dst := match ys[t]? with
            | some y => if y.op = tile.op && (e + 1) * es ≤ y.bytes then some (dst t + e * es) else none
            | none => none
          op := tile.op }

/-- Outcome of running a press: done, or stopped before an element for a page or for good. -/
inductive PressRes where
  | done (s : State)
  | miss (s : State) (k : Nat)
  | stop (s : State) (k code : Nat) (va : Nat)

/-- Runs a press over its elements, from index k. -/
def State.pressFrom (s : State) (k : Nat) : List PressElem → PressRes
  | [] => .done s
  | e :: rest =>
    match e.dst with
    | none => s.pressFrom (k + 1) rest
    | some d =>
      let n := tileElem e.op
      match s.agentLoad d n with
      | .miss _ => .miss s k
      | .fault c a => .stop s k c a
      | .ok (l, s) => match s.agentLoad e.src n with
        | .miss _ => .miss s k
        | .fault c a => .stop s k c a
        | .ok (r, s) => match s.agentStore d (bytesOf n (pressOp e.op (natOf l) (natOf r))) with
          | .miss _ => .miss s k
          | .fault c a => .stop s k c a
          | .ok s => s.pressFrom (k + 1) rest

/-- The elements that a task's press combines. -/
def State.pressPlan (s : State) (launch : Nat) (x : TaskView) : List PressElem :=
  let xs := s.tilesAt x.decl
  let into (e : DWord) : List PressElem :=
    match (s.tasksOf launch).find? (·.entry == e) with
    | some y =>
      let ys := s.tilesAt y.decl
      pressElems xs x ys (y.tileVa ys)
    | none => pressElems xs x [] (fun _ => 0)
  if x.left != 0 then into x.left
  else if x.parent != 0 then into x.parent
  else pressElems xs x xs (fun t => match xs[t]? with | some y => y.shared.toNat | none => 0)

/-- Changes the press of a task. -/
def State.modPress (s : State) (launch : Nat) (e : DWord) (f : Press → Press) : State :=
  s.modLaunch launch fun l => { l with presses := modifyFirst (·.entry == e) f l.presses }

/-- Performs a due press (R200, R201): the task becomes pressed, its left sibling final, and presses that fall due follow
for the same owner, or for the join. -/
def State.runPress (s : State) (launch : Nat) (p : Press) : State :=
  match (s.tasksOf launch).find? (·.entry == p.entry) with
  | none => s
  | some x =>
    let s := s.setTaskSt launch p.entry 4
    match s.pressFrom p.pidx ((s.pressPlan launch x).drop p.pidx) with
    | .miss t k => t.modPress launch p.entry fun q => { q with pidx := k }
    | .stop t k code va =>
      let t := t.modPress launch p.entry fun q => { q with pidx := k, stopped := some code }
      (t.put (p.entry.toNat + 4) (bytesOf 4 k)).put (p.entry.toNat + 32) (bytes8 (BitVec.ofNat 64 va))
    | .done t =>
      let t := t.setTaskSt launch p.entry 5
      let t := t.modLaunch launch fun l => { l with presses := dropFirst (·.entry == p.entry) l.presses }
      if x.left = 0 then t
      else (t.setTaskSt launch x.left 3).addDue launch x.left p.cohort p.strand p.lane

/-! ### Joining and ending -/

/-- Spawn state of a lane. -/
def Cohort.spawnLane (c : Cohort) (i : Nat) : SpawnLane := c.spawn.getD i ⟨0, 0, 0⟩

/-- Child 0 of the group whose last child is e: the end of the LEFT chain. -/
def firstChild (ts : List TaskView) : Nat → DWord → DWord
  | 0, e => e
  | n + 1, e =>
    match ts.find? (·.entry == e) with
    | some t => if t.left = 0 then e else firstChild ts n t.left
    | none => e

/-- One look at the join of a lane (R213): closes its group, or finds child 0's press done and clears the spawn state. -/
def State.joinLane (s : State) (strand i : Nat) : State :=
  let l := s.co.spawnLane i
  if l.openN = 0 then s
  else
    let ts := s.tasksOf s.co.launch
    let first := firstChild ts ts.length l.last
    if l.last = 0 || s.taskSt s.co.launch first = 5 then
      s.setCo fun c => { c with spawn := c.spawn.set i ⟨l.own, 0, 0⟩ }
    else
      let s := s.modLaunch s.co.launch fun q =>
        if q.closed.any (·.last == l.last) then q else { q with closed := ⟨l.last, first, s.co.uid, strand, i⟩ :: q.closed }
      s.settleTask s.co.launch l.last s.co.uid strand i

/-- One look at the joins of a set of lanes. -/
def State.joinLanes (s : State) (strand : Nat) (m : LaneSet) : State := (lanesOf m).foldl (fun s i => s.joinLane strand i) s

/-- Every lane of a set has joined. -/
def Cohort.joined (c : Cohort) (m : LaneSet) : Bool := (lanesOf m).all fun i => (c.spawnLane i).openN = 0

/-- Presses that an owner made due and that are not done. -/
def State.ownPresses (s : State) (strand : Nat) : List Press :=
  match s.launch? s.co.launch with
  | some l => l.presses.filter fun p => p.cohort == s.co.uid && p.strand == strand
  | none => []

/-- The stopped press of the lowest lane (R201). -/
def lowestStopped (ps : List Press) : Option Press :=
  ps.foldl (fun m p => if p.stopped.isNone then m else match m with
    | none => some p
    | some q => if p.lane < q.lane then some p else some q) none

/-- The trap of a stopped press (R201). -/
def pressTrap (p : Press) : Trap :=
  { code := 0x16, sub := p.stopped.getD 9 - 8, info := BitVec.ofNat 64 p.pidx, late := false, walk := false, press := true }

/-- Lets an owner's stopped presses resume (R201). -/
def State.resumePresses (s : State) (strand : Nat) : State :=
  s.modLaunch s.co.launch fun l =>
    { l with presses := modifyAll (fun p => p.cohort == s.co.uid && p.strand == strand)
               (fun p => { p with stopped := none }) l.presses }

/-- The beginning of a `TJOIN` or `TEND`: the release (R200), the commit at its own count (R201), stopped presses resume;
a strand that waits already goes on, or takes the trap of a stopped press. -/
def withJoin (s : State) (k : State → Act) : Act :=
  if s.co.st.park == some .join then
    match lowestStopped (s.ownPresses s.co.st.id) with
    | some p => .whole (s.raise (pressTrap p))
    | none => k s
  else withRelease s true 4
    (k (((s.releaseAt s.co.core 4).setCo Cohort.commit).resumePresses s.co.st.id))

/-- `TJOIN` (R213). -/
def execTjoin (o : UForm) (s : State) : Host.Outcome State Fault Refusal :=
  issueSeq (.tjoin o) (fun s => withJoin s fun t =>
    let m := t.co.st.mask
    let t := t.joinLanes t.co.st.id m
    if t.co.joined m && (t.ownPresses t.co.st.id).isEmpty then .done { post := t.acquireAt t.co.core 4 }
    else .park .join t) s

/-- Ends the tasks of lanes: STATE 2, and what falls due (R214). -/
def State.endTasks (s : State) (strand : Nat) (m : LaneSet) : State :=
  (lanesOf m).foldl (fun s i =>
    let e := (s.co.spawnLane i).own
    if s.taskSt s.co.launch e = 1 then
      (s.setTaskSt s.co.launch e 2).settleTask s.co.launch e s.co.uid strand i
    else s) s

/-- `TEND` (R214). -/
def execTend (o : UForm) (s : State) : Host.Outcome State Fault Refusal :=
  issue (.tend o) (fun s => if s.co.st.mask != 0 && exitEmpties s then .own else .seq) (fun s =>
    withJoin s fun t =>
      let m := t.co.st.mask
      let id := t.co.st.id
      let t := t.joinLanes id m
      if !t.co.joined m then .park .join t
      else
        let t := t.endTasks id m
        if !(t.ownPresses id).isEmpty then .park .join t
        else
          let t := t.setSt fun st => { st with park := none }
          if m = 0 then .done { post := t }
          else if exitEmpties t then .whole (t.exitLanes [] false)
          else .done { post := (t.setCo fun c => { c with exm := c.exm ||| m }).setSt fun st =>
                         { st with held := st.held &&& ~~~m, mask := 0 } }) s

/-! ### SPAWN, TCLAIM, QPOST -/

/-- Goes on posting (R212, R216): the remaining entries, or the completion. -/
def postOn (s : State) (q : Nat) (es : List PostEntry) (fin : State → Act) : Act :=
  match s.postAll q es with
  | ([], t) => fin t
  | (rest, t) => .park (.post q rest) t

/-- Room for n view-table entries in the task arena. -/
def State.arenaRoom (s : State) (n : Nat) : Bool :=
  match s.host.regions with
  | some r => s.setup.arenaNext + n ≤ (r.arena + r.arenaSize).toNat
  | none => false

/-- One child of a `SPAWN`: its entry, its registration and the lane's new spawn state (R212). -/
def State.spawnOne (s : State) (l : Launch) (child : DWord) (a i ticket : Nat) : PostEntry × State :=
  let sp := s.co.spawnLane i
  let c := BitVec.ofNat 64 s.setup.arenaNext
  let (decl, n) := s.declFor l.record child
  let bytes := bytes8 child ++ (spanNat a 8).flatMap (fun r => bytesOf 4 (s.co.vlane r i).toNat) ++ bytes8 sp.own
    ++ bytesOf 4 sp.openN ++ bytes8 sp.last
  let s := s.put c.toNat (viewBytes 1 n 0 sp.last sp.own decl 0)
  let s := { s with setup := { s.setup with arenaNext := s.setup.arenaNext + 64 } }
  let s := s.modLaunch l.uid fun l =>
    { l with tasks := l.tasks ++ [{ entry := c, left := sp.last, parent := sp.own, decl := decl, st := 1,
                                    withdrawn := false, base := 0, lane := 0 }]
             queued := l.queued ++ [(ticket, c)] }
  (⟨ticket, bytes⟩, s.setCo fun co => { co with spawn := co.spawn.set i ⟨sp.own, sp.openN + 1, c⟩ })

/-- The children of a `SPAWN`, in ascending lane order. -/
def State.spawnAll (s : State) (l : Launch) (child : DWord) (a : Nat) : Nat → List Nat → List PostEntry × State
  | _, [] => ([], s)
  | t, i :: rest =>
    let (e, s) := s.spawnOne l child a i t
    let (es, s) := s.spawnAll l child a (t + 1) rest
    (e :: es, s)

/-- The ring slots of tickets and the new view-table entries can be written: the first byte that cannot. -/
def State.postCheck (s : State) (d : Desc) (t0 n : Nat) (arena : Bool) : XRes Unit :=
  let va := (spanNat t0 (min n (2 ^ d.log2n))).flatMap fun t => spanNat (d.slot t) (entrySize d.kind)
  let vb := if arena then spanNat s.setup.arenaNext (64 * n) else []
  match s.walkRun .write none (va ++ vb) with
  | .ok _ => .ok ()
  | .miss a => .miss a
  | .fault c a => .fault c a

/-- An outcome of an access as the outcome of an instruction. -/
def XRes.act {α : Type} (r : XRes α) (k : α → Act) : Act :=
  match r with
  | .ok a => k a
  | .miss va => .miss va
  | .fault c va => .trap (trapOf c 0 (BitVec.ofNat 64 va))

/-- `SPAWN` (R212). -/
def execSpawn (o : UeForm) (s : State) : Host.Outcome State Fault Refusal :=
  issueSeq (.spawn o) (fun s =>
    match s.co.st.park with
    | some (.post q es) => postOn s q es fun t => .done { post := t }
    | _ => match s.launch? s.co.launch with
      | none => .trap (wordTrap 0x01 0 (.spawn o))
      | some l =>
        let child := s.branchTarget ((o.ext.extractLsb' 0 24).signExtend 64)
        let n := laneCount s.co.st.mask
        if child.extractLsb' 32 32 != s.pcAddr.extractLsb' 32 32 then .trap (trapOf 0x08 0 child)
        else if n = 0 then .done { post := s, hard := true }
        else (s.openQueue l.record.taskq).act fun (d, s') => match d with
          | none => .trap (trapOf 0x15 1 (BitVec.ofNat 64 l.record.taskq))
          | some d => (s'.postCheck d d.resv.toNat n true).act fun _ =>
            if !s'.arenaRoom (64 * n) then .park (.resource .arena) s
            else withRelease s true 5 (
              let s' := (s'.releaseAt s'.co.core 5).setResv l.record.taskq (d.resv + BitVec.ofNat 64 n)
              let (es, t) := s'.spawnAll l child (o.a.toNat % 128) d.resv.toNat (lanesOf s'.co.st.mask)
              postOn (t.setCo Cohort.commit) l.record.taskq es fun t => .done { post := t })) s

/-- The claim of one lane (R215): withdrawn while its entry is not taken. -/
def State.claimLane (s : State) (i : Nat) : Bool × State :=
  let sp := s.co.spawnLane i
  let waits := match s.launch? s.co.launch with
    | some l => l.queued.any (·.2 == sp.last) && !l.tasks.any (fun t => t.entry == sp.last && t.withdrawn)
    | none => false
  if sp.last = 0 || !waits then (false, s)
  else
    let left := match (s.tasksOf s.co.launch).find? (·.entry == sp.last) with
      | some t => t.left
      | none => 0
    let s := s.modLaunch s.co.launch fun l =>
      { l with tasks := modifyFirst (·.entry == sp.last) (fun t => { t with withdrawn := true }) l.tasks }
    let s := s.setTaskSt s.co.launch sp.last 0
    (true, s.setCo fun c => { c with spawn := c.spawn.set i ⟨sp.own, sp.openN - 1, left⟩ })

/-- `TCLAIM` (R215). -/
def execTclaim (o : UForm) (s : State) : Host.Outcome State Fault Refusal :=
  issueSeq (.tclaim o) (fun s =>
    let r := (lanesOf s.co.st.mask).foldl (fun (acc : List (Nat × Word) × State) i =>
      let (b, t) := acc.2.claimLane i
      (acc.1 ++ [(i, boolWord b)], t)) ([], s)
    let vals := writeLanes (s.co.vreg (o.d.toNat % 128)) r.1
    .done { post := r.2.writeV (o.d.toNat % 128) s.co.st.mask vals, hard := true }) s

/-- `QPOST` (R216): the ticket goes to d at publication. -/
def execQpost (o : UeForm) (s : State) : Host.Outcome State Fault Refusal :=
  issueSeq (.qpost o) (fun s =>
    let fin (ticket : Nat) (t : State) : Act := .done { post := t.writeU o.d.toNat (BitVec.ofNat 32 ticket) }
    match s.co.st.park with
    | some (.post q es) => postOn s q es (fin ((es.head?.map (·.ticket)).getD 0))
    | _ =>
      let q := (s.readU o.a.toNat).toNat
      (if 4095 < q then .ok (none, s) else s.openQueue q).act fun (d, s') => match d with
      | none => .trap (trapOf 0x15 1 (BitVec.ofNat 64 q))
      | some d =>
        let n := entrySize d.kind - 4
        let va := s.readU2 o.b.toNat
        let acc : AccSpec := { sp := false, order := 0, n := n, align := 1, acc := .read, rmw := false, need := [],
                               fabOk := false, lanes := [⟨127, va.toNat⟩] }
        withAccess s' acc fun ps =>
          let (rs, t) := s'.readPlaces [] ps
          let image := match rs with
            | r :: _ => r.2
            | [] => []
          let label := s.branchTarget ((o.ext.extractLsb' 0 24).signExtend 64)
          let bytes := if o.ext.getLsbD 31 then bytes8 label ++ image.drop 8 else image
          match s.writeCause o.d.toNat d.resv.low with
          | some c => .trap (wordTrap c 0 (.qpost o))
          | none => (s'.postCheck d d.resv.toNat 1 false).act fun _ => withRelease s true 5 (
            let t := ((t.releaseAt t.co.core 5).setResv q (d.resv + 1)).setCo Cohort.commit
            postOn t q [⟨d.resv.toNat, bytes⟩] (fin d.resv.toNat))) s

end Sys2Proof.Machine
end

