-- ==== Sys2Proof/Machine/Copy.lean ====
section
/-! DEFINITION. Leave (08 R192, R193, 16 R357, R358), the layout record and the copy engine (15 R311-R321, 16 R339-R347).
-/

namespace Sys2Proof.Machine

/-! ### Leave -/

/-- Watts of a class (R192, R357). -/
def leaveCost : Nat → Nat
  | 0 => 14
  | 1 => 15
  | 2 => 16
  | 3 => 4
  | _ => 30

/-- Watts that a die's sluice may have granted: its share of the pool, less what it lent, and what it borrowed (R193). -/
def State.sluiceCap (s : State) (die : Nat) : Nat :=
  (2400 - s.setup.base) / 4 + (s.die die).borrowed - (s.die die).lent

/-- Adds an unused grant of a class to a cohort (R358). -/
def State.addGrant (s : State) (cohort cls : Nat) : State :=
  match s.cohort? cohort with
  | none => s
  | some c =>
    let g : Grant := { cls := cls, watts := leaveCost cls, die := dieOf c.core, use := 0, tile := 0, since := s.cycle }
    (s.modCohort cohort fun c => { c with grants := c.grants ++ [g] }).modDie (dieOf c.core) fun d =>
      { d with granted := d.granted + leaveCost cls }

/-- Releases the grants of a cohort that satisfy a test (R192). -/
def State.dropGrants (s : State) (cohort : Nat) (p : Grant → Bool) : State :=
  match s.cohort? cohort with
  | none => s
  | some c =>
    let gs := c.grants.filter p
    let s := s.modCohort cohort fun c => { c with grants := c.grants.filter fun g => !p g }
    gs.foldl (fun s g => s.modDie g.die fun d => { d with granted := d.granted - g.watts }) s

/-- The focused cohort holds an unused grant of a class. -/
def Cohort.unused (c : Cohort) (cls : Nat) : Bool := c.grants.any fun g => g.cls == cls && g.use == 0

/-- Asks for leave: at once when the cohort holds a grant (an upgrade, R193), else the request waits at its die's sluice. -/
def State.askLeave (s : State) (cls : Nat) : Bool × State :=
  if s.co.unused cls then (true, s)
  else if !s.co.grants.isEmpty then (true, s.addGrant s.co.uid cls)
  else
    let r : LeaveReq := { cohort := s.co.uid, strand := s.co.st.id, cls := cls, watts := leaveCost cls, prio := s.co.prio }
    (false, s.modDie (dieOf s.co.core) fun d =>
      if d.waiting.any fun q => q.cohort == r.cohort && q.strand == r.strand then d
      else { d with waiting := d.waiting ++ [r] })

/-- Runs `k` with leave of a class, or waits under code 7 (R340). -/
def withLeave (s : State) (need : Bool) (cls : Nat) (k : State → Act) : Act :=
  if !need then k s
  else match s.askLeave cls with
    | (true, t) => k t
    | (false, t) => .park (.leave cls) t

/-- Consumes the unused grant of a class for a use (R358). -/
def State.useGrant (s : State) (need : Bool) (cls use tile : Nat) : State :=
  if !need then s
  else s.setCo fun c =>
    { c with grants := modifyFirst (fun g => g.cls == cls && g.use == 0)
               (fun g => { g with use := use, tile := tile }) c.grants }

/-- `LEAVE` (R357, R358). -/
def execLeave (o : UxForm) (s : State) : Host.Outcome State Fault Refusal :=
  issueSeq (.leave o) (fun s =>
    let cls := o.ext.toNat
    if cls = 5 then .done { post := s.dropGrants s.co.uid (·.use == 0), hard := true }
    else withLeave s true cls fun t => .done { post := t, hard := true }) s

/-! ### The layout record (R312-R318) -/

/-- Bytes of an element, or of a block record (R313). -/
def layEsize : Nat → Nat
  | 0 => 1
  | 1 => 1
  | 2 => 2
  | 3 => 2
  | 4 => 4
  | 5 => 4
  | 6 => 2
  | 7 => 2
  | 8 => 1
  | 9 => 25
  | 10 => 17
  | 11 => 33
  | _ => 8

/-- A layout record's fields. -/
structure Layout where
  base : DWord
  fill : Nat
  bic : Nat
  rank : Nat
  efmt : Nat
  fillv : Word
  d : List Nat
  st : List DWord
  w : List Nat
  pitch : Nat
  diag : Bool

/-- Reads the fields (R312); extents of dimensions at or above the rank act as 1. -/
def Layout.ofWords (l : List Word) : Layout :=
  let w2 := wordAt l 2
  let rank := (w2.extractLsb' 4 3).toNat + 1
  let one (k x : Nat) : Nat := if rank ≤ k then 1 else x
  let half (j : Nat) (hi : Bool) : Nat := ((wordAt l j).extractLsb' (if hi then 16 else 0) 16).toNat
  { base := pairOf (wordAt l 1) (wordAt l 0), fill := (w2.extractLsb' 12 4).toNat, bic := (w2.extractLsb' 8 4).toNat,
    rank := rank, efmt := (w2.extractLsb' 0 4).toNat, fillv := wordAt l 3,
    d := (List.range 5).map fun k => one k (wordAt l (4 + k)).toNat
    st := 0 :: (List.range 4).map fun k => pairOf (wordAt l (10 + 2 * k)) (wordAt l (9 + 2 * k))
    w := [half 17 false, one 1 (half 17 true), one 2 (half 18 false), one 3 (half 18 true), one 4 (half 19 false)]
    pitch := ((wordAt l 20).extractLsb' 0 24).toNat, diag := (wordAt l 21).getLsbD 0 }

/-- Block format. -/
def Layout.blk (l : Layout) : Bool := 9 ≤ l.efmt && l.efmt ≤ 11
/-- Elements in one unit of dimension 0. -/
def Layout.unit (l : Layout) : Nat := if l.blk then 32 else 1
/-- Bytes of a unit. -/
def Layout.esize (l : Layout) : Nat := layEsize l.efmt
/-- Units of a row. -/
def Layout.perRow (l : Layout) : Nat := l.w.getD 0 0 / l.unit
/-- Bytes of a row (R314). -/
def Layout.rowBytes (l : Layout) : Nat := l.perRow * l.esize
/-- Rows of the window (R314). -/
def Layout.rows (l : Layout) : Nat := (l.w.drop 1).foldl (· * ·) 1
/-- Bytes of the window. -/
def Layout.bytes (l : Layout) : Nat := l.rows * l.rowBytes

/-- Why a record fails (R318): in ascending word order, reserved bits before fields; code, word index, value. -/
def layFault (l : List Word) : Option (Nat × Nat × Word) :=
  let y := Layout.ofWords l
  let res (j : Nat) (m : Word) : List (Nat × Nat × Word) :=
    if wordAt l j &&& m != 0 then [(0x12, j, wordAt l j &&& m)] else []
  let bad (b : Bool) (j : Nat) (v : Word) : List (Nat × Nat × Word) := if b then [(0x13, j, v)] else []
  let unused (k : Nat) : Bool := y.rank ≤ k
  let all : Word := 0xFFFFFFFF
  let w2 := wordAt l 2
  let fillMask : Word := if y.fill != 0 || y.efmt = 12 then 0
    else if y.blk || y.esize = 1 then 0xFFFFFF00 else if y.esize = 2 then 0xFFFF0000 else 0
  let wMask (lo hi : Nat) : Word := (if unused lo then 0xFFFF else 0) ||| (if unused hi then 0xFFFF0000 else 0)
  let checks := res 1 0xFF000000 ++ res 2 0xFFFF0080
    ++ bad (12 < y.efmt) 2 (w2.extractLsb' 0 4 |>.setWidth 32) ++ bad (5 < y.rank) 2 ((w2.extractLsb' 4 3).setWidth 32)
    ++ bad (3 < y.bic) 2 ((w2.extractLsb' 8 4).setWidth 32) ++ bad (2 < y.fill) 2 ((w2.extractLsb' 12 4).setWidth 32)
    ++ res 3 fillMask
    ++ bad (y.blk && (wordAt l 4).toNat % 32 != 0) 4 (wordAt l 4)
    ++ (List.range 5).flatMap (fun k => if unused k then res (4 + k) all
        else bad (y.fill = 1 && wordAt l (4 + k) == 0) (4 + k) 0)
    ++ (List.range 8).flatMap (fun j => if unused (1 + j / 2) then res (9 + j) all else [])
    ++ res 17 (wMask 0 1) ++ bad (y.blk && y.w.getD 0 0 % 32 != 0) 17 (BitVec.ofNat 32 (y.w.getD 0 0))
    ++ res 18 (wMask 2 3) ++ res 19 (0xFFFF0000 ||| wMask 4 0)
    ++ res 20 0xFF000000
    ++ bad (y.pitch < y.rowBytes || y.pitch % 16 != 0 || (y.bic != 0 && y.pitch % 128 != 0)) 20 (BitVec.ofNat 32 y.pitch)
    ++ res 21 0xFFFFFFFE ++ bad (y.diag && y.bic != 0) 21 1 ++ res 22 all ++ res 23 all
  checks.head?

/-- The trap of a bad record. -/
def layTrap (f : Nat × Nat × Word) : Trap := trapOf f.1 0 (pairOf f.2.2 (BitVec.ofNat 32 f.2.1))

/-- SUB 3 of R341: BASE or a stride that is not a multiple of the element size. -/
def layAlign (l : List Word) : Option Trap :=
  let y := Layout.ofWords l
  if y.blk then none
  else
    let bad (x : DWord) : Bool := x.toNat % y.esize != 0
    if bad y.base then some (trapOf 0x1B 3 (pairOf (wordAt l 0) 0))
    else ((List.range 4).find? fun k => k + 1 < y.rank && bad (y.st.getD (k + 1) 0)).map fun k =>
      trapOf 0x1B 3 (pairOf (wordAt l (9 + 2 * k)) (BitVec.ofNat 32 (9 + 2 * k)))

/-- The 24 words of a record from an s register. -/
def State.layWords (s : State) (a : Nat) : List Word := (spanNat a 24).map s.readU

/-- `LAYCHK` (R347). -/
def execLaychk (o : UxForm) (s : State) : Host.Outcome State Fault Refusal :=
  issueSeq (.laychk o) (fun s =>
    let l := s.layWords o.a.toNat
    match layFault l with
    | some f => .trap (layTrap f)
    | none => match layAlign l with
      | some t => .trap t
      | none => .done { post := s }) s

/-! ### Where a window's bytes lie -/

/-- Offset of a row's byte after the bank interleave (R317). -/
def bicSwizzle (bic r b : Nat) : Nat := if bic = 0 then b else b ^^^ (r % 2 ^ bic * 16)

/-- Block offset of byte b of row r at a scratchpad operand (R314, R317, R231). -/
def Layout.spOffset (l : Layout) (dst r b : Nat) : Nat :=
  let a := dst + r * l.pitch + bicSwizzle l.bic r b
  if l.diag then diagToLinear (a - 0x400000) else a

/-- Window coordinates 1 to 4 of a row (R314). -/
def Layout.rowCoords (l : Layout) (r : Nat) : List Nat :=
  let w := l.w
  let w1 := w.getD 1 1
  let w2 := w.getD 2 1
  let w3 := w.getD 3 1
  [r % w1, r / w1 % w2, r / (w1 * w2) % w3, r / (w1 * w2 * w3)]

/-- Tensor coordinates of unit u of row r: the coordinate of dimension 0 in units; a gather's row index stands for
dimension 1 (R314, R319). -/
def Layout.coords (l : Layout) (org : List Word) (idx : Option (List Word)) (r u : Nat) : List Int :=
  let o (k : Nat) : Int := (wordAt org k).toInt
  let j := l.rowCoords r
  let c1 : Int := match idx with
    | some i => (wordAt i (j.getD 0 0)).toNat
    | none => o 1 + j.getD 0 0
  (List.range 5).map fun k =>
    if l.rank ≤ k then 0
    else if k = 0 then o 0 / l.unit + u
    else if k = 1 then c1
    else o k + j.getD (k - 1) 0

/-- Extent of a dimension, in units of dimension 0. -/
def Layout.extent (l : Layout) (k : Nat) : Nat := if k = 0 then l.d.getD 0 0 / l.unit else l.d.getD k 1

/-- The unit is inside the tensor (R314). -/
def Layout.inside (l : Layout) (c : List Int) : Bool :=
  (List.range 5).all fun k => 0 ≤ c.getD k 0 && c.getD k 0 < l.extent k

/-- Device address of a unit (R314). -/
def Layout.addr (l : Layout) (c : List Int) : Nat :=
  ((List.range 4).foldl (fun a k => a + BitVec.ofInt 64 (c.getD (k + 1) 0) * l.st.getD (k + 1) 0)
    (l.base + BitVec.ofInt 64 (c.getD 0 0 * l.esize))).toNat

/-- Coordinates clamped into the tensor (R316, edge). -/
def Layout.clamp (l : Layout) (c : List Int) : List Int :=
  (List.range 5).map fun k => clampInt 0 ((l.extent k : Int) - 1) (c.getD k 0)

/-- Bytes of a constant fill (R316). -/
def Layout.fillBytes (l : Layout) : List Byte :=
  if l.blk then List.replicate l.esize (l.fillv.extractLsb' 0 8)
  else if l.efmt = 12 then bytes8 (l.fillv.signExtend 64)
  else bytesOf l.esize l.fillv.toNat

/-- One unit of a copy: its device address when the device side has one, the scratchpad offsets, the fill otherwise. -/
structure CopyUnit where
  va : Option Nat
  offs : List Nat
  fill : Option (List Byte)

/-- Every unit of a copy in row order (R314-R319); `base` is the block's first offset. A copy out of scratchpad leaves
outside units alone. -/
def Layout.units (l : Layout) (out : Bool) (org : List Word) (idx : Option (List Word)) (dst base : Nat) :
    List CopyUnit :=
  (List.range l.rows).flatMap fun r => (List.range l.perRow).map fun u =>
    let c := l.coords org idx r u
    let offs := (spanNat (u * l.esize) l.esize).map fun b => base + l.spOffset dst r b
    if l.inside c then { va := some (l.addr c), offs := offs, fill := none }
    else if out then { va := none, offs := offs, fill := none }
    else match l.fill with
      | 0 => { va := none, offs := offs, fill := some l.fillBytes }
      | 1 => { va := some (l.addr (l.clamp c)), offs := offs, fill := none }
      | _ => { va := none, offs := offs, fill := none }

/-- Scratchpad lines of a copy's rows. -/
def Layout.lines (l : Layout) (dst base : Nat) : List Nat :=
  dedup ((List.range l.rows).flatMap fun r =>
    (List.range l.rowBytes).map fun b => (base + l.spOffset dst r b) / 128)

/-- The scratchpad operand's first byte out of range (R341 SUB 0). Rows past the range stop the search early. -/
def Layout.rangeFault (l : Layout) (dst p : Nat) : Option Nat :=
  let out (a : Nat) : Bool :=
    if l.diag then a < 0x400000 || 0x5FFFFF < a || p ≤ diagToLinear (a - 0x400000)
    else 0x1FFFFF < a || p ≤ a
  if (if l.diag then dst < 0x400000 || 0x5FFFFF < dst else 0x1FFFFF < dst) then some dst
  else (List.range (min l.rows 131074)).findSome? fun r =>
    ((List.range l.rowBytes).map fun b => dst + r * l.pitch + bicSwizzle l.bic r b).find? out

/-! ### Issue -/

/-- Operands of a copy command. -/
structure CopyCmd where
  lay : List Word
  org : List Word
  spm : Nat
  out : Bool
  acq : Bool
  rel : Bool
  scope : Nat
  dsg : Option DWord
  idx : Option Nat

/-- Lines of a run of linear local bytes of the focused block. -/
def State.ownLines (s : State) (addr n : Nat) : List (Nat × Nat) :=
  (dedup ((spanNat ((s.blockRange s.co.block).1 + addr) n).map (· / 128))).map fun l => (s.co.core, l)

/-- Operand checks of R341 in ascending SUB order, then the designator (R344). -/
def copyFault (s : State) (c : CopyCmd) : Option Trap :=
  let y := Layout.ofWords c.lay
  let p := (s.blockRange s.co.block).2
  let n := 4 * y.w.getD 1 1
  match layFault c.lay with
  | some f => some (layTrap f)
  | none => match y.rangeFault c.spm p with
    | some a => some (trapOf 0x1B 0 (BitVec.ofNat 64 a))
    | none =>
      if c.spm % (if y.bic = 0 then 16 else 128) != 0 then some (trapOf 0x1B 1 (BitVec.ofNat 64 c.spm))
      else if y.blk && (wordAt c.org 0).toInt % 32 != 0 then some (trapOf 0x1B 2 ((wordAt c.org 0).setWidth 64))
      else match layAlign c.lay with
        | some t => some t
        | none =>
          let list : Option Trap := match c.idx with
            | none => none
            | some a =>
              if y.rank = 1 then some (trapOf 0x1B 4 0)
              else if a % 4 != 0 || 0x1FFFFF < a || p < a + n then some (trapOf 0x1B 5 (BitVec.ofNat 64 a))
              else none
          match list with
          | some t => some t
          | none => c.dsg.bind fun d => dsgFault d 16

/-- Copy slots in use: every engine command but `ZST` (R311). -/
def slotCount (c : Core) : Nat :=
  (c.copies.filter fun x => match x.kind with
    | .zst .. => false
    | _ => true).length

/-- `COPY` and `GATHER` (R340, R345, R346). -/
def copyAct (s : State) (c : CopyCmd) : Act :=
  match copyFault s c with
  | some t => .trap t
  | none =>
    let y := Layout.ofWords c.lay
    let base := (s.blockRange s.co.block).1
    let n := 4 * y.w.getD 1 1
    let idxLines := match c.idx with
      | some a => s.ownLines a n
      | none => []
    if !s.linesReady 0 idxLines then .park .line s
    else match s.spPoison s.co.core (match c.idx with
      | some a => (spanNat a n).map (base + ·)
      | none => []) with
    | some j => .late ⟨0x0B, 0, BitVec.ofNat 64 (c.idx.getD 0 + j)⟩
    | none =>
      let idx := c.idx.map fun a => wordsOf (y.w.getD 1 1) (s.spRead s.co.core ((spanNat a n).map (base + ·)))
      let need := 1048576 < y.bytes
      withLeave s need 3 fun s =>
        if 64 ≤ slotCount (s.core s.co.core) then .park (.resource .slot) s
        else if ticketMax 5 ≤ s.co.st.cpCount then .park (.resource (.ticket 5)) s
        else
          let lines := if c.out then [] else y.lines c.spm base
          let cp : Copy :=
            { id := s.fresh, kind := match idx with
                | some l => .gather l
                | none => if c.out then .out else .inn
              layout := c.lay, origin := c.org, spm := c.spm, block := s.co.block, acq := c.acq, rel := c.rel,
              scope := c.scope, dsg := c.dsg, cohort := s.co.uid, strand := s.co.st.id, lines := lines, stage := 0,
              due := 0, fab := [] }
          let t := (s.useGrant need 3 2 s.fresh).modCore s.co.core fun k => { k.setLines false lines with copies := k.copies ++ [cp] }
          let t := t.setSt fun st => { st with copies := st.copies ++ [(s.fresh, false)] }
          .done { post := { t with fresh := s.fresh + 1 }, hard := true }

/-- The designator of a command. -/
def State.dsgOf (s : State) (arv : Bool) (c : Nat) : Option DWord := if arv then some (s.readU2 c) else none

/-- `COPY` (R344, R345). -/
def execCopy (o : UeForm) (s : State) : Host.Outcome State Fault Refusal :=
  issueSeq (.copy o) (fun s => copyAct s
    { lay := s.layWords o.a.toNat, org := (spanNat o.b.toNat 5).map s.readU, spm := (s.readU o.d.toNat).toNat,
      out := o.out, acq := o.acq, rel := o.rel, scope := o.scopeN, dsg := s.dsgOf o.arv o.dsg, idx := none }) s

/-- `GATHER` (R346). -/
def execGather (o : UxForm) (s : State) : Host.Outcome State Fault Refusal :=
  issueSeq (.gather o) (fun s => copyAct s
    { lay := s.layWords o.a.toNat, org := (spanNat o.b.toNat 5).map s.readU, spm := (s.readU o.d.toNat).toNat,
      out := false, acq := o.bit20, rel := o.bit19, scope := o.scopeN, dsg := s.dsgOf o.bit18 o.gdsg,
      idx := some (s.readU o.idx).toNat }) s

/-! ### Reports (R343) and completion (R320, R321) -/

/-- Leaves a report for a strand, its cohort's lowest strand, or the firmware (R343). -/
def State.report (s : State) (cohort strand sub : Nat) (addr : DWord) : State :=
  match s.cohort? cohort with
  | none => s.toFw (.late cohort sub addr)
  | some c =>
    if c.ending then s.toFw (.late cohort sub addr)
    else
      let id := if (c.strand? strand).isSome then strand else c.lowest
      s.modCohort cohort fun c => c.modStrand id fun t => { t with reports := t.reports ++ [⟨sub, addr⟩] }

/-- Marks a copy complete in its strand's list; copies before an unfinished one do not retire (R311). -/
def State.retireCopy (s : State) (cohort id : Nat) : State :=
  s.modCohort cohort fun c => c.mapStrands fun t =>
    { t with copies := (t.copies.map fun p => if p.1 == id then (p.1, true) else p).dropWhile (·.2) }

/-- A copy leaves its core: its lines that no other copy fills are set, its grant is released, CP retires (R320). -/
def State.endCopy (s : State) (core : Nat) (cp : Copy) : State :=
  let s := s.modCore core fun k =>
    let k := { k with copies := k.copies.filter (·.id != cp.id) }
    k.setLines true (cp.lines.filter fun l => !k.filling l)
  (s.dropGrants cp.cohort fun g => g.use == 2 && g.tile == cp.id).retireCopy cp.cohort cp.id

/-- Completes a copy: release, store arrival, CP (R320). -/
def State.finishCopy (s : State) (core : Nat) (cp : Copy) : State :=
  let t := s.endCopy core cp
  match cp.dsg with
  | some d => { t with arrivals := t.arrivals ++ [{ dsg := d, core := core, block := cp.block, cohort := cp.cohort,
                                                    strand := cp.strand, after := [] }] }
  | none => t

/-- A fatal fault stops a copy: it completes without release or arrival, and leaves a report (R321). -/
def State.stopCopy (s : State) (core : Nat) (cp : Copy) (code : Nat) (va : DWord) : State :=
  (s.endCopy core cp).report cp.cohort cp.strand code va

/-- Outcome of moving units. -/
inductive MoveRes where
  | ok (s : State)
  | miss (va : Nat)
  | stop (s : State) (code va : Nat)

/-- Why a unit's device address cannot be accessed at all (R225). -/
def vaBad (va n : Nat) : Bool := 2 ^ 56 ≤ va || 2 ^ 56 ≤ va + n - 1

/-- Moves units into scratchpad, in order (R314-R316). `ans` holds bytes that came over the fabric. -/
def State.moveIn (s : State) (core n : Nat) (ans : List FabWait) : List CopyUnit → MoveRes
  | [] => .ok s
  | u :: rest =>
    match u.va with
    | none => match u.fill with
      | some bs => (s.spWrite core (u.offs.zip bs)).moveIn core n ans rest
      | none => s.moveIn core n ans rest
    | some va =>
      if vaBad va n then .stop s 0x08 va
      else if isFabric va then
        match ans.find? (·.va == BitVec.ofNat 64 va) with
        | some m => match m.answer with
          | some (true, bs) => (s.spWrite core (u.offs.zip bs)).moveIn core n ans rest
          | _ => .stop s 0x0B va
        | none => .stop s 0x0B va
      else match s.agentLoad va n with
        | .ok (bs, s) => (s.spWrite core (u.offs.zip bs)).moveIn core n ans rest
        | .miss a => .miss a
        | .fault c a => .stop s c a

/-- Moves units out of scratchpad, in order; fabric units have left already (R316). -/
def State.moveOut (s : State) (core n : Nat) : List CopyUnit → MoveRes
  | [] => .ok s
  | u :: rest =>
    match u.va with
    | none => s.moveOut core n rest
    | some va =>
      if vaBad va n then .stop s 0x08 va
      else if isFabric va then s.moveOut core n rest
      else match s.agentStore va (s.spRead core u.offs) with
        | .ok t => t.moveOut core n rest
        | .miss a => .miss a
        | .fault c a => .stop s c a

/-- Sends a fabric message of an engine: read or write of bytes at a fabric address (21 R428). -/
def State.engineFab (s : State) (cp : Copy) (kind va n : Nat) (bs : List Byte) : State × FabWait :=
  let (dev, target) := s.fabTarget va
  let m : FabMsg := { tid := s.fabric.tid, device := dev, link := s.linkFor dev target.toNat, kind := kind,
                      va := BitVec.ofNat 64 va, target := target, data := bs, mask := List.replicate bs.length true,
                      op := none, cohort := 0, strand := cp.id, lane := 0, size := n, piece := none }
  ({ s with fabric := { s.fabric with out := s.fabric.out ++ [m], tid := s.fabric.tid + 1 } },
    ⟨m.tid, 0, m.va, if m.link.isNone then some (false, []) else none⟩)

/-- Fabric units of a copy that the windows do not allow (21 R427). -/
def State.fabDenied (s : State) (out : Bool) (n : Nat) (us : List CopyUnit) : Option Nat :=
  us.findSome? fun u => match u.va with
    | some va => if isFabric va then
        (spanNat va n).find? fun a => !s.fabricByteOk (if out then .write else .read) a
        else none
    | none => none

/-- Changes a copy of a core. -/
def State.modCopy (s : State) (core id : Nat) (f : Copy → Copy) : State :=
  s.modCore core fun k => { k with copies := modifyFirst (·.id == id) f k.copies }

/-- Device address of the first unit that a copy moves out of poisoned scratchpad (19 R383). -/
def State.outPoison (s : State) (core : Nat) (us : List CopyUnit) : Option Nat :=
  us.findSome? fun u => if (s.spPoison core u.offs).isSome then u.va else none

/-- Outcome of one look of an engine at a copy. -/
inductive CopyLook where
  | goes (s : State)
  /-- a fatal fault: cause code and address -/
  | fails (s : State) (code : Nat) (va : DWord)

/-- One look of a core's engine at a `COPY` or `GATHER` (R320, R321): fabric messages go out first; then, when a source
line is absent or a page is missing, it waits; then the data move; then the wait of a release at `.pk` or `.sy`. -/
def State.lookCopy (s : State) (core : Nat) (cp : Copy) : CopyLook :=
  let y := Layout.ofWords cp.layout
  let (out, idx) : Bool × Option (List Word) := match cp.kind with
    | .out => (true, none)
    | .gather l => (false, some l)
    | _ => (false, none)
  let base := (s.blockRange cp.block).1
  let us := y.units out cp.origin idx cp.spm base
  let n := y.esize
  if cp.stage = 2 then
    .goes (if cp.due < s.time || !(cp.rel && 4 ≤ cp.scope) then s.finishCopy core cp else s)
  else if out && !(((us.filter (·.va.isSome)).flatMap (·.offs)).all fun o => (s.core core).present (o / 128)) then .goes s
  else match s.fabDenied out n us with
    | some va => .fails s 0x0A (BitVec.ofNat 64 va)
    | none => match (if out then s.outPoison core us else none) with
    | some va => .fails s 0x0B (BitVec.ofNat 64 va)
    | none =>
      let fabs := us.filterMap fun u => match u.va with
        | some va => if isFabric va then some (va, u.offs) else none
        | none => none
      if cp.stage = 0 && !fabs.isEmpty then
        let r := fabs.foldl (fun (acc : State × List FabWait) f =>
          let (t, w) := acc.1.engineFab cp (if out then 2 else 1) f.1 n (if out then acc.1.spRead core f.2 else [])
          (t, acc.2 ++ [w])) (s, [])
        .goes (r.1.modCopy core cp.id fun c => { c with stage := 1, fab := r.2 })
      else if cp.fab.any (·.answer.isNone) then .goes s
      else
        let bad := cp.fab.find? fun w => match w.answer with
          | some (g, _) => !g
          | none => false
        match (if out then bad else none) with
        | some w => .fails s 0x0B w.va
        | none =>
          match (if out then s.moveOut core n us else s.moveIn core n cp.fab us) with
          | .miss a => .goes (s.absent (dieOf core) a)
          | .stop t c va => .fails t c (BitVec.ofNat 64 va)
          | .ok t =>
            let due := us.foldl (fun d u => match u.va with
              | some va => match t.xlateWalk va .write with
                | .ok pa => if homeDie pa != dieOf core then max d (t.completion (pa / 128)) else d
                | _ => d
              | none => d) 0
            .goes (if out && cp.rel && 4 ≤ cp.scope && t.time ≤ due then
                t.modCopy core cp.id fun c => { c with stage := 2, due := due }
              else t.finishCopy core cp)

/-- The k-th running engine command of a core. -/
def State.copyAt (s : State) (core k : Nat) : Option Copy := (s.core core).copies[k]?

/-- A `COPY` or `GATHER`, not a `ZST`. -/
def Copy.moves (cp : Copy) : Bool :=
  match cp.kind with
  | .zst .. => false
  | _ => true

/-- Event COPY_COMPLETION (R320): a look at a command that meets no fatal fault. -/
def execCopyCompletion (core k : Nat) (s : State) : Host.Outcome State Fault Refusal :=
  match s.copyAt core k with
  | none => .next s
  | some cp =>
    if !cp.moves then .next s
    else match s.lookCopy core cp with
      | .goes t => .next t
      | .fails .. => .next s

/-- Event COPY_FAULT (R321): a look at a command that meets a fatal fault. -/
def execCopyFault (core k : Nat) (s : State) : Host.Outcome State Fault Refusal :=
  match s.copyAt core k with
  | none => .next s
  | some cp =>
    if !cp.moves then .next s
    else match s.lookCopy core cp with
      | .goes _ => .next s
      | .fails t c va => .next (t.stopCopy core cp c va)

end Sys2Proof.Machine
end

