-- ==== Sys2Proof/Machine/Matrix.lean ====
section
/-! DEFINITION. The matrix pair (15 R322-R330, 16 R342, R348-R353). -/

namespace Sys2Proof.Machine

/-! ### The format block (R323) -/

/-- Fields of a format block. -/
structure FmtBlock where
  acc : Bool
  bdir : Bool
  blen : Nat
  bfmt : Nat
  afmt : Nat
  boff : Nat
  asc : Nat
  bsc : Nat

/-- Reads a format block. -/
def FmtBlock.ofWords (l : List Word) : FmtBlock :=
  let w := wordAt l 0
  let off (k : Nat) : Nat := ((wordAt l k).extractLsb' 0 24).toNat
  { acc := w.getLsbD 12, bdir := w.getLsbD 11, blen := (w.extractLsb' 8 2).toNat, bfmt := (w.extractLsb' 4 4).toNat,
    afmt := (w.extractLsb' 0 4).toNat, boff := off 1, asc := off 2, bsc := off 3 }

/-- K of a format (R323). -/
def fmtK (f : Nat) : Nat := if f < 2 then 32 else if f < 4 then 64 else 128
/-- Width of an element in its string or in B (R324). -/
def fmtWidth (f : Nat) : Nat := if f < 2 then 16 else if f < 4 then 8 else 4

/-- The word of a format block that is invalid (R323, R342 SUB 2). -/
def fmtBad (l : List Word) : Option Nat :=
  let b := FmtBlock.ofWords l
  let w := wordAt l 0
  if w.extractLsb' 13 19 != 0 || w.getLsbD 10 || b.blen = 3 || 4 < b.bfmt || 4 < b.afmt || fmtK b.afmt != fmtK b.bfmt
      || (b.blen != 0 && b.afmt < 2) then some 0
  else if (wordAt l 1).extractLsb' 24 8 != 0 then some 1
  else if (wordAt l 2).extractLsb' 24 8 != 0 || (b.blen = 0 && wordAt l 2 != 0) then some 2
  else if (wordAt l 3).extractLsb' 24 8 != 0 || (b.blen = 0 && wordAt l 3 != 0) then some 3
  else none

/-- Scales along K (R325). -/
def FmtBlock.nb (b : FmtBlock) : Nat := if b.blen = 1 then fmtK b.afmt / 32 else if b.blen = 2 then 1 else 0

/-- An element's value from its code (R324, R43, R52). -/
def elemValue (f : Nat) (code : Nat) : FV :=
  match f with
  | 0 => bf16.value false code
  | 1 => fp16.value false code
  | 2 => valueT (code % 256) 8
  | 3 => valueT (code % 64) 6
  | _ => valueT (code % 16) 4

/-- A value with its block scale; a scale byte of 255 makes it NaR (R325, R52). -/
def scaled (v : FV) (sb : Option Nat) : FV :=
  match sb with
  | none => v
  | some sb => if sb = 255 then .nan false else match v with
    | .fin d => .fin { d with e := d.e + sb - 127 }
    | v => v

/-- The follower's block of the focused cohort's launch: the next index of a PAIRED launch first (R322). -/
def State.followerBlock (s : State) : Option Block :=
  let l := s.blocks.filter fun b => b.core == s.co.core + 1 && b.launch == s.co.launch && b.phase < 2
  match s.block? s.co.block with
  | some me => match l.find? (·.index == me.index + 1) with
    | some b => some b
    | none => l.head?
  | none => l.head?

/-- SUB 0 and 1 of cause 0x1C (R342). -/
def State.pairFault (s : State) : Option Trap :=
  if s.co.core % 2 = 1 then some (trapOf 0x1C 0 0)
  else match s.followerBlock with
    | none => some (trapOf 0x1C 1 (BitVec.ofNat 64 (s.co.core + 1)))
    | some _ => none

/-! ### Tiles -/

/-- The mapping of a tile. -/
def Cohort.tile (c : Cohort) (t : Nat) : ZMap := c.z.getD t .zero

/-- The half-tile pair of a mapping. -/
def ZMap.id : ZMap → Option Nat
  | .zero => none
  | .pair k => some k

/-- Cohorts on a matrix pair's leader core. -/
def State.pairCohorts (s : State) (p : Nat) : List Cohort := s.cohorts.filter fun c => c.core == 2 * p

/-- Mapped half-tile pairs (R328). -/
def State.mappedTiles (s : State) (p : Nat) : List Nat := (s.pairCohorts p).flatMap fun c => c.z.filterMap ZMap.id

/-- Half-tile pairs that something still needs: mappings, commands and their checks, waiting reads and stores (R327-R329,
R351, R353). -/
def State.neededTiles (s : State) (p : Nat) : List Nat :=
  let cmds := (s.pair p).queue ++ (s.pair p).checks
  let reads := s.cohorts.flatMap fun c => c.strands.flatMap fun t => t.outst.flatMap fun o => o.dests.filterMap fun d =>
    match d with
    | .tile _ _ _ q k => if q == p then some k else none
    | _ => none
  let stores := (s.core (2 * p)).copies.filterMap fun c => match c.kind with
    | .zst q (some k) _ _ _ _ => if q == p then some k else none
    | _ => none
  s.mappedTiles p ++ cmds.filterMap (·.src) ++ cmds.map (·.dst) ++ reads ++ stores

/-- Releases half-tile pairs that nothing needs. -/
def State.gcTiles (s : State) (p : Nat) : State :=
  let need := s.neededTiles p
  s.modPair p fun q => { q with tiles := q.tiles.filter fun t => need.contains t.id }

/-- The values of a half-tile pair that has been computed; the zero mapping reads +0 (R327). -/
def State.tileVals (s : State) (p : Nat) (k : Option Nat) : Option (List (List Word)) :=
  match k with
  | none => some []
  | some k => match (s.pair p).tiles.find? (·.id == k) with
    | some t => t.vals
    | none => some []

/-- The tile's last result has passed its check (R329). -/
def State.tileReady (s : State) (p : Nat) (k : Option Nat) : Bool :=
  match k with
  | none => true
  | some k => match (s.pair p).tiles.find? (·.id == k) with
    | some t => t.checked && t.vals.isSome
    | none => true

/-- An element of a tile. -/
def tileElem' (v : List (List Word)) (i n : Nat) : Word := wordAt (v.getD i []) n

/-! ### MMA -/

/-- Scratchpad addresses that an `MMA` reads in the leader and in the follower (R325). -/
def FmtBlock.reads (b : FmtBlock) (leader : Bool) : List Nat :=
  spanNat b.boff 2048 ++ (if leader then spanNat b.asc (96 * b.nb) else []) ++ spanNat b.bsc (32 * b.nb)

/-- The first byte of an operand that lies outside the linear range below P of its block (R325, R342 SUB 3). -/
def mmaRange (b : FmtBlock) (pl pf : Nat) : Option Nat :=
  match (b.reads true).find? fun a => 0x1FFFFF < a || pl ≤ a with
  | some a => some a
  | none => (b.reads false).find? fun a => 0x1FFFFF < a || pf ≤ a

/-- Leave class of a format (R192). -/
def mmaClass (afmt : Nat) : Nat := if afmt < 2 then 0 else if afmt < 4 then 1 else 2

/-- A chain of the tile is open: its grant stands (R349). -/
def Cohort.chainOpen (c : Cohort) (t : Nat) : Bool := c.grants.any fun g => g.use == 1 && g.tile == t

/-- `MMA` (R348, R349): checks, leave, a queue place, a fresh pair; A, the format block and the mask are captured. -/
def execMma (o : UeForm) (s : State) : Host.Outcome State Fault Refusal :=
  issueSeq (.mma o) (fun s =>
    let fb := (spanNat o.b.toNat 4).map s.readU
    let b := FmtBlock.ofWords fb
    match s.pairFault, s.followerBlock with
    | some t, _ => .trap t
    | none, none => .trap (trapOf 0x1C 1 (BitVec.ofNat 64 (s.co.core + 1)))
    | none, some fol =>
      match fmtBad fb with
      | some j => .trap (trapOf 0x1C 2 (pairOf (wordAt fb j) (BitVec.ofNat 32 j)))
      | none => match mmaRange b (s.blockRange s.co.block).2 fol.p with
        | some a => .trap (trapOf 0x1C 3 (BitVec.ofNat 64 a))
        | none =>
          let t := o.d.toNat
          let p := pairOfCore s.co.core
          let need := !s.co.chainOpen t
          withLeave s need (mmaClass b.afmt) fun s =>
            let s' := s.gcTiles p
            let src := (s.co.tile t).id
            if 8 ≤ (s.pair p).queue.length then .park .array s
            else if 16 ≤ (s'.pair p).tiles.length || (src.isNone && 12 ≤ (s.mappedTiles p).length) then
              .park (.resource .tile) s
            else
              let k := (s.pair p).next
              let a := (List.range 96).map fun i =>
                if s.co.st.mask.getLsbD i then (spanNat (o.a.toNat % 128) 16).map fun r => s.co.vlane r i else []
              let cmd : MmaCmd :=
                { cohort := s.co.uid, strand := s.co.st.id, count := s.co.st.icnt, tile := t, src := src, dst := k,
                  fb := fb, rows := s.co.st.mask, a := a, acq := o.acq, scope := o.scopeN, leader := s.co.block,
                  follower := fol.uid, miss := 0, redo := false }
              let u := (s'.useGrant need (mmaClass b.afmt) 1 t).modPair p fun q =>
                { q with queue := q.queue ++ [cmd], next := k + 1
                         tiles := q.tiles ++ [{ id := k, vals := none, checked := false }] }
              .done { post := u.setCo fun c => { c with z := c.z.set t (.pair k) }, hard := true }) s

/-- Element k of row i of A (R324). -/
def aElem (b : FmtBlock) (row : List Word) (k : Nat) : Nat :=
  let w := fmtWidth b.afmt
  (wordAt row (k * w / 32)).toNat / 2 ^ (k * w % 32) % 2 ^ w

/-- Byte offset, from BOFF, and code of element (k, n) of B (R325). -/
def bElem (b : FmtBlock) (bytes : List Byte) (k n : Nat) : Nat :=
  let e := if b.bdir then n * fmtK b.afmt + k else k * 32 + n
  match fmtWidth b.bfmt with
  | 16 => natOf ((bytes.drop (2 * e)).take 2)
  | 8 => (bytes.getD e 0).toNat
  | _ => (bytes.getD (e / 2) 0).toNat / 16 ^ (e % 2) % 16

/-- Scale byte for position k of row or column r, when there are scales (R325). -/
def scaleAt (b : FmtBlock) (bytes : List Byte) (r k : Nat) : Option Nat :=
  if b.blen = 0 then none else some (bytes.getD (r * b.nb + k * b.nb / fmtK b.afmt) 0).toNat

/-- One element of the result (R326, 02 R56). -/
def mmaElem (old : Word) (as bs : List FV) : Word :=
  let prods := (as.zip bs).map fun p => p.1.mul p.2
  BitVec.ofNat 32 (fp32.sum 0 false (fp32.value false old.toNat :: prods.map (·.1)) (prods.any (·.2))).1

/-- Scratchpad bytes of a block at local linear addresses. -/
def State.blockBytes (s : State) (core block a n : Nat) : List Byte :=
  s.spRead core ((spanNat a n).map ((s.blockRange block).1 + ·))

/-- The result of a command from the tile it started from (R326). -/
def State.mmaResult (s : State) (p : Nat) (m : MmaCmd) (src : List (List Word)) : List (List Word) :=
  let b := FmtBlock.ofWords m.fb
  let ks := List.range (fmtK b.afmt)
  let side (core block : Nat) : List (List FV) :=
    let bytes := s.blockBytes core block b.boff 2048
    let sc := s.blockBytes core block b.bsc (32 * b.nb)
    (List.range 32).map fun n => ks.map fun k => scaled (elemValue b.bfmt (bElem b bytes k n)) (scaleAt b sc n k)
  let cols := side (2 * p) m.leader ++ side (2 * p + 1) m.follower
  let asc := s.blockBytes (2 * p) m.leader b.asc (96 * b.nb)
  (List.range 96).map fun i =>
    let old (n : Nat) : Word := if b.acc then tileElem' src i n else 0
    if m.rows.getLsbD i then
      let as := ks.map fun k => scaled (elemValue b.afmt (aElem b (m.a.getD i []) k)) (scaleAt b asc i k)
      (List.range 64).map fun n => mmaElem (old n) as (cols.getD n [])
    else (List.range 64).map old

/-- Every line that a command reads is present (R325, R233). -/
def State.mmaLines (s : State) (p : Nat) (m : MmaCmd) : Bool :=
  let b := FmtBlock.ofWords m.fb
  let ok (core block : Nat) (as : List Nat) : Bool :=
    (dedup (as.map fun a => ((s.blockRange block).1 + a) / 128)).all (s.core core).present
  ok (2 * p) m.leader (b.reads true) && ok (2 * p + 1) m.follower (b.reads false)

/-- Runs the first queued command of a pair (R322, R349). A command queued again after a mismatch computes what it
computed before (R329). -/
def State.runMma (s : State) (p : Nat) : State :=
  match (s.pair p).queue with
  | [] => s
  | m :: rest =>
    let take (s : State) : State := s.modPair p fun q =>
      { q with queue := rest, checks := q.checks ++ [{ m with redo := false }], idle := s.cycle }
    if m.redo then take s
    else match s.tileVals p m.src with
      | none => s
      | some src =>
        if !s.mmaLines p m then s
        else
          let s := if m.acq then s.acquireAt (2 * p) m.scope else s
          let r := s.mmaResult p m src
          take (s.modPair p fun q =>
            { q with tiles := modifyFirst (·.id == m.dst) (fun t => { t with vals := some r }) q.tiles })

/-- Results derived from a tile, among commands in order (R329). -/
def derived : List Nat → List MmaCmd → List MmaCmd
  | _, [] => []
  | ds, m :: rest =>
    match m.src with
    | some k => if ds.contains k then m :: derived (m.dst :: ds) rest else derived ds rest
    | none => derived ds rest

/-- The check of the oldest result (R329): passed, or the result and those derived from it run again in order; a third
mismatch raises cause 0x19 in the issuing cohort (01 R26). -/
def State.checkMma (s : State) (p : Nat) (agree : Bool) : State :=
  match (s.pair p).checks with
  | [] => s
  | m :: rest =>
    if agree then
      (s.modPair p fun q =>
        { q with checks := rest
                 tiles := modifyFirst (·.id == m.dst) (fun t => { t with checked := true }) q.tiles }).gcTiles p
    else if 2 ≤ m.miss then
      let s := s.modPair p fun q => { q with checks := { m with miss := 0 } :: rest }
      (s.modCohort m.cohort fun c => { c with halt := some .check }).toFw (.check m.cohort m.count.low)
    else
      let ds := derived [m.dst] rest
      let again := ({ m with miss := m.miss + 1, redo := true } : MmaCmd) :: ds.map fun d => { d with redo := true }
      s.modPair p fun q => { q with checks := rest.filter (fun d => !ds.contains d), queue := again ++ q.queue }

/-! ### ZNEW, ZCLR, ZRD, ZST -/

/-- Closes the chain of a tile: its grant is released (R192, R349). -/
def State.closeChain (s : State) (t : Nat) : State := s.dropGrants s.co.uid fun g => g.use == 1 && g.tile == t

/-- `ZNEW` (R350): the zero mapping at once. -/
def execZnew (o : UForm) (s : State) : Host.Outcome State Fault Refusal :=
  issueSeq (.znew o) (fun s =>
    match s.pairFault with
    | some t => .trap t
    | none =>
      let t := o.d.toNat
      .done { post := ((s.closeChain t).setCo fun c => { c with z := c.z.set t .zero }).gcTiles (pairOfCore s.co.core)
              hard := true }) s

/-- `ZCLR` (R350): later commands on the tile read +0; the tile stays mapped. -/
def execZclr (o : UxForm) (s : State) : Host.Outcome State Fault Refusal :=
  issueSeq (.zclr o) (fun s =>
    match s.pairFault with
    | some t => .trap t
    | none =>
      let t := o.d.toNat
      let p := pairOfCore s.co.core
      let s' := s.closeChain t
      match s.co.tile t with
      | .zero => .done { post := s', hard := true }
      | .pair _ =>
        let k := (s.pair p).next
        let u := s'.modPair p fun q =>
          { q with next := k + 1
                   tiles := q.tiles ++ [{ id := k, vals := some (List.replicate 96 (List.replicate 64 0)), checked := true }] }
        .done { post := (u.setCo fun c => { c with z := c.z.set t (.pair k) }).gcTiles p, hard := true }) s

/-- `ZRD` (R351): issues at once; its result waits for the tile's check. -/
def execZrd (o : UeForm) (s : State) : Host.Outcome State Fault Refusal :=
  issueSeq (.zrd o) (fun s =>
    match s.pairFault with
    | some t => .trap t
    | none =>
      let d := o.d.toNat % 128
      let m := s.co.st.mask
      if m = 0 then .done { post := s }
      else
        let dests : List Dest := match s.co.tile o.a.toNat with
          | .zero => (List.range 8).map fun j => .v (d + j) m (List.replicate 96 0)
          | .pair k => [.tile d o.ext.toNat m (pairOfCore s.co.core) k]
        withTicket s .zr (.done { post := s, recs := regRecs s.co d 8, outst := outstOf s .zr dests })) s

/-- Bytes of an element of a `ZST` by OFMT (R353). -/
def zstSize : Nat → Nat
  | 0 => 4
  | 1 => 2
  | 2 => 2
  | _ => 1

/-- An element's bytes (R353). -/
def zstBytes (ofmt rm : Nat) (ftz : Bool) (x : Word) : List Byte :=
  match ofmt with
  | 0 => bytesOf 4 x.toNat
  | 1 => bytesOf 2 (bf16.ofFV rm ftz (fp32.value ftz x.toNat)).1
  | 2 => bytesOf 2 (fp16.ofFV rm ftz (fp32.value ftz x.toNat)).1
  | _ => bytesOf 1 (encodeT 8 (fp32.value false x.toNat)).1

/-- `ZST` (R352): operand checks, then the destination lines are cleared; the engine waits for the tile. -/
def execZst (o : UxForm) (s : State) : Host.Outcome State Fault Refusal :=
  issueSeq (.zst o) (fun s =>
    let dst := (s.readU o.d.toNat).toNat
    let pitch := 16 * o.pitch16
    let row := 64 * zstSize o.ofmt
    let (base, p) := s.blockRange s.co.block
    let dsg := s.dsgOf o.bit19 o.b.toNat
    match s.pairFault with
    | some t => .trap t
    | none =>
      let out := if 0x1FFFFF < dst then some dst
        else (List.range 96).findSome? fun i => (spanNat (dst + i * pitch) row).find? fun a => 0x1FFFFF < a || p ≤ a
      match out with
      | some a => .trap (trapOf 0x1C 3 (BitVec.ofNat 64 a))
      | none =>
        if dst % 16 != 0 || pitch < row then .trap (trapOf 0x1C 4 (BitVec.ofNat 64 (dst + pitch * 2 ^ 32)))
        else match dsg.bind fun d => dsgFault d 16 with
          | some t => .trap t
          | none =>
            let lines := dedup ((List.range 96).flatMap fun i => (spanNat (base + dst + i * pitch) row).map (· / 128))
            let cp : Copy :=
              { id := s.fresh, kind := .zst (pairOfCore s.co.core) (s.co.tile o.a.toNat).id o.ofmt pitch
                  (fmodeRm s.co.fmode) (fmodeFtz s.co.fmode)
                layout := [], origin := [], spm := dst, block := s.co.block, acq := false, rel := o.bit18,
                scope := o.zscope, dsg := dsg, cohort := s.co.uid, strand := s.co.st.id, lines := lines, stage := 0,
                due := 0, fab := [] }
            .done { post := { (s.modCore s.co.core fun k => { k.setLines false lines with copies := k.copies ++ [cp] }) with
                              fresh := s.fresh + 1 }
                    hard := true }) s

/-- The engine work of a `ZST` once its tile's check has passed (R353). -/
def State.runZst (s : State) (core : Nat) (cp : Copy) : State :=
  match cp.kind with
  | .zst p k ofmt pitch rm ftz =>
    if !s.tileReady p k then s
    else
      let v := (s.tileVals p k).getD []
      let base := (s.blockRange cp.block).1
      let ps := (List.range 96).flatMap fun i =>
        let bs := (List.range 64).flatMap fun n => zstBytes ofmt rm ftz (tileElem' v i n)
        (spanNat (base + cp.spm + i * pitch) bs.length).zip bs
      ((s.spWrite core ps).finishCopy core cp).gcTiles p
  | _ => s

/-! ### The engines' moves -/

/-- Event MMA_EXECUTE (R349, 15 R326). -/
def execMmaExecute (pair : Nat) (s : State) : Host.Outcome State Fault Refusal := .next (s.runMma pair)

/-- Event MMA_CHECK (15 R329). -/
def execMmaCheck (pair : Nat) (agree : Bool) (s : State) : Host.Outcome State Fault Refusal :=
  .next (s.checkMma pair agree)

/-- Event ZST_ENGINE (R353). -/
def execZstEngine (core k : Nat) (s : State) : Host.Outcome State Fault Refusal :=
  match s.copyAt core k with
  | some cp => .next (s.runZst core cp)
  | none => .next s

end Sys2Proof.Machine
end

