-- ==== Sys2Proof/Machine/Coll.lean ====
section
/-! DEFINITION. Collectives: plans, `COLL`, `WAITK` and the collective engines (15 R333-R336, 16 R354-R356, 02 R58, 21
R433, R434). -/

namespace Sys2Proof.Machine

/-! ### The plan header (R333) -/

/-- A plan header's fields. -/
structure Header where
  kind : Nat
  op : Nat
  efmt : Nat
  dfmt : Nat
  root : Nat
  npart : Nat
  bytes : Nat
  chunkb : Nat
  scope : Nat

/-- Reads the fields. -/
def Header.ofWords (l : List Word) : Header :=
  let w0 := wordAt l 0
  { kind := (w0.extractLsb' 28 4).toNat, op := (w0.extractLsb' 24 4).toNat, efmt := (w0.extractLsb' 20 4).toNat,
    dfmt := (w0.extractLsb' 16 4).toNat, root := ((wordAt l 1).extractLsb' 16 16).toNat,
    npart := ((wordAt l 1).extractLsb' 0 16).toNat, bytes := (pairOf (wordAt l 3) (wordAt l 2)).toNat,
    chunkb := (wordAt l 4).toNat, scope := ((wordAt l 5).extractLsb' 0 3).toNat }

/-- Bytes of an element format. -/
def collSize (f : Nat) : Nat := if f = 4 then 8 else if f = 1 || f = 2 then 2 else 4

/-- Number of chunks (R334). -/
def Header.chunks (h : Header) : Nat := (h.bytes + h.chunkb - 1) / h.chunkb

/-- Elements of a chunk. -/
def Header.elems (h : Header) (c : Nat) : Nat :=
  (min ((c + 1) * h.chunkb) h.bytes - c * h.chunkb) / collSize h.efmt

/-- A kind that reduces (R334). -/
def Header.reduces (h : Header) : Bool := h.kind = 0 || h.kind = 1 || h.kind = 4

/-- The first word of a header that is invalid or has a reserved bit set (16 R341 SUB 6). -/
def headerFault (l : List Word) : Option Nat :=
  let h := Header.ofWords l
  if 4 < h.kind || 2 < h.op || 4 < h.efmt || (if 3 ≤ h.efmt then h.dfmt != h.efmt else 2 < h.dfmt)
      || (wordAt l 0).extractLsb' 0 16 != 0 then some 0
  else if h.npart < 2 || ((h.kind = 1 || h.kind = 2) && h.npart ≤ h.root) then some 1
  else if h.bytes % collSize h.efmt != 0 then some 2
  else if h.chunkb % 128 != 0 || h.chunkb < 128 || 2 ^ 24 < h.chunkb then some 4
  else if (wordAt l 5).extractLsb' 3 29 != 0 || (h.scope != 4 && h.scope != 5) then some 5
  else (spanNat 6 10).find? fun j => wordAt l j != 0

/-! ### Accumulators (R58) -/

/-- The empty accumulator. -/
def accZero : RedAcc := { sum := 0, nan := false, pinf := false, ninf := false, ext := none }

/-- Adds to the 320-bit sum; an addition past its range changes only a side flag (R58). -/
def accPlus (a : RedAcc) (x : Int) : RedAcc :=
  let y := a.sum + x
  if 2 ^ 319 ≤ y then { a with pinf := true } else if y < -(2 ^ 319) then { a with ninf := true } else { a with sum := y }

/-- The floating format of an element code. -/
def collFmt (f : Nat) : Fmt := if f = 1 then fp16 else if f = 2 then bf16 else fp32

/-- The extremum of two elements: signed for integers, by R37 for floating formats. -/
def collExt (op efmt : Nat) (x y : DWord) : DWord :=
  if 3 ≤ efmt then
    let n := 8 * collSize efmt
    let less := decide (signedOf n x.toNat < signedOf n y.toNat)
    if less == (op == 1) then x else y
  else BitVec.ofNat 64 ((collFmt efmt).minMax (op == 2) false x.toNat y.toNat).1

/-- Extrema combined. -/
def extJoin (op efmt : Nat) (x y : Option DWord) : Option DWord :=
  match x, y with
  | some a, some b => some (collExt op efmt a b)
  | some a, none => some a
  | none, y => y

/-- One element added to an accumulator. -/
def accAdd (a : RedAcc) (op efmt : Nat) (x : DWord) : RedAcc :=
  if op != 0 then { a with ext := extJoin op efmt a.ext (some x) }
  else if 3 ≤ efmt then accPlus a (signedOf (8 * collSize efmt) x.toNat)
  else match (collFmt efmt).value false x.toNat with
    | .nan _ => { a with nan := true }
    | .inf true => { a with ninf := true }
    | .inf false => { a with pinf := true }
    | .fin d => accPlus a (d.at (-149))

/-- Two accumulators combined exactly. -/
def accJoin (op efmt : Nat) (a b : RedAcc) : RedAcc :=
  let c := { a with nan := a.nan || b.nan, pinf := a.pinf || b.pinf, ninf := a.ninf || b.ninf
                    ext := extJoin op efmt a.ext b.ext }
  accPlus c b.sum

/-- The root's result in the destination format (R58). -/
def accResult (a : RedAcc) (h : Header) : DWord :=
  let f := collFmt h.dfmt
  if h.op != 0 then
    let x := a.ext.getD 0
    if h.dfmt = h.efmt then x else BitVec.ofNat 64 (f.ofFV 0 false ((collFmt h.efmt).value false x.toNat)).1
  else if 3 ≤ h.efmt then BitVec.ofInt 64 (signedOf (8 * collSize h.efmt) (BitVec.ofInt 64 a.sum).toNat)
  else if a.nan || (a.pinf && a.ninf) then BitVec.ofNat 64 f.qnan
  else if a.pinf || a.ninf then BitVec.ofNat 64 (f.inf a.ninf)
  else if a.sum = 0 then 0
  else BitVec.ofNat 64 (f.round 0 false (dyOfInt a.sum (-149))).1

/-! ### Rank entries -/

/-- Loads bytes for a collective engine: an address beyond 56 bits or in the fabric window has a fatal result. -/
def State.planLoad (s : State) (va n : Nat) : XRes (List Byte × State) :=
  if vaBad va n then .fault 0x08 va else if isFabric va then .fault 0x0A va else s.agentLoad va n

/-- Stores bytes for a collective engine. -/
def State.planStore (s : State) (va : Nat) (bs : List Byte) : XRes State :=
  if vaBad va bs.length then .fault 0x08 va else if isFabric va then .fault 0x0A va else s.agentStore va bs

/-- A rank entry (R333): source, destination and chunk-bit base, device and die. -/
structure RankEntry where
  src : Nat
  dst : Nat
  bits : Nat
  device : Nat
  die : Nat

/-- Reads a rank entry's bytes. -/
def RankEntry.ofBytes (bs : List Byte) : RankEntry :=
  { src := (dwordAt bs 0).toNat, dst := (dwordAt bs 8).toNat, bits := (dwordAt bs 16).toNat,
    device := natOf ((bs.drop 24).take 2), die := (bs.getD 26 0).toNat }

/-- A rank's entry as the engine reads it. -/
def State.rankEntry (s : State) (plan : DWord) (r : Nat) : RankEntry := .ofBytes (s.peek (plan.toNat + 64 + 32 * r) 32)

/-- Changes a plan in progress. -/
def State.modPlan (s : State) (va : DWord) (f : Plan → Plan) : State :=
  { s with plans := modifyFirst (·.addr == va) f s.plans }

/-- Removes a plan: its leave grants are released (R355). -/
def State.dropPlan (s : State) (p : Plan) : State :=
  p.joined.foldl (fun s j => s.dropGrants j.cohort fun g => g.use == 3 && g.tile == p.addr.toNat)
    { s with plans := s.plans.filter (·.addr != p.addr) }

/-- Aborts a plan: every rank's cohort receives a report (R355). -/
def State.abortPlan (s : State) (p : Plan) (sub : Nat) (addr : DWord) : State :=
  p.joined.foldl (fun s j => s.report j.cohort j.strand sub addr) (s.dropPlan p)

/-- The ranks of a plan that lie on this device. -/
def State.localRanks (s : State) (p : Plan) : List Nat :=
  (List.range (Header.ofWords p.header).npart).filter fun r => (s.rankEntry p.addr r).device = s.fabric.device

/-- Devices of a plan's ranks. -/
def State.planDevices (s : State) (p : Plan) : List Nat :=
  dedup ((List.range (Header.ofWords p.header).npart).map fun r => (s.rankEntry p.addr r).device)

/-- Every local rank has joined (R355). -/
def State.allJoined (s : State) (p : Plan) : Bool := (s.localRanks p).all fun r => p.joined.any (·.rank == r)

/-- Removes a plan that is complete at every local rank (R355). -/
def State.settlePlan (s : State) (va : DWord) : State :=
  match s.plans.find? (·.addr == va) with
  | none => s
  | some p =>
    let n := (Header.ofWords p.header).chunks
    if s.allJoined p && p.joined.all (fun j => (List.range n).all j.bits.contains) then s.dropPlan p else s

/-! ### COLL and WAITK -/

/-- The first of header words 0 to 5 in which two copies of a plan differ (21 R433). -/
def headerDiff (a b : List Word) : Option Nat := (List.range 6).find? fun j => wordAt a j != wordAt b j

/-- A rank joins its plan (R355); another device's copy of the header must agree (21 R433). -/
def State.joinPlan (s : State) (va : DWord) (header : List Word) (rank : Nat) : State :=
  let j : RankIn := { rank := rank, cohort := s.co.uid, strand := s.co.st.id, die := dieOf s.co.core, bits := []
                      src := match s.planLoad (s.rankEntry va rank).src (Header.ofWords header).bytes with
                        | .ok (bs, _) => bs
                        | _ => [] }
  match s.plans.find? (·.addr == va) with
  | none => { s with plans := s.plans ++ [{ addr := va, header := header, joined := [j], partials := [], sent := [] }] }
  | some p =>
    let s := s.modPlan va fun p => { p with joined := p.joined ++ [j] }
    match headerDiff header p.header with
    | some w => s.abortPlan { p with joined := p.joined ++ [j] } 6 (pairOf (wordAt header w) (BitVec.ofNat 32 w))
    | none => s

/-- `COLL` (R354, R341, R340). -/
def execColl (o : UeForm) (s : State) : Host.Outcome State Fault Refusal :=
  issueSeq (.coll o) (fun s =>
    let va := s.readU2 o.a.toNat
    let rk := (s.readU o.b.toNat).toNat
    let spec (a : DWord) (n align : Nat) : AccSpec :=
      { sp := false, order := 0, n := n, align := align, acc := .read, rmw := false, need := [], fabOk := false,
        lanes := [⟨127, a.toNat⟩] }
    let first (rs : List (Nat × List Byte)) : List Byte := match rs with
      | r :: _ => r.2
      | [] => []
    withAccess s (spec va 64 64) fun ps =>
      let (rs, s) := s.readPlaces [] ps
      let header := wordsOf 16 (first rs)
      match headerFault header with
      | some w => .trap (trapOf 0x1B 6 (pairOf (wordAt header w) (BitVec.ofNat 32 w)))
      | none =>
        let bad : Act := .trap (trapOf 0x1B 7 (BitVec.ofNat 64 rk))
        if (Header.ofWords header).npart ≤ rk then bad
        else withAccess s (spec (va + BitVec.ofNat 64 (64 + 32 * rk)) 32 1) fun ps =>
          let (rs, s) := s.readPlaces [] ps
          let e := RankEntry.ofBytes (first rs)
          let again := s.plans.any fun p => p.addr == va && p.joined.any (·.rank == rk)
          if e.device != s.fabric.device || e.die != dieOf s.co.core || again then bad
          else withLeave s true 4 fun t =>
            guardMse s { post := ((t.useGrant true 4 3 va.toNat).joinPlan va header rk).settlePlan va, hard := true }) s

/-- `WAITK` (R356): the read of the byte is an acquire at SCOPE; the wait is class I with the identity as inverse. -/
def execWaitk (o : UForm) (s : State) : Host.Outcome State Fault Refusal :=
  issueSeq (.waitk o) (fun s =>
    let scope := (o.d.extractLsb' 0 3).toNat
    let (va, bit) := match s.co.st.park with
      | some (.chunk a b) => (a, b)
      | _ =>
        let c := (s.readU o.b.toNat).toNat
        (s.readU2 o.a.toNat + BitVec.ofNat 64 (c / 8), c % 8)
    withAccess s
      { sp := false, order := 1, n := 1, align := 1, acc := .read, rmw := true, need := [], fabOk := false,
        lanes := [⟨127, va.toNat⟩] } fun ps =>
      match ps with
      | (_, p) :: _ =>
        let (bs, t) := (s.acquireAt s.co.core scope).objUpdate s.co.core (fun b => b) p
        if (bs.headD 0).getLsbD bit then
          .done { post := if scope = 5 then t.logHere .atomic [(bs.headD 0).setWidth 64] else t }
        else .park (.chunk va bit) s
      | [] => .park (.chunk va bit) s) s

/-! ### The collective engines (R335, R336, 21 R433) -/

/-- The elements of a chunk of a rank's source. -/
def State.chunkSource (s : State) (p : Plan) (c r : Nat) : XRes (List DWord × State) :=
  let h := Header.ofWords p.header
  let n := collSize h.efmt
  match s.planLoad ((s.rankEntry p.addr r).src + c * h.chunkb) (h.elems c * n) with
  | .ok (bs, s) => .ok ((List.range (h.elems c)).map fun k => BitVec.ofNat 64 (natOf ((bs.drop (n * k)).take n)), s)
  | .miss a => .miss a
  | .fault c a => .fault c a

/-- The exact accumulators of ranks' elements of a chunk (R58). -/
def State.reduceRanks (s : State) (p : Plan) (c : Nat) (accs : List RedAcc) : List Nat → XRes (List RedAcc × State)
  | [] => .ok (accs, s)
  | r :: rest =>
    let h := Header.ofWords p.header
    match s.chunkSource p c r with
    | .ok (xs, s) => s.reduceRanks p c ((accs.zip xs).map fun q => accAdd q.1 h.op h.efmt q.2) rest
    | .miss a => .miss a
    | .fault c a => .fault c a

/-- The accumulators of a chunk before any rank. -/
def Header.blank (h : Header) (c : Nat) : List RedAcc := List.replicate (h.elems c) accZero

/-- Accumulators joined element by element. -/
def joinAccs (h : Header) (a b : List RedAcc) : List RedAcc := (a.zip b).map fun q => accJoin h.op h.efmt q.1 q.2

/-- A piece that carries finished elements. -/
def valueAccs (xs : List DWord) : List RedAcc := xs.map fun x => { accZero with ext := some x }

/-- Elements of such a piece. -/
def accValues (l : List RedAcc) : List DWord := l.map fun a => a.ext.getD 0

/-- Sends a reduction piece or a chunk bit to another device (21 R420). -/
def State.sendPiece (s : State) (device : Nat) (piece : RedPiece) : State :=
  let m : FabMsg := { tid := s.fabric.tid, device := device, link := s.linkFor device piece.plan.toNat, kind := 8,
                      va := piece.plan, target := piece.plan, data := [], mask := [], op := none, cohort := 0, strand := 0,
                      lane := 0, size := 0, piece := some piece }
  { s with fabric := { s.fabric with out := s.fabric.out ++ [m], tid := s.fabric.tid + 1 } }

/-- Sends one piece to every device of a list. -/
def State.sendPieces (s : State) (devices : List Nat) (piece : RedPiece) : State :=
  devices.foldl (fun s d => s.sendPiece d piece) s

/-- The device of a chunk's root (R335). -/
def State.rootDevice (s : State) (p : Plan) (c : Nat) : Nat :=
  let h := Header.ofWords p.header
  let ds := s.planDevices p
  if h.kind = 1 then (s.rankEntry p.addr h.root).device
  else ds.getD (Config.chunkRoot p.addr.toNat c % max ds.length 1) s.fabric.device

/-- A received piece of a chunk. -/
def Plan.piece (p : Plan) (c ranks : Nat) : Option (List RedAcc) := (p.partials.find? fun q => q.1 == c && q.2.1 == ranks).map (·.2.2)

/-- Outcome of one look at a chunk for a rank. -/
inductive ChunkRes where
  /-- the data that the rank receives: address offset from its destination, and bytes -/
  | write (s : State) (parts : List (Nat × List Byte))
  /-- the rank receives nothing; its source has been read -/
  | nothing (s : State)
  | wait (s : State)
  | fault (code va : Nat)

/-- Outcome of a step of the engine that may miss or fault. -/
def XRes.chunk {α : Type} (die : Nat) (s : State) (r : XRes α) (k : α → ChunkRes) : ChunkRes :=
  match r with
  | .ok a => k a
  | .miss va => .wait (s.absent die va)
  | .fault c va => .fault c va

/-- A rank of this device changed the source of a chunk since its `COLL` (R336). -/
def State.srcChanged (s : State) (p : Plan) (c : Nat) : Bool :=
  let h := Header.ofWords p.header
  let n := h.elems c * collSize h.efmt
  p.joined.any fun j => !j.src.isEmpty && match s.planLoad ((s.rankEntry p.addr j.rank).src + c * h.chunkb) n with
    | .ok (bs, _) => bs != (j.src.drop (c * h.chunkb)).take n
    | _ => false

/-- The results of a chunk, or free values when one of its sources has changed (R336). -/
def State.results (s : State) (p : Plan) (c : Nat) (xs : List DWord) : List DWord :=
  if s.srcChanged p c then (List.range xs.length).map fun k =>
    BitVec.ofNat 64 (natOf ((spanNat (8 * k) 8).map fun b => Config.lostByte s.tick b))
  else xs

/-- Where a reduced chunk lies at a destination: its offset scaled by DFMT (R334). -/
def Header.dstOffset (h : Header) (c : Nat) : Nat := c * h.chunkb / collSize h.efmt * collSize h.dfmt

/-- A rank receives data of a chunk (R334). -/
def Header.receives (h : Header) (c r : Nat) : Bool :=
  if h.kind = 1 then r = h.root else if h.kind = 4 then r = c % h.npart else true

/-- The elements of a chunk that a reducing plan delivers, once they are known on this device: from its own root, or from
the root device's piece. This device's partial goes out once. -/
def State.reduced (s : State) (p : Plan) (c die : Nat) (k : Option (List DWord) → State → ChunkRes) : ChunkRes :=
  let h := Header.ofWords p.header
  let own := s.localRanks p
  let root := s.rootDevice p c
  let others := (s.planDevices p).filter (· != s.fabric.device)
  XRes.chunk die s (s.reduceRanks p c (h.blank c) own) fun (accs, s) =>
    if root = s.fabric.device then
      let got := p.partials.filter fun q => q.1 == c && q.2.1 != 0
      if own.length + got.foldl (fun n q => n + q.2.1) 0 < h.npart then k none s
      else
        let all := got.foldl (fun a q => joinAccs h a q.2.2) accs
        let xs := s.results p c (all.map fun a => accResult a h)
        if p.sent.contains c then k (some xs) s
        else k (some xs) ((s.sendPieces others ⟨p.addr, c, 0, p.header, valueAccs xs⟩).modPlan p.addr fun p =>
          { p with sent := c :: p.sent })
    else
      let s := if p.sent.contains c then s
        else (s.sendPiece root ⟨p.addr, c, own.length, p.header, accs⟩).modPlan p.addr fun p => { p with sent := c :: p.sent }
      k ((p.piece c 0).map accValues) s

/-- The elements of a chunk of another rank's source: read here, or received (R334, KIND 2 and 3). -/
def State.rankChunk (s : State) (p : Plan) (c r : Nat) : XRes (Option (List DWord) × State) :=
  if (s.localRanks p).contains r then
    match s.chunkSource p c r with
    | .ok (xs, s) => .ok (some (s.results p c xs), s)
    | .miss a => .miss a
    | .fault c a => .fault c a
  else .ok ((p.piece c r).map accValues, s)

/-- The chunks of every rank of a list, or `none` while one is missing. -/
def State.rankChunks (s : State) (p : Plan) (c : Nat) : List Nat → XRes (Option (List (Nat × List DWord)) × State)
  | [] => .ok (some [], s)
  | r :: rest => match s.rankChunk p c r with
    | .miss a => .miss a
    | .fault c a => .fault c a
    | .ok (none, s) => .ok (none, s)
    | .ok (some xs, s) => match s.rankChunks p c rest with
      | .ok (l, s) => .ok (l.map fun l => (r, xs) :: l, s)
      | .miss a => .miss a
      | .fault c a => .fault c a

/-- Sends this device's source ranks of a chunk to the other devices, once (KIND 2 and 3). -/
def State.shareChunk (s : State) (p : Plan) (c : Nat) (l : List (Nat × List DWord)) : State :=
  if p.sent.contains c then s
  else
    let others := (s.planDevices p).filter (· != s.fabric.device)
    (l.foldl (fun s q => s.sendPieces others ⟨p.addr, c, q.1, p.header, valueAccs q.2⟩) s).modPlan p.addr fun p =>
      { p with sent := c :: p.sent }

/-- One look at a chunk for a rank (R334, R335). -/
def State.chunkFor (s : State) (p : Plan) (c r die : Nat) : ChunkRes :=
  let h := Header.ofWords p.header
  let n := collSize h.efmt
  if h.reduces then
    s.reduced p c die fun xs s =>
      if !h.receives c r then .nothing s
      else match xs with
        | some xs => .write s [(h.dstOffset c, xs.flatMap fun x => bytesOf (collSize h.dfmt) x.toNat)]
        | none => .wait s
  else
    let srcs := if h.kind = 2 then [h.root] else List.range h.npart
    let own := srcs.filter (s.localRanks p).contains
    XRes.chunk die s (s.rankChunks p c own) fun (l, s) =>
      let s := s.shareChunk p c (l.getD [])
      XRes.chunk die s (s.rankChunks p c srcs) fun (l, s) =>
        match l with
        | none => .wait s
        | some l => .write s (l.map fun q =>
            ((if h.kind = 2 then 0 else q.1 * h.bytes) + c * h.chunkb, q.2.flatMap fun x => bytesOf n x.toNat))

/-- Writes the parts of a chunk at a destination. -/
def State.writeParts (s : State) (dst : Nat) : List (Nat × List Byte) → XRes State
  | [] => .ok s
  | (o, bs) :: rest => match s.planStore (dst + o) bs with
    | .ok t => t.writeParts dst rest
    | .miss a => .miss a
    | .fault c a => .fault c a

/-- Sets a rank's chunk bit by a release (R336). -/
def State.setChunkBit (s : State) (bits c : Nat) : XRes State :=
  match s.planLoad (bits + c / 8) 1 with
  | .ok (bs, s) => s.planStore (bits + c / 8) [bs.headD 0 ||| BitVec.ofNat 8 (2 ^ (c % 8))]
  | .miss a => .miss a
  | .fault c a => .fault c a

/-- One look of the engine at a chunk for a rank (R336): the data, then the bit; a fatal fault aborts the plan (R355). -/
def State.runChunk (s : State) (va : DWord) (c r : Nat) : State :=
  match s.plans.find? (·.addr == va) with
  | none => s
  | some p =>
    let h := Header.ofWords p.header
    match p.joined.find? (·.rank == r) with
    | none => s
    | some j =>
      let stop (t : State) (code a : Nat) : State :=
        match t.plans.find? (·.addr == va) with
        | some p => t.abortPlan p code (BitVec.ofNat 64 a)
        | none => t
      if h.chunks ≤ c || j.bits.contains c || !s.allJoined p then s
      else if 1 < (s.planDevices p).length && h.scope != 5 then s.abortPlan p 6 (pairOf (wordAt p.header 5) 5)
      else
        let e := s.rankEntry va r
        let mark (t : State) : State :=
          match t.setChunkBit e.bits c with
          | .miss a => t.absent j.die a
          | .fault code a => stop t code a
          | .ok t => (t.modPlan va fun p =>
              { p with joined := modifyFirst (·.rank == r) (fun j => { j with bits := c :: j.bits }) p.joined }).settlePlan va
        match s.chunkFor p c r j.die with
        | .wait t => t
        | .fault code a => stop s code a
        | .nothing t => mark t
        | .write t parts => match t.writeParts e.dst parts with
          | .miss a => t.absent j.die a
          | .fault code a => stop t code a
          | .ok t => mark t

/-- A piece from another device joins its plan (21 R433). -/
def State.takePiece (s : State) (x : RedPiece) : State :=
  match s.plans.find? (·.addr == x.plan) with
  | none => { s with plans := s.plans ++ [{ addr := x.plan, header := x.header, joined := [],
                                            partials := [(x.chunk, x.ranks, x.accs)], sent := [] }] }
  | some p =>
    match headerDiff p.header x.header with
    | some w => s.abortPlan p 6 (pairOf (wordAt p.header w) (BitVec.ofNat 32 w))
    | none => s.modPlan x.plan fun p => { p with partials := p.partials ++ [(x.chunk, x.ranks, x.accs)] }

/-- Chunks and ranks that the engine of a plan may look at. -/
def State.chunksDue (s : State) (p : Plan) : List (Nat × Nat) :=
  if !s.allJoined p then []
  else (List.range (Header.ofWords p.header).chunks).flatMap fun c =>
    (p.joined.filter fun j => !j.bits.contains c).map fun j => (c, j.rank)

/-- Event COLL_CHUNK (R336, R355). -/
def execCollChunk (plan : DWord) (chunk rank : Nat) (s : State) : Host.Outcome State Fault Refusal :=
  .next (s.runChunk plan chunk rank)

end Sys2Proof.Machine
end

