-- ==== Sys2Proof/Machine/Debug.lean ====
section
/-! DEFINITION. Halts, the program buffer, breakpoints, marks and snapshots (20 R398-R403, R409). -/

namespace Sys2Proof.Machine

/-! ### Halting (R398, R399) -/

/-- Halts the focused cohort with its focused strand as the halted one, and reports to the debug agent. -/
def State.haltDebug (s : State) (source : Nat) (tag : Word) : State :=
  let c := s.co
  let t := (s.setCo fun c => { c with halt := some (.debug source tag c.st.id), haltReq := none, stepping := none }).toAgent
    (.halt source tag c.core c.blockIdx c.cid c.st.id (c.st.pc.setWidth 64) c.st.icnt)
  t.trace 12 source []

/-- The strand could issue, were no other rule in the way: it waits for nothing. -/
def Strand.free (t : Strand) : Bool := t.park.isNone

/-- Event HALT_REQUEST (R399): taken at the next issue boundary, or at once when every strand is parked. -/
def execHaltRequest (co : Nat) (s : State) : Host.Outcome State Fault Refusal :=
  match s.cohort? co with
  | none => .next s
  | some c =>
    if c.halt.isSome || c.ending || !s.host.debugOpen then .next s
    else if c.saved.isNone && !(c.dir && !c.tm) && !c.strands.any Strand.free then
      .next ((s.focus co c.lowest).haltDebug 0 0)
    else .next (s.modCohort co fun c => { c with haltReq := some 0 })

/-- The strand of a halted cohort. -/
def Cohort.haltedStrand (c : Cohort) : Option Nat :=
  match c.halt with
  | some (.debug _ _ id) => some id
  | _ => none

/-! ### Snapshots (R409) -/

/-- What a bank latches of a cohort. -/
def Cohort.snap (c : Cohort) : SnapCohort :=
  { cid := c.cid, strands := c.strands.map fun t => (t.id, t.pc.setWidth 64, t.icnt)
    dir := boolWord c.dir ||| (boolWord c.tm <<< 1), wheyt := c.wheyt, width := c.width, stalls := c.stalls }

/-- The common trigger: every armed bank latches, or counts a trigger that it ignores. -/
def State.trigger (s : State) (source : Nat) (tag : Word) : State :=
  { s with blocks := s.blocks.map fun b =>
      if !b.armed then b
      else if b.latched.isSome then { b with lost := min 255 (b.lost + 1) }
      else { b with latched := some { time := s.time, source := source, tag := tag
                                      cohorts := (s.cohorts.filter (·.block == b.uid)).map Cohort.snap } } }

/-- Event SNAPSHOT_AGENT_TRIGGER (R409). -/
def execSnapshotAgentTrigger (s : State) : Host.Outcome State Fault Refusal := .next (s.trigger 0 0)

/-- Event SNAPSHOT_INPUT (R409): the module's snapshot input signal. -/
def execSnapshotInput (s : State) : Host.Outcome State Fault Refusal := .next (s.trigger 3 0)

/-- Event SNAPSHOT_ARM (R409). -/
def execSnapshotArm (block : Nat) (s : State) : Host.Outcome State Fault Refusal :=
  .next (s.modBlock block fun b => { b with armed := true, latched := none, lost := 0 })

/-! ### SNAP, TMARK, DBRK (R403) -/

/-- `SNAP`: the issuing strand is latched at the instruction. -/
def execSnap (o : UxForm) (s : State) : Host.Outcome State Fault Refusal :=
  issueSeq (.snap o) (fun s => .done { post := s.trigger 1 ((o.ext.setWidth 16).setWidth 32) }) s

/-- `TMARK`: a MARK packet of a cohort under full trace. -/
def execTmark (o : UxForm) (s : State) : Host.Outcome State Fault Refusal :=
  issueSeq (.tmark o) (fun s =>
    .done { post := s.trace 8 (o.ext.setWidth 16).toNat [s.readU o.a.toNat] }) s

/-- `DBRK`: completes, then halts the cohort when the session has breakpoints enabled for its launch. -/
def execDbrk (o : UxForm) (s : State) : Host.Outcome State Fault Refusal :=
  issueSeq (.dbrk o) (fun s =>
    if s.host.debugOpen && s.dbg.breaks.contains s.co.launch then
      match s.tryComplete { post := s } (seqNext s.pcAddr (Instr.dbrk o).length) with
      | .ok t => .whole (t.haltDebug 1 ((o.ext.setWidth 16).setWidth 32))
      | .error t => .whole t
    else .done { post := s }) s

/-! ### The agent's moves (R400-R402) -/

/-- Event PROGRAM_BUFFER (R400): up to 16 words run on the halted strand, in debug mode. -/
def execProgramBuffer (co : Nat) (words : List Word) (s : State) : Host.Outcome State Fault Refusal :=
  match s.cohort? co with
  | none => .next s
  | some c => match c.haltedStrand with
    | some id =>
      if s.dbg.buffer.isSome || !s.host.debugOpen || 16 < words.length || words.isEmpty || c.saved.isSome then .next s
      else
        let s := s.focus co id
        .next (({ s with dbg := { s.dbg with buffer := some (co, words), held := s.co.st.park } }.setCo fun c =>
          { c with debug := true }).setSt fun t => { t with park := none })
    | none => .next s

/-- Ends a run of the program buffer that met no fault. -/
def State.endBuffer (s : State) : State :=
  let held := s.dbg.held
  ({ s with dbg := { s.dbg with buffer := none, held := none } }.setCo fun c => { c with debug := false }).setSt fun t =>
    { t with park := held }

/-- Event DARG_WRITE (R401). -/
def execDargWrite (value : DWord) (s : State) : Host.Outcome State Fault Refusal :=
  if s.host.debugOpen then .next { s with dbg := { s.dbg with darg := value } } else .next s

/-- Lets the halted cohort in focus go on. -/
def State.resumeCo (s : State) : State :=
  (s.setCo fun c => { c with halt := none }).trace 12 16 []

/-- A halted cohort that no buffer runs on. -/
def State.resumable (s : State) (co : Nat) : Option Nat :=
  match s.cohort? co with
  | none => none
  | some c => if c.debug then none else c.haltedStrand

/-- Event RESUME (R402). -/
def execResume (co : Nat) (s : State) : Host.Outcome State Fault Refusal :=
  match s.resumable co with
  | some id => .next ((s.focus co id).resumeCo)
  | none => .next s

/-- Event SINGLE_STEP (R402): the halted strand issues one instruction and halts again. -/
def execSingleStep (co : Nat) (s : State) : Host.Outcome State Fault Refusal :=
  match s.resumable co with
  | some id => .next (((s.focus co id).resumeCo).setCo fun c => { c with stepping := some id })
  | none => .next s

/-- Event RESUME_AT_PC (R402): the new pc is checked as `TRET` checks a written `%tpc`, and commits. -/
def execResumeAtPc (co : Nat) (pc : DWord) (s : State) : Host.Outcome State Fault Refusal :=
  match s.resumable co with
  | none => .next s
  | some id =>
    let s := (s.focus co id).filledFor pc
    match s.checkArrival pc false false with
    | .bad c sub info => .next (s.toAgent (.resumeFail c sub info))
    | .fill _ => .next s
    | .page va => .next (s.absent (dieOf s.co.core) va.toNat)
    | .ok => .next (((s.setCo Cohort.commit).setPc pc).setSt (fun t => { t with park := none })).resumeCo

end Sys2Proof.Machine
end

