-- ==== Sys2Proof/Machine/Walk.lean ====
section
/-! DEFINITION. The reverse walk (01 R23-R27, 07 R167-R171, 11 R266, 19 R382): one step back at a time, driven by the
records, with the inverses of class-I instructions (04 R86, 05 R121, 12 R274, R277, R280). -/

namespace Sys2Proof.Machine

/-! ### Inverses of class I -/

/-- The inverse of an odd number modulo 2^32. -/
def oddInverse (b : Word) : Word :=
  let f (x : Word) : Word := x * (2 - b * x)
  f (f (f (f b)))

/-- Lanes of a register that the records of an instruction restore. -/
def covered (recs : List RecBody) (d : Nat) : LaneSet :=
  recs.foldl (fun m r => match r with
    | .lane v k _ => if v == d then m ||| k else m
    | _ => m) 0

/-- Changes a register in the active lanes that no record covers. -/
def State.invertV (s : State) (recs : List RecBody) (d : Nat) (f : Word → Nat → Word) : State :=
  s.writeV d (s.co.st.mask &&& ~~~(covered recs d)) (laneVals fun i => f (s.co.vlane d i) i)

/-- The inverse of a lane operation of two sources (05 R121): A names D and b does not. -/
def State.invert2 (s : State) (recs : List RecBody) (o : LForm) (f : Word → Word → Word) : State :=
  if o.a == o.d && bNotD o.b o.d then
    let b := s.laneSrc o.b o.lit
    s.invertV recs o.d.toNat fun x i => f x (wordAt b i)
  else s

/-- The inverse of a lane operation of one source. -/
def State.invert1 (s : State) (recs : List RecBody) (o : LForm) (f : Word → Word) : State :=
  if o.a == o.d then s.invertV recs o.d.toNat fun x _ => f x else s

/-- A uniform or mask record restores what the instruction wrote. -/
def uniRecorded (recs : List RecBody) : Bool := recs.any fun r => match r with
  | .uni .. | .mask _ => true
  | _ => false

/-- The inverse of a uniform operation of two sources (04 R86). -/
def State.invertU2 (s : State) (o : UForm) (f : Word → Word → Word) : State :=
  if o.d == o.a && o.b != o.d then s.writeU o.d.toNat (f (s.readU o.d.toNat) (s.readU o.b.toNat)) else s

/-- Undoes an instruction in the lanes and registers that no record covers (05 R121, 04 R86, R88). -/
def State.invert (s : State) (i : Instr) (recs : List RecBody) : State :=
  match i with
  | .iadd o => s.invert2 recs o (· - ·)
  | .isub o => s.invert2 recs o (· + ·)
  | .imul o => s.invert2 recs o fun x b => x * oddInverse b
  | .ixor o => s.invert2 recs o (· ^^^ ·)
  | .rol o => s.invert2 recs o rorW
  | .ror o => s.invert2 recs o rolW
  | .inot o => s.invert1 recs o (~~~ ·)
  | .ineg o => s.invert1 recs o (0 - ·)
  | .brev o => s.invert1 recs o brevW
  | .fneg o => s.invert1 recs o (· ^^^ 0x80000000)
  | .swap o =>
    let m := s.co.st.mask
    let x := s.co.vreg o.d.toNat
    let y := s.co.vreg o.a.toNat
    (s.writeV o.d.toNat m y).writeV o.a.toNat m x
  | i =>
    if uniRecorded recs then s
    else match i with
      | .uadd o => s.invertU2 o (· - ·)
      | .usub o => s.invertU2 o (· + ·)
      | .umul o => s.invertU2 o fun x b => x * oddInverse b
      | .uxor o => s.invertU2 o (· ^^^ ·)
      | .urol o => s.invertU2 o rorW
      | .unot o => if o.d == o.a then s.writeU o.d.toNat (~~~ (s.readU o.d.toNat)) else s
      | .uswap o =>
        let x := s.readU o.d.toNat
        let y := s.readU o.a.toNat
        (s.writeU o.d.toNat y).writeU o.a.toNat x
      | .uadd64 o =>
        if o.d == o.a && o.b != o.d then
          s.writeUs (pairWrites o.d.toNat (s.readU2 o.d.toNat - s.readU2 o.b.toNat))
        else s
      | .uaddi o => s.writeU o.d.toNat (s.readU o.d.toNat - o.imm.signExtend 32)
      | .uxori o => s.writeU o.d.toNat (s.readU o.d.toNat ^^^ o.imm.setWidth 32)
      | _ => s

/-- Writes registers from d in the lanes of results. -/
def State.writeRegs (s : State) (d k : Nat) (m : LaneSet) (rs : List (Nat × List Word)) : State :=
  (regDests m d k rs).foldl (fun s x => match x with
    | .v n m vals => s.writeV n m vals
    | _ => s) s

/-- An access of a walk: plain, at `.wv` (01 R24). -/
def plainSpec (a : AccSpec) : AccSpec := { a with order := 0 }

/-- The load-xor again (12 R274). -/
def reloadXor (s : State) (o : LmForm) (sp : Bool) : Act :=
  let k := sizeRegs o.sizeN
  withAccess s (plainSpec (lmSpec s o sp (disp20 o) .read false .read)) fun ps =>
    let (rs, t) := s.readPlaces [] ps
    let vals := (lanesOf s.co.st.mask).map fun i => (i, xorValue s o rs i)
    .done { post := t.writeRegs o.d.toNat k s.co.st.mask vals }

/-- The exchange again, lanes descending (12 R277). -/
def reexchange (s : State) (o : LmForm) (sp : Bool) : Act :=
  let k := sizeRegs o.sizeN
  withAccess s (plainSpec (lmSpec s o sp (disp20 o) .write true .write)) fun ps =>
    let (ws, t) := s.rmwPlaces (fun x _ => laneBytes s.co o.d.toNat (2 ^ o.sizeN) x.lane) [] ps.reverse
    .done { post := t.writeRegs o.d.toNat k s.co.st.mask (ws.map fun w => (w.1.lane, wordsOf 4 w.2.2)) }

/-- The uniform exchange again (12 R286). -/
def reexchangeU (s : State) (o : UxForm) : Act :=
  let n := if o.w64 then 8 else 4
  withAccess s (uniSpec s o.sp 0 n .write true .write o.a.toNat ((o.ext.extractLsb' 0 16).signExtend 64)) fun ps =>
    let (ws, t) := s.rmwPlaces (fun _ _ => bytesOf n (uniNum s o.w64 o.d.toNat)) [] ps
    .done { post := t.writeUs (uniDests o.d.toNat (match ws with
      | w :: _ => wordsOf 2 w.2.2
      | [] => [])) }

/-- What a walking strand waits for, as its inverse accumulate sees it. -/
def Wait.toUndo : Wait → Wait
  | .resource .undoing => .resource .eddy
  | w => w

/-- What its inverse accumulate waits for, as the walking strand holds it. -/
def Wait.fromUndo : Wait → Wait
  | .resource .eddy => .resource .undoing
  | w => w

/-- Undoes a class-I access to memory, as an access of the walk (12 R274, R277, R280, R286). -/
def memInverse (s : State) (i : Instr) (recs : List RecBody) : Act :=
  match i with
  | .ldx o => reloadXor s o false
  | .ldsx o => reloadXor s o true
  | .acc o => accAct s (plainSpec (lmSpec s o false (disp16 o) .write false .write)) o.aop
      (fun x => 0 - BitVec.ofNat 64 (laneNum s.co o.d.toNat (sizeRegs o.sizeN) x.lane))
  | .xchg o => if recs.isEmpty then reexchange s o false else .done { post := s }
  | .xchgs o => if recs.isEmpty then reexchange s o true else .done { post := s }
  | .uxchg o => if recs.isEmpty then reexchangeU s o else .done { post := s }
  | _ => .done { post := s }

/-! ### Which record comes next (01 R23, 07 R167) -/

/-- A record of the mechanism names a strand (07 R167). -/
def Rec.names (r : Rec) (id : Nat) : Bool :=
  match r.body with
  | .div t n .. => t == id || n == id
  | .rejoin res .. => res == id
  | _ => false

/-- The count before a strand's latest instruction, as word B holds it. -/
def Strand.lastB (t : Strand) : Word := (t.icnt - 1).low

/-- The record on top that the focused strand's step back serves (07 R167). -/
def Cohort.mechanism (c : Cohort) : Option Rec :=
  match c.whey with
  | r :: _ => if r.names c.st.id && r.count == c.st.lastB then some r else none
  | [] => none

/-- The strand stands where a come-from record names its predecessor: at a marked target, unless it came there by emptying
its held set (07 R166). -/
def State.atTarget (s : State) : Bool := s.co.st.held != 0 && s.markedTarget s.pcAddr

/-- `needs_record` of R23 for the focused strand. -/
def State.needsRecord (s : State) : Bool :=
  s.atTarget || match s.co.whey.find? fun r => r.strand == s.co.st.id || r.names s.co.st.id with
    | some r => (match r.body with | .come .. => false | _ => true) && r.count == s.co.st.lastB
    | none => false

/-- The instruction at an address, from the launch's pinned line (03 R63). -/
def State.instrAt (s : State) (va : DWord) : Option Instr :=
  match s.pinned s.co.launch (lineOf va) with
  | some ws => match decode ((ws.drop (slotOf va)).take 3) with
    | .ok i => some i
    | .error (.reserved i) => some i
    | .error _ => none
  | none => none

/-- The last slot of a line below a limit that begins an instruction. -/
def lastStart (ws : List Word) : Nat → Option Nat
  | 0 => none
  | n + 1 => if startBit ws n then some n else lastStart ws n

/-- The previous slot marked as a start (R23, 03 R61): its address, or slot 31 of the line below when that line has none. -/
def State.prevStart (s : State) (va : DWord) : Except DWord DWord :=
  let line := lineOf va
  let words (l : DWord) : List Word := (s.pinned s.co.launch l).getD []
  match lastStart (words line) (slotOf va) with
  | some k => .ok (line + BitVec.ofNat 64 (4 * k))
  | none => match lastStart (words (line - 128)) 32 with
    | some k => .ok (line - 128 + BitVec.ofNat 64 (4 * k))
    | none => .error (line - 4)

/-! ### One step back -/

/-- A fault of a walk (01 R24): the walk stops with `%dir.DIR` 1, and the walking strand takes the trap. -/
def State.walkFault (s : State) (w : Walk) (t : Trap) : State :=
  (s.setCo fun c => c.focus w.strand).raise { t with walk := true }

/-- Checks that the region still holds what the record mechanism wrote, before `k` pops the record (01 R15, R16). -/
def State.withIntact (s : State) (w : Walk) (r : Rec) (k : Unit → State) : State :=
  match s.wheyIntact r with
  | .miss va => s.parkMiss va
  | .fault c va => s.haltTrap (trapOf c 0 (BitVec.ofNat 64 va))
  | .ok false => s.walkFault w (trapOf 0x0F 1 (r.count.setWidth 64))
  | .ok true => k ()

/-- The same for records from the top, each popped in turn. -/
def State.withAllIntact (s t : State) (w : Walk) : List Rec → (Unit → State) → State
  | [], k => k ()
  | r :: rest, k =>
    match t.wheyIntact r with
    | .miss va => s.parkMiss va
    | .fault c va => s.haltTrap (trapOf c 0 (BitVec.ofNat 64 va))
    | .ok false => s.walkFault w (trapOf 0x0F 1 (r.count.setWidth 64))
    | .ok true => s.withAllIntact (t.setCo Cohort.popWhey) w rest k

/-- Where a Memory record's bytes lie. -/
def State.recPlace (s : State) (sp : Bool) (addr : DWord) (n : Nat) : PRes :=
  if sp then s.spPlace s.co.origin addr.toNat n else s.devPlace .write addr.toNat n

/-- Outcome of the checks of Memory records. -/
inductive RecCheck where
  | ok (ps : List (Place × List Byte))
  | miss (va : Nat)
  | wait (w : Wait)
  | bad (code sub : Nat) (info : DWord)

/-- The checks of R23 on the Memory records of an instruction: each is found, present and unchanged. -/
def State.checkRecs (s : State) : List RecBody → RecCheck
  | [] => .ok []
  | .mem _ sp addr old new :: rest =>
    match s.recPlace sp addr old.length with
    | .miss va => .miss va
    | .late c sub va => .bad c sub (BitVec.ofNat 64 va)
    | .wait w => .wait w
    | .ok p =>
      let x : LaneAcc × Place := (⟨127, addr.toNat⟩, p)
      if !s.linesReady 0 (spLines [x]) then .wait .line
      else match s.poisonOf x with
        | some va => .bad 0x0B 0 (BitVec.ofNat 64 va)
        | none =>
          if s.oldBytes p != new then .bad 0x0F 0 addr
          else match s.checkRecs rest with
            | .ok ps => .ok ((p, old) :: ps)
            | r => r
  | _ :: rest => s.checkRecs rest

/-- Restores from one record that is not a Memory record; the Mask record of an `EXIT` or `TEND` returns its lanes to the
strand (07 R169). -/
def State.restoreRec (s : State) (exits : Bool) : RecBody → State
  | .lane v m old => s.writeV v m (writeLanes [] (spreadLanes m old))
  | .uni c w =>
    if 225 ≤ c && c ≤ 227 then s.setCo fun co => { co with exm := setMaskWord co.exm (c - 225) w }
    else if c < 192 then s.setCo fun co => { co with s := co.s.set c w }
    else s.writeU c w
  | .mask m => s.setSt fun t => { t with mask := m, held := if exits then t.held ||| m else t.held }
  | .flags f => s.setCo fun c => { c with fmode := fmodeSetSf c.fmode f }
  | _ => s

/-- The records that the latest instruction of the focused strand pushed, top first, arrival excluded. -/
def Cohort.ownRecs (c : Cohort) : List Rec :=
  c.whey.takeWhile fun r => r.strand == c.st.id && r.count == c.st.lastB && match r.body with
    | .come .. | .div .. | .rejoin .. => false
    | _ => true

/-- Undoes the focused strand's instruction at `q`. `t` is `s` with the arrival, or the switch, already taken back; a
check that fails leaves `s` (01 R23). -/
def State.undo (s t : State) (w : Walk) (q : DWord) : State :=
  match s.checkArrival q true false with
  | .bad c sub info => s.walkFault w (trapOf c sub info)
  | .fill l => s.parkSt (.fill l)
  | .page va => s.parkSt (.page va)
  | .ok => match s.instrAt q with
    | none => s.walkFault w (trapOf 0x04 0 q)
    | some i =>
      let own := t.co.ownRecs
      let bodies := own.map (·.body)
      let exits := match i with
        | .exit _ => true
        | _ => false
      s.withAllIntact t w own fun _ =>
        match t.checkRecs bodies with
        | .miss va => s.parkMiss va
        | .wait x => s.parkSt x
        | .bad c sub info => s.walkFault w (trapOf c sub info)
        | .ok ps =>
          match memInverse (s.setSt fun st => { st with park := st.park.map Wait.toUndo }) i bodies with
          | .trap x => s.walkFault w x
          | .late ev => s.walkFault w (trapOf ev.code ev.sub ev.info)
          | .miss va => s.parkMiss va
          | .park x u => u.parkSt x.fromUndo
          | .whole u => u
          | .done e =>
            let u := { e.post with co := { e.post.co with whey := t.co.whey, wheyWb := t.co.wheyWb, stack := t.co.stack,
                                                          st := { e.post.co.st with mask := t.co.st.mask, cfr := t.co.st.cfr } } }
            let u := ps.foldl (fun u p => u.storePlace p.2 p.1) u
            let u := own.foldl (fun u _ => u.setCo Cohort.popWhey) u
            let u := (bodies.foldl (fun u b => u.restoreRec exits b) u).invert i bodies
            let u := u.setCo fun c => c.modInner c.st.id fun e => if e.ser then e else e.mark c.st.id false
            let u := if w.kind == .device then { u with dbg := { u.dbg with log := u.dbg.log.filter fun l =>
                !(l.cohort == u.co.uid && l.strand == u.co.st.id && l.count == u.co.st.icnt - 1) } } else u
            u.setSt fun st =>
              { st with pc := q.setWidth 56, icnt := st.icnt - 1, park := none, late := none
                        outst := st.outst.filter (·.count < st.icnt - 1) }

/-- Consumes one arrival of the come-from record on top (01 R23). -/
def Cohort.consume (c : Cohort) (run : Nat) (pred : DWord) : Cohort :=
  let c := { c with st := { c.st with cfr := pred.low } }
  if run ≤ 1 then c.popWhey
  else { c with whey := match c.whey with
    | r :: rest => { r with body := .come (run - 1) pred } :: rest
    | [] => [] }

/-- One step back of the focused strand that serves no record of the mechanism (01 R23). -/
def State.stepBack (s : State) (w : Walk) : State :=
  if s.atTarget then
    match s.co.whey with
    | r :: _ => match r.body with
      | .come run pred =>
        if r.strand == s.co.st.id then s.withIntact w r fun _ => s.undo (s.setCo fun c => c.consume run pred) w pred
        else s.walkFault w (trapOf 0x0F 1 (r.count.setWidth 64))
      | _ => s.walkFault w (trapOf 0x0F 1 (r.count.setWidth 64))
    | [] => s.walkFault w (trapOf 0x0F 1 0)
  else match s.prevStart s.pcAddr with
    | .ok q => s.undo s w q
    | .error a => s.walkFault w (trapOf 0x04 0 a)

/-! ### Serving the mechanism's records (07 R168-R170) -/

/-- Serves a serial switch, or a move to the join, with the instruction at its address (R169). The deferred side began
where the strand stands. -/
def State.serveSwitch (s : State) (w : Walk) (jn : Bool) (taken : LaneSet) (addr : DWord) : State :=
  let t := (s.setCo Cohort.popWhey).setSt fun st => { st with mask := taken }
  let t := if jn then t else t.setCo fun c => c.modInner c.st.id fun e =>
    { e with second := false, dstart := c.st.pc.setWidth 64 }
  s.undo t w addr

/-- Reverses a split (R168) once both strands stand at its first positions. -/
def State.serveSplit (s : State) (p x : Nat) (ser : Bool) (taken other : LaneSet) (addr : DWord) : State :=
  let s := s.setCo fun c => c.focus p
  let kid := if ser then none else s.co.strand? x
  let t := (s.setCo Cohort.popWhey).setCo fun c =>
    let c := c.dropInner p
    if ser then c else { c with sibs := c.sibs.filter (·.id != x) }
  t.setSt fun st =>
    let st := { st with mask := taken ||| other, held := if ser then st.held else st.held ||| other
                        pc := addr.setWidth 56, icnt := st.icnt - 1, park := none, late := none }
    match kid with
    | none => st
    | some k => { st with unacked := st.unacked ++ k.unacked, horizon := max st.horizon k.horizon
                          reports := st.reports ++ k.reports, copies := st.copies ++ k.copies
                          fabErr := match st.fabErr with
                            | none => k.fabErr
                            | e => e
                          outst := (st.outst ++ k.outst).filter (·.count < st.icnt) }

/-- The largest count not above another whose low word is given (R170). -/
def countBelow (m : DWord) (w : Word) : DWord :=
  let x := pairOf m.high w
  if x ≤ m then x else x - 0x100000000

/-- Reverses a merge (R170): the entry stands again, and each named strand at the `REGANG`. -/
def State.serveRejoin (s : State) (res : Nat) (parts : List RejoinPart) (addr : DWord) : State :=
  let t := s.co.st
  let ser := parts.length == 1
  let other := match parts.find? (·.id != res) with
    | some p => p.id
    | none => res
  let dmask : LaneSet := match parts with
    | [p] => p.mask
    | _ => 0
  let e : Entry := { parent := res, cha := res, chb := other, ser := ser, join := some addr, second := ser, arra := !ser,
                     arrb := !ser, pmask := t.mask, dmask := if ser then dmask else 0, dstart := 0 }
  let back (p : RejoinPart) : Strand :=
    let base : Strand := if p.id == res then t else
      { t with outst := [], unacked := [], fabErr := none, reports := [], copies := [] }
    { base with id := p.id, mask := p.mask, held := p.held, icnt := countBelow (t.icnt - 1) p.count
                pc := addr.setWidth 56, park := if ser then none else some .regang, passed := 0, late := none }
  let ps := parts.map back
  let c := s.co.popWhey
  { s with co := { c with stack := e :: c.stack, st := (ps.find? (·.id == res)).getD t
                          sibs := ps.filter (·.id != res) ++ c.sibs } }

/-- A branch on lanes stands at an address (R168, R169). -/
def State.splitAt (s : State) (va : DWord) : Bool :=
  match s.instrAt va with
  | some (.brl _) | some (.brlz _) => true
  | _ => false

/-- Serves the mechanism's record on top for the focused strand. -/
def State.serve (s : State) (w : Walk) (r : Rec) : State :=
  s.withIntact w r fun _ =>
    match r.body with
    | .rejoin res parts addr => s.serveRejoin res parts addr
    | .div p x ser jn taken other addr =>
      if !s.splitAt addr then s.serveSwitch w jn taken addr
      else match s.co.strands.find? fun t => (t.id == p || t.id == x) && t.icnt.low != r.count + 1 with
        | some t => (s.setCo fun c => c.focus t.id).stepBack w
        | none => (s.serveSplit p x ser taken other addr).setCo fun c =>
            { c with walk := c.walk.map fun w => { w with strand := if w.strand == x then p else w.strand } }
    | _ => s

/-! ### The walk (R23, R24) -/

/-- Resets every view of a task cohort's lanes (08 R202). -/
def State.resetViews (s : State) : State :=
  let s := s.setCo fun c => { c with whey := [], wheyWb := 0 }
  (s.tasksOf s.co.launch).foldl (fun s v =>
    if s.co.spawn.any (fun l => l.own == v.entry && v.entry != 0) then s.blankView v else s) s

/-- The walk has reached its target (R23, R24, R26). -/
def State.endWalk (s : State) (w : Walk) : State :=
  let t := (s.setCo fun c => { c with dir := false, walk := none }).setSt fun st => { st with park := none }
  match w.kind with
  | .device =>
    match t.co.mism.find? fun m => m.1 == t.co.st.icnt && 3 ≤ m.2 with
    | some _ => (t.setCo fun c => { c with halt := some .check }).toFw (.check t.co.uid t.co.st.icnt.low)
    | none => t
  | k =>
    let t := (t.trace 6 1 (dwordWords t.co.st.icnt)).traceSync
    let t := if t.co.task.isSome && w.target = 0 then t.resetViews else t
    if k == .trap then s.thenTrap t rewindtTrap else t

/-- One step of the focused cohort's walk. -/
def State.walkOne (s : State) : State :=
  match s.co.walk with
  | none => s.setCo fun c => { c with dir := false }
  | some w =>
    let s := s.setCo fun c => c.focus w.strand
    let st := s.co.st
    if w.kind != .device && !s.co.landed then s
    else if st.icnt = w.target then s.endWalk w
    else if w.target < st.floor then s.walkFault w (trapOf 0x0E 0 w.target)
    else match s.co.mechanism with
      | some r => s.serve w r
      | none =>
        match s.co.whey with
        | r :: _ =>
          if s.needsRecord && r.strand != st.id then
            if (s.co.strand? r.strand).isNone then s.walkFault w (trapOf 0x0F 1 (r.count.setWidth 64))
            else
              let t := s.setCo fun c => c.focus r.strand
              match t.co.mechanism with
              | some r => t.serve w r
              | none => t.stepBack w
          else s.stepBack w
        | [] => s.stepBack w

/-- Starts a walk of the device (R25, R27) of a strand to a count. -/
def State.deviceWalk (s : State) (strand : Nat) (count : DWord) : State :=
  s.setCo fun c => { c with dir := true, walk := some ⟨count, strand, .device⟩ }

end Sys2Proof.Machine
end

