-- ==== Sys2Proof/Machine/Ending.lean ====
section
/-! DEFINITION. The end of a cohort, a block and a launch (07 R158, 08 R183, R188, 09 R218, 20 R405). -/

namespace Sys2Proof.Machine

/-- The owner of the presses that a cohort's end makes due: no strand (09 R218). -/
def endOwner : Nat := 9

/-! ### Profiling (20 R405) -/

/-- Writes a cohort's slot of its block's record. -/
def State.profileSlot (s : State) (c : Cohort) : State :=
  match s.block? c.block with
  | none => s
  | some b => match b.profile with
    | none => s
    | some p =>
      let w0 : Nat := 2 ^ 31 + c.role * 2 ^ 8 + c.cid
      s.put (p.toNat + 32 + 80 * c.cid)
        (bytesOf 4 w0 ++ bytesOf 4 0 ++ bytes8 c.st.icnt ++ c.stalls.flatMap fun n => bytesOf 4 n)

/-- The last cohort to end writes the end time. -/
def State.profileEnd (s : State) (b : Block) : State :=
  match b.profile with
  | none => s
  | some p => s.put (p.toNat + 24) (bytesOf 8 s.time)

/-! ### Trace at the end of a cohort (20 R406, R407) -/

/-- Queue of a cohort's launch. -/
def State.queueOf (s : State) (launch : Nat) : Nat :=
  match s.launch? launch with
  | some l => l.queue
  | none => 0

/-- Some cohort of the core matched its trace select register. -/
def State.streamActive (s : State) (core : Nat) : Bool := s.cohorts.any fun c => c.core == core && c.traced

/-- A SUMM packet of a cohort that is not under full trace, while the core's stream is active. -/
def State.summary (s : State) (c : Cohort) : State :=
  if c.traced || !s.streamActive c.core then s
  else
    let t := (c.strand? 0).getD ((c.strand? c.lowest).getD c.st)
    s.tracePut c.core (packet 10 0 0
      ([c.blockIdx, BitVec.ofNat 32 (c.cid * 2 ^ 12 + s.queueOf c.launch)] ++ dwordWords t.icnt))

/-! ### Ending a block and a launch -/

/-- Something still uses a block's scratchpad range: copies into it, array commands, forced deliveries. -/
def State.blockBusy (s : State) (b : Block) : Bool :=
  (s.core b.core).copies.any (·.block == b.uid)
    || (((s.pair (pairOfCore b.core)).queue ++ (s.pair (pairOfCore b.core)).checks).any fun m =>
        m.leader == b.uid || m.follower == b.uid)

/-- Releases the ranges of ended blocks that nothing uses any more. -/
def State.sweepBlocks (s : State) : State :=
  { s with blocks := s.blocks.filter fun b => b.phase < 3 || s.blockBusy b }

/-- The last cohort of a block has ended (08 R188): its range is released; entries at the receiving end of a cluster where
no block of the launch is left are discarded (15 R332). -/
def State.endBlock (s : State) (b : Block) : State :=
  let s := s.profileEnd b
  let s := s.modBlock b.uid fun b => { b with phase := 3 }
  let s := s.modLaunch b.launch fun l =>
    { l with ended := l.ended + (if b.index < 2 ^ 31 then 1 else 0) }
  let k := clusterOf b.core
  let left := s.blocks.any fun x => x.phase < 3 && x.launch == b.launch && clusterOf x.core == k
  let s := if left then s
    else
      let stays (e : LinkEntry) : Bool := !(e.cluster == k && e.launch == b.launch)
      { s with ends := s.ends.filter stays, flying := s.flying.filter stays }
  s.sweepBlocks

/-- Removes a cohort whose end is done (R188, 08 R192, 20 R404, 21 R429, 16 R343). -/
def State.dropCohort (s : State) : State :=
  let c := s.co
  let s := (s.profileSlot c).summary c
  let s := c.strands.foldl (fun s t =>
    let s := match t.fabErr with
      | some va => s.toFw (.late c.uid 0x0B va)
      | none => s
    t.reports.foldl (fun s r => s.toFw (.late c.uid r.sub r.addr)) s) s
  let s := s.dropGrants c.uid fun _ => true
  let s := { s with dies := s.dies.map fun (d : Die) => ({ d with waiting := d.waiting.filter fun r => r.cohort != c.uid } : Die) }
  let s := match c.task with
    | some m => s.modLaunch c.launch fun l => { l with slots := l.slots.filter (· != m) }
    | none => s
  let s := State.gcTiles { s with co := Cohort.reset } (pairOfCore c.core)
  match s.block? c.block with
  | some b => if s.cohorts.any (·.block == b.uid) then s else s.endBlock b
  | none => s

/-! ### The actions of an ending cohort -/

/-- Lanes with an open spawn group. -/
def Cohort.openLanes (c : Cohort) : LaneSet := laneSetOf fun i => (c.spawnLane i).openN != 0

/-- Lanes whose task still runs. -/
def State.runningTasks (s : State) : LaneSet :=
  laneSetOf fun i => s.co.task.isSome && (s.co.spawnLane i).own != 0 && s.taskSt s.co.launch (s.co.spawnLane i).own = 1

/-- Stores of the cohort still to be acknowledged, or a completion time still to pass. -/
def State.storesLeft (s : State) : Bool :=
  s.co.strands.any fun t => !t.unacked.isEmpty || (t.horizon != 0 && s.time ≤ t.horizon)

/-- One look at the end of the focused cohort (R218, R188): joins and endings, the presses they make due, the forced
deliveries, then the release. A press that stopped is reported to the firmware. -/
def State.endCohort (s : State) : State :=
  let s := s.setCo fun c => { c with closing := true }
  let open' := s.co.openLanes
  let s := s.joinLanes endOwner open'
  if s.co.openLanes != 0 then
    (s.ownPresses endOwner).foldl (fun s p => if p.stopped.isSome && !s.fw.contains (.press p.entry) then s.toFw (.press p.entry) else s) s
  else
    let s := s.endTasks endOwner s.runningTasks
    let ps := s.ownPresses endOwner
    if !ps.isEmpty then
      ps.foldl (fun s p => if p.stopped.isSome && !s.fw.contains (.press p.entry) then s.toFw (.press p.entry) else s) s
    else
      let s := s.modBlock s.co.block Block.forceAll
      if 0 < s.forcedLeft s.co.block || s.storesLeft then s else s.dropCohort

/-- Every cohort that ends has its look. -/
def State.settleEnds (s : State) : State :=
  ((s.cohorts.filter (·.ending)).map (·.uid)).foldl (fun s uid =>
    match s.cohort? uid with
    | some c => if c.ending && c.saved.isNone && c.halt.isNone then (s.focus uid c.st.id).endCohort else s
    | none => s) s

/-! ### Completion of a launch (R183) -/

/-- Bytes of a completion record. -/
def doneBytes (status : Nat) (seq : Word) (time : Nat) : List Byte :=
  bytesOf 4 status ++ bytesOf 4 seq.toNat ++ bytesOf 8 time

/-- Ends a launch: its completion record is written, or reported; an absent page makes the record wait, with the time at
the end (log 81). The launch's pins are released (03 R63). -/
def State.closeLaunch (s : State) (l : Launch) (status : Nat) : State :=
  let time := l.unwritten.getD s.time
  let close (left : Option Nat) (s : State) : State := s.modLaunch l.uid fun l =>
    { l with phase := 2, status := status, pins := [], tasks := [], queued := [], closed := [], presses := [],
             unwritten := left }
  match s.planStore l.record.done.toNat (doneBytes status l.seq time) with
  | .ok t => close none t
  | .miss va => (close (some time) s).absent (l.queue % 4) va
  | .fault _ _ => (close none s).toFw (.done l.seq status l.record.done)

/-- A launch's task queue is empty. -/
def State.tasksLeft (s : State) (l : Launch) : Bool :=
  l.record.ten && match s.openQueue l.record.taskq with
    | .ok (some d, _) => d.head != d.resv
    | .ok (none, _) => false
    | _ => true

/-- Event LAUNCH_COMPLETION (R183): every block has ended, the task queue is empty and no task cohort is live; or the
completion record of a launch that is over still waits to be written. -/
def execLaunchCompletion (launch : Nat) (s : State) : Host.Outcome State Fault Refusal :=
  match s.launch? launch with
  | none => .next s
  | some l =>
    let live := s.cohorts.any (·.launch == launch) || s.blocks.any fun b => b.launch == launch && b.phase < 3
    if l.unwritten.isSome then .next (s.closeLaunch l l.status)
    else if l.phase = 1 && !live && (l.status != 0 || (l.ended = l.blocks && !s.tasksLeft l && l.presses.isEmpty)) then
      .next (s.closeLaunch l l.status)
    else if l.phase = 0 && l.status != 0 then .next (s.closeLaunch l l.status)
    else .next s

/-- Event FIRMWARE_ABORT (19 R384, R183): the launch's work ends with STATUS 0x0A; nothing of it is joined or pressed. -/
def execFirmwareAbort (launch : Nat) (s : State) : Host.Outcome State Fault Refusal :=
  match s.launch? launch with
  | none => .next s
  | some l =>
    if l.phase = 2 then .next s
    else
      let s := s.modLaunch launch fun l => { l with status := 0x0A, placed := l.blocks, tasks := [], queued := [], closed := [], presses := [] }
      let stop (c : Cohort) : Cohort :=
        if c.uid != 0 && c.launch == launch then
          { c with ending := true, halt := none, saved := none, walk := none, dir := false, debug := false,
                   spawn := List.replicate 96 ⟨0, 0, 0⟩ }
        else c
      let s := if s.dbg.buffer.any (fun b => (s.cohort? b.1).any (·.launch == launch)) then
          { s with dbg := { s.dbg with buffer := none, held := none } } else s
      .next { s with co := stop s.co, others := s.others.map stop
                     blocks := s.blocks.map fun b => if b.launch == launch && b.phase < 3 then { b with phase := 0, t0 := none } else b }

/-- Event FIRMWARE_RESUME (19 R384): a cohort halted by a machine check goes on; the failing instruction issues again with
its mismatch count cleared. -/
def execFirmwareResume (co : Nat) (s : State) : Host.Outcome State Fault Refusal :=
  .next (s.modCohort co fun c => match c.halt with
    | some .check => { c with halt := none, mism := [] }
    | _ => c)

/-- Event FIRMWARE_PRESS_RESUME (09 R218): a press stopped at the end of its cohort goes on at PIDX. -/
def execFirmwarePressResume (entry : DWord) (s : State) : Host.Outcome State Fault Refusal :=
  .next { s with
    launches := s.launches.map fun l =>
      { l with presses := modifyAll (fun p => p.entry == entry && p.strand == endOwner) (fun p => { p with stopped := none }) l.presses }
    fw := s.fw.filter (· != .press entry) }

end Sys2Proof.Machine
end

