-- ==== Sys2Proof/Machine/Launch.lean ====
section
/-! DEFINITION. Launch records, placement and the start of blocks and tasks (07 R147-R150, 08 R179-R186, R195-R199, 21
R432). -/

namespace Sys2Proof.Machine

/-! ### The launch record (R179) -/

/-- Named bits of each word of a launch record; every other bit is reserved. -/
def recordMask (k : Nat) : Word :=
  match k with
  | 6 => 0xFFFF0000
  | 7 => 0x00FFFFFF
  | 8 => 0xF8000000
  | 9 | 46 => 0x003FFFFF
  | 10 => 0x000007FF
  | 12 => 0x00007FFF
  | 13 => 0x7000003F
  | 30 => 0x00000307
  | 31 => 0
  | 33 | 35 | 37 | 39 => 0x8FFF0000
  | 44 => 0x0000001F
  | 45 => 0x8FFF0FFF
  | k => if 14 ≤ k && k < 30 && k % 2 = 1 then 0xFE000000 else if 47 ≤ k && k < 63 then 0 else 0xFFFFFFFF

/-- Reads a launch record. -/
def LaunchRec.ofBytes (bs : List Byte) : LaunchRec :=
  let w (k : Nat) : Word := word32At bs (4 * k)
  let l := ((w 13).extractLsb' 28 3).toNat + 1
  { entry := dwordAt bs 0, handler := dwordAt bs 8, args := dwordAt bs 16, wheyBase := dwordAt bs 24,
    szl := ((w 8).extractLsb' 27 5).toNat, scratch := (w 9).toNat, eddy := (w 10).toNat,
    regs := (List.range 4).map fun j => ((w 11).extractLsb' (8 * j) 8).toNat
    roles := (List.range 3).map fun j => ((w 12).extractLsb' (5 * j) 5).toNat
    c := ((w 13).extractLsb' 0 6).toNat
    levels := (List.range l).map fun k =>
      { extent := (w (14 + 2 * k)).toNat, domain := ((w (15 + 2 * k)).extractLsb' 28 4).toNat,
        scope := ((w (15 + 2 * k)).extractLsb' 25 3).toNat }
    nopre := (w 30).getLsbD 9, paired := (w 30).getLsbD 8, prio := ((w 30).extractLsb' 0 3).toNat
    deps := ((List.range 4).filter fun j => (w (33 + 2 * j)).getLsbD 31).map fun j =>
      (((w (33 + 2 * j)).extractLsb' 16 12).toNat, w (32 + 2 * j))
    done := dwordAt bs 160, curds := dwordAt bs 168, curdn := (w 44).toNat, ten := (w 45).getLsbD 31,
    tslots := ((w 45).extractLsb' 16 12).toNat, taskq := ((w 45).extractLsb' 0 12).toNat, tscratch := (w 46).toNat }

/-- Role of a cohort by its id (R180). -/
def LaunchRec.roleOf (r : LaunchRec) (c : Nat) : Nat :=
  let n (k : Nat) : Nat := r.roles.getD k 0
  if c < n 0 then 1 else if c < n 0 + n 1 then 2 else if c < n 0 + n 1 + n 2 then 3 else 0

/-- Lanes of a level-k unit (07 R148). -/
def LaunchRec.unit (r : LaunchRec) (k : Nat) : Nat := (r.levels.take k).foldl (fun n l => n * l.extent) 1

/-- Lanes of the launch. -/
def LaunchRec.lanes (r : LaunchRec) : Nat := r.unit r.levels.length

/-- Blocks of the launch (07 R149). -/
def LaunchRec.blocks (r : LaunchRec) : Nat := (r.lanes + 96 * r.c - 1) / (96 * r.c)

/-- Domain of the top level. -/
def LaunchRec.topDomain (r : LaunchRec) : Nat := match r.levels.getLast? with
  | some l => l.domain
  | none => 0

/-- Least scope of a domain (07 R147). -/
def leastScope (d : Nat) : Nat := if d ≤ 2 then 0 else if d = 3 then 1 else if d ≤ 5 then 2 else d - 3

/-- N fits a domain (07 R148). -/
def fitsDomain (d n c : Nat) : Bool :=
  match d with
  | 0 => n = 1
  | 1 => n = 1 || n = 2 || n = 4
  | 2 => n != 0 && 96 % n = 0
  | 3 => n != 0 && 96 * c % n = 0
  | d => d ≤ 8 && n % (96 * c) = 0

/-- The hierarchy meets R148, and R432 for domain 8. -/
def LaunchRec.hierarchyOk (r : LaunchRec) (gsize : Nat) : Bool :=
  let l := r.levels
  r.lanes ≤ 2 ^ 44 && (l.length != 1 || (l.map (·.extent)) == [96])
    && ((spanNat 1 (l.length - 1)).all fun k => match l[k]?, l[k - 1]? with
        | some x, some y => y.domain ≤ x.domain && y.scope ≤ x.scope && leastScope x.domain ≤ x.scope
            && fitsDomain x.domain (r.unit k) r.c
        | _, _ => false)
    && (r.topDomain != 8 || (l.getLast?.map (·.extent)) == some gsize)

/-- Fields outside the limits of R179 and R180, or reserved bits set: STATUS 0x01. -/
def recordBad (bs : List Byte) (r : LaunchRec) : Bool :=
  let w (k : Nat) : Word := word32At bs (4 * k)
  let n (k : Nat) : Nat := r.roles.getD k 0
  ((List.range 63).any fun k => w k &&& ~~~(recordMask k) != 0)
    || 2097152 < r.scratch || r.eddy < 64 || 1024 < r.eddy
    || r.regs.any (fun x => x % 8 != 0 || 128 < x) || r.regs.getD 0 0 < 8
    || r.c = 0 || 32 < r.c || r.c < n 0 + n 1 + n 2
    || ((List.range 3).any fun k => n k != 0 && r.regs.getD (k + 1) 0 = 0)
    || r.levels.any (fun l => l.extent = 0 || 2 ^ 31 < l.extent || 5 < l.scope)
    || (match r.levels.head? with | some l => l.domain != 0 || l.scope != 0 | none => true)
    || ((spanNat (14 + 2 * r.levels.length) (2 * (8 - r.levels.length))).any fun k => w k != 0)
    || 16 < r.curdn || (r.ten && r.tslots = 0) || 2097152 < r.tscratch

/-! ### Room on a core (R185) -/

/-- What a block needs: the registers of each cohort, and scratchpad bytes. -/
structure Need where
  regs : List Nat
  scratch : Nat
  deriving DecidableEq, Repr

/-- P of a launch's blocks or task blocks (10 R228). -/
def LaunchRec.pOf (r : LaunchRec) (task : Bool) : Nat := ((if task then r.tscratch else r.scratch) + 127) / 128 * 128

/-- Needs of a block. -/
def LaunchRec.need (r : LaunchRec) (task : Bool) : Need :=
  let bytes := (if task then r.tscratch else r.scratch) + 16 * r.eddy
  { regs := if task then [r.regs.getD 0 0] else (List.range r.c).map fun c => r.regs.getD (r.roleOf c) 0
    scratch := (max bytes (r.pOf task + 16 * r.eddy) + 127) / 128 * 128 }

/-- What is taken on a core: cohort slots and register bytes of each half, and scratchpad ranges. -/
structure Room where
  slots : List Nat
  bytes : List Nat
  ranges : List (Nat × Nat)
  deriving DecidableEq, Repr

/-- Register bytes of a cohort's slices (07 R153, R157). -/
def Cohort.regBytes (c : Cohort) : Nat := c.width * c.nregs * 16

/-- Bytes of a block's range. -/
def Block.size (b : Block) : Nat := (b.p + 16 * b.eddyN + 127) / 128 * 128

/-- The block is in its core. -/
def State.resident (s : State) (block : Nat) : Bool :=
  match s.block? block with
  | some b => b.phase < 2
  | none => false

/-- What is taken on a core now. -/
def State.roomOf (s : State) (k : Nat) : Room :=
  let cs := s.cohorts.filter fun c => c.core == k && s.resident c.block
  let half (h : Nat) : List Cohort := cs.filter (·.half == h)
  { slots := [(half 0).length, (half 1).length]
    bytes := [(half 0).foldl (fun n c => n + c.regBytes) 0, (half 1).foldl (fun n c => n + c.regBytes) 0]
    ranges := (s.blocks.filter fun b => b.core == k && b.phase != 2).map fun b => (b.base, b.size) }

/-- The lowest free range of a size within the scratchpad. -/
def freeBase (ranges : List (Nat × Nat)) (size : Nat) : Option Nat :=
  let ok (a : Nat) : Bool := a + size ≤ 2097152 && ranges.all fun r => a + size ≤ r.1 || r.1 + r.2 ≤ a
  (0 :: ranges.map fun r => r.1 + r.2).foldl (fun m a => if ok a then match m with
    | some x => some (min x a)
    | none => some a else m) none

/-- The largest free range: from 0 or the end of a range up to the next one. -/
def largestFree (ranges : List (Nat × Nat)) : Nat :=
  (0 :: ranges.map fun r => r.1 + r.2).foldl (fun m a =>
    if ranges.any (fun r => r.1 ≤ a && a < r.1 + r.2) then m
    else max m (ranges.foldl (fun e r => if a ≤ r.1 then min e r.1 else e) 2097152 - a)) 0

/-- Slots and registers that a need takes of a half. -/
def Need.half (n : Need) (h : Nat) : Nat × Nat :=
  let rs := ((List.range n.regs.length).filter fun c => c % 2 == h).map fun c => n.regs.getD c 0
  (rs.length, rs.foldl (fun m r => m + 384 * r) 0)

/-- The base at which a need fits a core. -/
def Room.fit (r : Room) (n : Need) : Option Nat :=
  if (List.range 2).all fun h =>
      r.slots.getD h 0 + (n.half h).1 ≤ 16 && r.bytes.getD h 0 + (n.half h).2 ≤ 786432 then
    freeBase r.ranges n.scratch
  else none

/-- A core after a need is placed at a base. -/
def Room.add (r : Room) (n : Need) (base : Nat) : Room :=
  { slots := (List.range 2).map fun h => r.slots.getD h 0 + (n.half h).1
    bytes := (List.range 2).map fun h => r.bytes.getD h 0 + (n.half h).2
    ranges := (base, n.scratch) :: r.ranges }

/-- Cores with what is taken on them. -/
abbrev Rooms := List (Nat × Room)

/-- A placed block: index, core, base. -/
structure Spot where
  index : Nat
  core : Nat
  base : Nat
  deriving DecidableEq, Repr

/-- Takes a place on a core. -/
def takeRoom (rs : Rooms) (k : Nat) (n : Need) (base : Nat) : Rooms :=
  modifyFirst (·.1 == k) (fun r => (r.1, r.2.add n base)) rs

/-- Places one block on the first core that fits. -/
def placeOne (rs : Rooms) (n : Need) (index : Nat) : Option (Spot × Rooms) :=
  match rs.findSome? fun r => (r.2.fit n).map fun b => (r.1, b) with
  | some (k, b) => some (⟨index, k, b⟩, takeRoom rs k n b)
  | none => none

/-- Places blocks one after the other. -/
def placeEach (n : Need) : Rooms → List Nat → Option (List Spot × Rooms)
  | rs, [] => some ([], rs)
  | rs, i :: rest =>
    match placeOne rs n i with
    | none => none
    | some (p, rs) => match placeEach n rs rest with
      | some (ps, rs) => some (p :: ps, rs)
      | none => none

/-- Places blocks two by two on the leader and follower of a matrix pair (R185). -/
def placePairs (n : Need) : Rooms → List Nat → Option (List Spot × Rooms)
  | rs, i :: j :: rest =>
    let fitAt (k : Nat) : Option Nat := (rs.find? (·.1 == k)).bind fun r => r.2.fit n
    match rs.findSome? fun r => if r.1 % 2 = 0 then
        match fitAt r.1, fitAt (r.1 + 1) with
        | some a, some b => some (r.1, a, b)
        | _, _ => none
        else none with
    | none => none
    | some (k, a, b) =>
      match placePairs n (takeRoom (takeRoom rs k n a) (k + 1) n b) rest with
      | some (ps, rs) => some (⟨i, k, a⟩ :: ⟨j, k + 1, b⟩ :: ps, rs)
      | none => none
  | rs, [i] => placeEach n rs [i]
  | rs, [] => some ([], rs)

/-- Instance of a domain that holds a core. -/
def instanceOf (d k : Nat) : Nat := if d = 4 then k / 2 else if d = 5 then k / 4 else if d = 6 then k / 48 else 0

/-- Splits a list into runs of a length. -/
def runsOf (n : Nat) : Nat → List Nat → List (List Nat)
  | 0, _ => []
  | f + 1, l => if l.isEmpty then [] else l.take n :: runsOf n f (l.drop n)

/-- Places the blocks of units, outermost level first, each unit in one instance of its domain (07 R150). -/
def placeUnits (n : Need) (paired : Bool) : List (Nat × Nat) → Rooms → List Nat → Option (List Spot × Rooms)
  | [], rs, is => if paired then placePairs n rs is else placeEach n rs is
  | (size, d) :: rest, rs, is =>
    (runsOf size is.length is).foldl (fun acc run => match acc with
      | none => none
      | some (ps, rs) =>
        (dedup (rs.map fun r => instanceOf d r.1)).findSome? fun x =>
          match placeUnits n paired rest (rs.filter fun r => instanceOf d r.1 == x) run with
          | some (qs, sub) => some (ps ++ qs, rs.map fun r => (sub.find? (·.1 == r.1)).getD r)
          | none => none) (some ([], rs))

/-- Levels with a placement group, outermost first: blocks of a unit and domain (07 R150). -/
def LaunchRec.groups (r : LaunchRec) : List (Nat × Nat) :=
  ((spanNat 1 (r.levels.length - 1)).filterMap fun k => match r.levels[k]? with
    | some l => if 4 ≤ l.domain then some (r.unit k / (96 * r.c), l.domain) else none
    | none => none).reverse

/-- Blocks that are placed together, from an index on: the outermost unit, a pair, or one block. -/
def LaunchRec.together (r : LaunchRec) : Nat :=
  match r.groups with
  | (n, _) :: _ => n
  | [] => if r.paired then 2 else 1

/-- Every core empty. -/
def emptyRooms : Rooms := (List.range 192).map fun k => (k, ⟨[0, 0], [0, 0], []⟩)

/-- A block, a group and a task cohort can be resident (STATUS 0x03). -/
def LaunchRec.budgetOk (r : LaunchRec) : Bool :=
  r.together ≤ 6144
    && (placeUnits (r.need false) r.paired r.groups emptyRooms (List.range (min r.together r.blocks))).isSome
    && (!r.ten || (placeEach (r.need true) (emptyRooms.take 1) [0]).isSome)

/-! ### Checks of a record (R183) -/

/-- The curd declaration table is valid (R198); `none` while its page is absent. -/
def State.curdsOk (s : State) (r : LaunchRec) : XRes Bool :=
  if r.curds.extractLsb' 56 8 != 0 then .ok false
  else if r.curdn = 0 then .ok true
  else match s.agentLoad r.curds.toNat (64 * r.curdn) with
    | .miss a => .miss a
    | .fault _ _ => .ok false
    | .ok (bs, _) =>
      let rec' (k : Nat) : List Byte := (bs.drop (64 * k)).take 64
      let one (b : List Byte) : Bool :=
        (dwordAt b 0).extractLsb' 56 8 == 0 && dwordAt b 56 == 0
          && ((List.range 4).all fun t =>
            let w := word32At b (8 + 4 * t)
            let op := (w.extractLsb' 28 4).toNat
            let n := (w.extractLsb' 0 15).toNat
            w.extractLsb' 15 13 == 0 && op ≤ 9 && n % (if op = 9 then 8 else 4) = 0 && n ≤ 16384 && (n != 0 || op = 0)
              && (dwordAt b (24 + 8 * t)).extractLsb' 56 8 == 0)
      let entries := (List.range r.curdn).map fun k => (dwordAt (rec' k) 0).toNat
      .ok (((List.range r.curdn).all fun k => one (rec' k)) && (dedup entries).length = entries.length)

/-- A dependence failed: the named launch was refused or aborted (R182). -/
def State.depFailed (s : State) (d : Nat × Word) : Bool :=
  s.launches.any fun l => l.queue == d.1 && l.seq == d.2 && l.phase == 2 && l.status != 0

/-- A dependence is met. -/
def State.depMet (s : State) (d : Nat × Word) : Bool :=
  s.launches.any fun l => l.queue == d.1 && l.seq == d.2 && l.phase == 2 && l.status == 0

/-- The task queue serves the launch (STATUS 0x08). -/
def State.taskqOk (s : State) (r : LaunchRec) : XRes Bool :=
  if !r.ten then .ok true
  else if s.launches.any fun l => l.phase < 2 && l.status = 0 && l.record.ten && l.record.taskq == r.taskq then .ok false
  else match s.openQueue r.taskq with
    | .ok (some d, _) => .ok (d.kind = 1)
    | .ok (none, _) => .ok false
    | .miss a => .miss a
    | .fault _ _ => .ok false

/-- STATUS of a record when it is taken: the lowest that applies, 0 for an accepted one (R183). -/
def State.judgeRecord (s : State) (bs : List Byte) (queue : Nat) (seq : Word) : XRes Nat :=
  let r := LaunchRec.ofBytes bs
  let high (x : DWord) : Bool := x.extractLsb' 56 8 != 0
  let ownDep (d : Nat × Word) : Bool := d.1 == queue && !(d.2 < seq)
  match s.curdsOk r with
  | .miss a => .miss a
  | .fault c a => .fault c a
  | .ok curds => match s.taskqOk r with
    | .miss a => .miss a
    | .fault c a => .fault c a
    | .ok tq =>
      .ok (if recordBad bs r then 1
        else if !r.hierarchyOk s.fabric.gsize then 2
        else if !r.budgetOk then 3
        else if r.szl < 16 || 26 < r.szl || r.wheyBase.toNat % 2 ^ r.szl != 0 then 4
        else if r.deps.any fun d => ownDep d || s.depFailed d then 5
        else if high r.entry || high r.handler || high r.done then 6
        else if !curds then 7
        else if !tq then 8
        else if r.paired && r.blocks % 2 = 1 then 9
        else 0)

/-- Blocks that this device creates (21 R432). -/
def LaunchRec.share (r : LaunchRec) : Nat :=
  if r.topDomain = 8 then r.unit (r.levels.length - 1) / (96 * r.c) else r.blocks

/-- Index of this device's first block. -/
def State.firstBlock (s : State) (r : LaunchRec) : Nat := if r.topDomain = 8 then s.fabric.grank * r.share else 0

/-- Event LAUNCH_RECORD (R177, R183): the controller takes the published record at HEAD and accepts or refuses it. -/
def execLaunchRecord (queue : Nat) (s : State) : Host.Outcome State Fault Refusal :=
  match s.openQueue queue with
  | .ok (some d, s) =>
    if d.kind != 0 then .next s
    else match s.published d d.head with
      | none => .next s
      | some bs => match s.judgeRecord bs queue d.head.low with
        | .miss a => .next (s.absent (queue % 4) a)
        | .fault .. => .next s
        | .ok status =>
          let r := LaunchRec.ofBytes bs
          let quiet := r.ten && !(s.launches.any fun l => l.phase < 2 && l.record.ten)
          let s := match quiet, s.host.regions with
            | true, some g => { s with setup := { s.setup with arenaNext := g.arena.toNat } }
            | _, _ => s
          let l : Launch :=
            { uid := s.fresh, queue := queue, seq := d.head.low, addr := BitVec.ofNat 64 (d.slot d.head.toNat), record := r,
              phase := 0, status := status, blocks := r.share, placed := 0, ended := 0, accepted := s.time, pins := [],
              slots := [], tasks := [], queued := [], closed := [], presses := [], peers := [],
              unwritten := none }
          let s := (s.setHead queue (d.head + 1))
          let s := { s with launches := s.launches ++ [l], fresh := s.fresh + 1 }
          .next (if status = 0 then s else s.closeLaunch l status)
  | .ok (none, s) => .next s
  | .miss a => .next (s.absent (queue % 4) a)
  | .fault .. => .next (s.reportDead queue)

/-! ### Starting blocks (R184, R185, 07 R149, R151) -/

/-- Fills the scratchpad bytes of a range with what the spec leaves unspecified (10 R228, 19 R392, log 4). -/
def State.scrub (s : State) (core base n : Nat) : State :=
  s.spWrite core ((spanNat base n).map fun a => (a, Config.lostByte s.tick a))

/-- Reserves a profiling record for a block and writes its head (20 R405). -/
def State.profileStart (s : State) (l : Launch) (index core : Nat) (c : Nat) : Option DWord × State :=
  match s.host.regions with
  | none => (none, s)
  | some r =>
    let n := 32 + 80 * c
    if s.dbg.profNext + n ≤ r.profileSize.toNat then
      let va := r.profile + BitVec.ofNat 64 s.dbg.profNext
      let head := bytesOf 4 l.seq.toNat ++ bytesOf 4 l.queue ++ bytesOf 4 index ++ bytesOf 4 (core + c * 2 ^ 8)
        ++ bytesOf 8 s.time ++ bytesOf 8 0
      (some va, { s.put va.toNat (head ++ List.replicate (80 * c) 0) with
                  dbg := { s.dbg with profNext := s.dbg.profNext + n } })
    else (none, { s with dbg := { s.dbg with profDrops := s.dbg.profDrops + 1 } })

/-- The lowest free cohort slot of a half. -/
def State.freeSlot (s : State) (core half : Nat) : Nat :=
  ((List.range 16).find? fun k => !s.cohorts.any fun c =>
    c.core == core && c.half == half && c.slot == k && s.resident c.block).getD 0

/-- Matches a starting cohort against its core's trace select register (20 R406, R408). -/
def State.traceMatch (s : State) (uid : Nat) : State :=
  match s.cohort? uid with
  | none => s
  | some c =>
    let t := (s.core c.core).trace
    let hit := t.sel0.getLsbD 31 && (t.sel0.extractLsb' 0 12).toNat == s.queueOf c.launch && t.sel1 == c.blockIdx
      && (t.sel0.extractLsb' 12 5).toNat == c.cid
    if !hit then s
    else
      let s := if s.streamActive c.core then s
        else (s.modCohort uid fun c => { c with traced := true }).tracePut c.core
          (packet 1 0 0 (dwordWords (c.st.pc.setWidth 64) ++ dwordWords c.st.icnt))
      let s := if t.sel0.getLsbD 30 then s.modCohort uid fun c => { c with haltReq := some 2 } else s
      if t.sel0.getLsbD 29 then s.trigger 2 0 else s

/-- Adds a cohort. -/
def State.addCohort (s : State) (c : Cohort) : State :=
  ({ s with others := s.others ++ [c], fresh := s.fresh + 1 }).traceMatch c.uid

/-- Registers of a cohort at start (R184). -/
def startRegs (s45 s67 : DWord) : List Word :=
  [0, 0, 0, 0, s45.low, s45.high, s67.low, s67.high] ++ List.replicate 184 0

/-- What a cohort at start takes from its launch (01 R7, R8, 07 R155, R156). -/
def Cohort.start (s : State) (l : Launch) (block core half cid index role region : Nat) (entry : DWord) (present : LaneSet) :
    Cohort :=
  let r := l.record
  { Cohort.reset with
    uid := s.fresh, block := block, launch := l.uid, core := core, half := half, slot := s.freeSlot core half, cid := cid
    blockIdx := BitVec.ofNat 32 index, role := role, nregs := r.regs.getD role 0, prio := r.prio, started := s.cycle
    v := List.replicate (r.regs.getD role 0) (List.replicate 96 0), s := startRegs r.args l.addr
    wheyBase := r.wheyBase + BitVec.ofNat 64 (region * 2 ^ r.szl), szl := r.szl
    exm := ~~~present, removed := ~~~present, entry := entry, handler := r.handler
    st := { Strand.reset with pc := entry.setWidth 56, mask := present, held := present }
    ending := present == 0 }

/-- Index of a lane at a level (07 R149). -/
def LaunchRec.levelIndex (r : LaunchRec) (k g : Nat) : Nat :=
  match r.levels[k]? with
  | some x => if k + 1 = r.levels.length then g / r.unit k else g / r.unit k % x.extent
  | none => 0

/-- A block of a launch, as it starts. -/
def startedBlock (s : State) (l : Launch) (task : Bool) (sp : Spot) (profile : Option DWord) : Block :=
  let r := l.record
  let group := match r.groups.reverse with
    | (n, _) :: _ => if task then none else some (sp.index / max n 1)
    | [] => none
  { uid := s.fresh, launch := l.uid, index := sp.index, core := sp.core, base := sp.base, p := r.pOf task, eddyN := r.eddy,
    group := group, started := s.cycle, queues := List.replicate 4 [], eddy := List.replicate r.eddy none, forced := [],
    keeps := 0, phase := 0, image := [], t0 := none, armed := false, latched := none, lost := 0, profile := profile }

/-- Places a block at a spot: its range, its record and the block itself; a cohort follows. -/
def State.openBlock (s : State) (l : Launch) (task : Bool) (sp : Spot) (c : Nat) : Nat × State :=
  let (prof, s) := s.profileStart l sp.index sp.core c
  let b := startedBlock s l task sp prof
  let s := { s with blocks := s.blocks ++ [b], fresh := s.fresh + 1 }
  let lines := spanNat (sp.base / 128) (b.size / 128)
  (b.uid, (s.scrub sp.core sp.base b.p).modCore sp.core fun k => k.setLines true lines)

/-- Starts a launch block at a spot. -/
def State.startBlock (s : State) (l : Launch) (sp : Spot) : State :=
  let r := l.record
  let (uid, s) := s.openBlock l false sp r.c
  (List.range r.c).foldl (fun s c =>
    let g := 96 * (sp.index * r.c + c)
    let present := laneSetOf fun i => g + i < r.lanes
    let co := Cohort.start s l uid sp.core (c % 2) c sp.index (r.roleOf c) (sp.index * r.c + c) r.entry present
    s.addCohort { co with lvl := (List.range 8).map fun k => BitVec.ofNat 32 (r.levelIndex k g) }) s

/-! ### The distributor (R185, R186) -/

/-- Cores that a launch may use now, with what is taken on them. -/
def State.rooms (s : State) (launch : Nat) : Rooms :=
  (s.coresWith fun _ c => match c.reserved with
    | some x => x == launch
    | none => true).map fun k => (k, s.roomOf k)

/-- Block indexes that a launch places next, together. -/
def State.nextUnit (s : State) (l : Launch) : List Nat :=
  spanNat (s.firstBlock l.record + l.placed) (min l.record.together (l.blocks - l.placed))

/-- Spots for the next unit of a launch, when it fits. -/
def State.spotsFor (s : State) (l : Launch) : Option (List Spot) :=
  (placeUnits (l.record.need false) l.record.paired l.record.groups (s.rooms l.uid) (s.nextUnit l)).map (·.1)

/-- A launch that waits with blocks to place: accepted, its dependences met. -/
def State.waitsForPlace (s : State) (l : Launch) : Bool :=
  l.phase < 2 && l.status = 0 && l.placed < l.blocks && l.record.deps.all s.depMet

/-- Launch order of the distributor (R185): priority, then acceptance. -/
def earlier (a b : Launch) : Bool :=
  b.record.prio < a.record.prio
    || (a.record.prio == b.record.prio && (a.accepted < b.accepted || (a.accepted == b.accepted && a.uid < b.uid)))

/-- Launches that come before one. -/
def State.before (s : State) (l : Launch) : List Launch := s.launches.filter fun x => s.waitsForPlace x && earlier x l

/-- Free register bytes on the less-free half of a core. -/
def Room.lessFree (r : Room) : Nat := 786432 - max (r.bytes.getD 0 0) (r.bytes.getD 1 0)

/-- The better of two cores to reserve (R186). -/
def betterCore (a b : Nat × Room) : Nat × Room :=
  let fa := largestFree a.2.ranges
  let fb := largestFree b.2.ranges
  if fb < fa || (fa == fb && (b.2.lessFree < a.2.lessFree || (b.2.lessFree == a.2.lessFree && a.1 ≤ b.1))) then a else b

/-- Cores to reserve for a launch's next unit (R186): one core, or the instance of its group or pair whose cores sum the
largest free scratchpad. -/
def State.toReserve (s : State) (l : Launch) : List Nat :=
  let rs := (s.rooms l.uid).filter fun r => (s.core r.1).reserved.isNone
  let d : Option Nat := match l.record.groups with
    | (_, d) :: _ => some d
    | [] => if l.record.paired then some 4 else none
  match d with
  | none => match rs with
    | [] => []
    | r :: rest => [(rest.foldl (fun m x => betterCore m x) r).1]
  | some d =>
    let cands := dedup (rs.map fun r => instanceOf d r.1)
    let cores (x : Nat) : List Nat := (List.range 192).filter fun k => instanceOf d k == x
    let free (x : Nat) : Nat := (cores x).foldl (fun n k => n + largestFree (s.roomOf k).ranges) 0
    match cands.filter fun x => (cores x).all fun k => (s.core k).reserved.isNone with
    | [] => []
    | x :: rest => cores (rest.foldl (fun m y => if free m < free y then y else m) x)

/-- A launch has reserved cores. -/
def State.hasReserved (s : State) (launch : Nat) : Bool := s.cores.any (·.reserved == some launch)

/-! ### Pre-empted blocks wait again (R187, 19 R391, R392) -/

/-- The blocks that leave and return together with a block: its outermost placement group (R187). -/
def State.unitBlocks (s : State) (b : Block) : List Block :=
  match (s.launch? b.launch).bind fun l => l.record.groups.head? with
  | some (n, _) =>
    if b.index < 2 ^ 31 then
      s.blocks.filter fun x => x.launch == b.launch && x.index < 2 ^ 31 && x.index / n == b.index / n && x.phase < 3
    else [b]
  | none => [b]

/-- The base at which an absent block fits its core again (19 R392). -/
def State.refit (s : State) (b : Block) (r : Room) : Option (Nat × Room) :=
  let cs := s.cohorts.filter (·.block == b.uid)
  let slots (h : Nat) : Nat := r.slots.getD h 0 + (cs.filter (·.half == h)).length
  let bytes (h : Nat) : Nat := r.bytes.getD h 0 + (cs.filter (·.half == h)).foldl (fun n c => n + c.regBytes) 0
  if (List.range 2).all fun h => slots h ≤ 16 && bytes h ≤ 786432 then
    (freeBase r.ranges b.size).map fun a =>
      (a, { slots := [slots 0, slots 1], bytes := [bytes 0, bytes 1], ranges := (a, b.size) :: r.ranges })
  else none

/-- Bases for absent blocks on their own cores. -/
def State.refitAll (s : State) : Rooms → List Block → Option (List (Nat × Nat))
  | _, [] => some []
  | rs, b :: rest =>
    match rs.find? (·.1 == b.core) with
    | none => none
    | some r => match s.refit b r.2 with
      | none => none
      | some (a, x) =>
        (s.refitAll (modifyFirst (·.1 == b.core) (fun r => (r.1, x)) rs) rest).map fun l => (b.uid, a) :: l

/-- Tiles that absent cohorts of blocks bring back to a pair. -/
def State.keptTiles (s : State) (bs : List Block) (p : Nat) : Nat :=
  ((s.cohorts.filter fun c => pairOfCore c.core == p && bs.any (·.uid == c.block)).map (·.tiles.length)).foldl (· + ·) 0

/-- Where an absent block and its group fit again: every core has room, and its pair has half-tiles (15 R328). -/
def State.restoreSpots (s : State) (b : Block) : Option (List (Nat × Nat)) :=
  let bs := s.unitBlocks b
  let tiles := (dedup (bs.map fun b => pairOfCore b.core)).all fun p =>
    s.keptTiles bs p = 0 || ((s.mappedTiles p).length + s.keptTiles bs p ≤ 12 && (s.pair p).tiles.length + s.keptTiles bs p ≤ 16)
  if bs.all (·.phase = 2) && tiles then s.refitAll (s.rooms b.launch) bs else none

/-- An absent block of a launch, or of one before it, can return first. -/
def State.returnsFirst (s : State) (l : Launch) : Bool :=
  s.blocks.any fun b => b.phase = 2 && (b.launch == l.uid || (s.launch? b.launch).any fun x => earlier x l)
    && (s.restoreSpots b).isSome

/-- Event BLOCK_PLACEMENT (R185, R186, R182): places the next block or group of a launch when nothing before it fits, or
reserves cores for the first waiting block that fits nowhere. A failed dependence refuses the launch. -/
def execBlockPlacement (launch : Nat) (s : State) : Host.Outcome State Fault Refusal :=
  match s.launch? launch with
  | none => .next s
  | some l =>
    if l.phase = 0 && l.status = 0 && l.record.deps.any s.depFailed then
      .next ((s.modLaunch launch fun l => { l with status := 5 }).closeLaunch { l with status := 5 } 5)
    else if !s.waitsForPlace l then .next s
    else match s.spotsFor l with
      | some spots =>
        if s.returnsFirst l || (s.before l).any fun x => (s.spotsFor x).isSome then .next s
        else
          let s := spots.foldl (fun s sp => s.startBlock l sp) s
          let s := s.modLaunch launch fun l => { l with phase := 1, placed := l.placed + spots.length }
          .next { s with cores := s.cores.map fun (k : Core) =>
            (if k.reserved == some launch then { k with reserved := none } else k : Core) }
      | none =>
        if s.hasReserved launch || !(s.before l).isEmpty then .next s
        else .next ((s.toReserve l).foldl (fun s k => s.modCore k fun c => { c with reserved := some launch }) s)

/-- Blocks of a domain-8 launch issue nothing until every device has placed its share (21 R432). -/
def State.gated (s : State) (launch : Nat) : Bool :=
  match s.launch? launch with
  | some l => l.record.topDomain = 8 && (l.placed < l.blocks || l.peers.length + 1 < s.fabric.gsize)
  | none => false

/-- Event PLACEMENT_REPORT (21 R432): another device has placed its share of a launch, or refused it, which refuses the
launch here with the same STATUS. -/
def execPlacementReport (launch device : Nat) (status : Option Byte) (s : State) : Host.Outcome State Fault Refusal :=
  match s.launch? launch with
  | none => .next s
  | some l =>
    if l.record.topDomain != 8 || l.phase = 2 || !s.gated launch then .next s
    else match status with
      | none => .next (s.modLaunch launch fun l => { l with peers := insertAsc device l.peers })
      | some st =>
        let s := { s with co := if s.co.launch == launch && s.co.uid != 0 then Cohort.reset else s.co
                          others := s.others.filter fun c => c.launch != launch
                          blocks := s.blocks.filter fun b => b.launch != launch }
        .next (s.closeLaunch { l with status := st.toNat } st.toNat)

/-! ### Gathering tasks (R195, R196, R199) -/

/-- A task taken into a run: ticket, entry bytes, view-table entry, and whether the controller allocates it. -/
structure Taken where
  ticket : Nat
  bytes : List Byte
  view : DWord
  fresh : Bool

/-- What the run at the head of a task queue is: tasks in order, and how many entries are consumed. -/
structure Run where
  tasks : List Taken
  used : Nat
  next : Nat

/-- Collects the longest run (R195); withdrawn entries neither join nor break it (09 R215). -/
def State.gatherRun (s : State) (l : Launch) (d : Desc) : Nat → Run → Run
  | 0, run => run
  | fuel + 1, run =>
    let t := d.head + BitVec.ofNat 64 run.used
    match s.published d t with
    | none => run
    | some bs =>
      let queued := l.queued.find? (·.1 == t.toNat)
      let withdrawn := match queued with
        | some q => l.tasks.any fun v => v.entry == q.2 && v.withdrawn
        | none => false
      if withdrawn then s.gatherRun l d fuel { run with used := run.used + 1 }
      else
        let view := match queued with
          | some q => q.2
          | none => BitVec.ofNat 64 run.next
        let joins := match run.tasks with
          | [] => true
          | f :: _ => run.tasks.length < 96 && dwordAt f.bytes 0 == dwordAt bs 0
              && view == f.view + BitVec.ofNat 64 (64 * run.tasks.length)
        if joins then
          s.gatherRun l d fuel
            { tasks := run.tasks ++ [⟨t.toNat, bs, view, queued.isNone⟩], used := run.used + 1
              next := if queued.isNone then run.next + 64 else run.next }
        else run

/-- Consumes entries of a task queue. -/
def State.consumeTasks (s : State) (l : Launch) (d : Desc) (run : Run) : State :=
  (s.setHead l.record.taskq (d.head + BitVec.ofNat 64 run.used)).modLaunch l.uid fun l =>
    { l with queued := l.queued.filter fun q => !(d.head.toNat ≤ q.1 && q.1 < d.head.toNat + run.used) }

/-- Registers the view of one task of a run, and blanks it. -/
def State.startTask (s : State) (l : Launch) (decl : DWord) (ntile base lane : Nat) (x : Taken) : State :=
  let s := if x.fresh then
      let left := dwordAt x.bytes 52
      let parent := dwordAt x.bytes 40
      (s.put x.view.toNat (viewBytes 1 ntile 0 left parent decl 0)).modLaunch l.uid fun l =>
        { l with tasks := l.tasks ++ [{ entry := x.view, left := left, parent := parent, decl := decl, st := 1,
                                        withdrawn := false, base := base, lane := lane }] }
    else s.modLaunch l.uid fun l =>
      { l with tasks := modifyFirst (·.entry == x.view) (fun v => { v with base := base, lane := lane }) l.tasks }
  match (s.tasksOf l.uid).find? (·.entry == x.view) with
  | some v => s.blankView v
  | none => s

/-- Starts a task cohort from a run at a spot, in a task slot (R181, R184, R195, R196). -/
def State.startTasks (s : State) (l : Launch) (run : Run) (slot : Nat) (sp : Spot) : State :=
  match run.tasks with
  | [] => s
  | f :: _ =>
    let entry := dwordAt f.bytes 0
    let (decl, ntile) := s.declFor l.record entry
    let base := if decl = 0 then 0 else run.next
    let n := run.tasks.length
    let s := { s with setup := { s.setup with arenaNext := run.next + viewBlockSize (s.tilesAt decl) } }
    let s := (List.range n).foldl (fun s i => match run.tasks[i]? with
      | some x => s.startTask l decl ntile base i x
      | none => s) s
    let (uid, s) := s.openBlock l true sp 1
    let present := laneSetOf (· < n)
    let co := Cohort.start s l uid sp.core 0 0 sp.index 0 (l.record.blocks * l.record.c + slot) entry present
    let arg (j i : Nat) : Word := match run.tasks[i]? with
      | some x => word32At x.bytes (8 + 4 * j)
      | none => 0
    let args := (List.range 8).map fun j => laneNums.map (arg j)
    let s := s.addCohort { co with
      task := some slot, s := startRegs (BitVec.ofNat 64 base) f.view, v := args ++ co.v.drop 8
      spawn := laneNums.map fun i => ⟨if i < n then f.view + BitVec.ofNat 64 (64 * i) else 0, 0, 0⟩ }
    s.modLaunch l.uid fun l => { l with slots := slot :: l.slots }

/-- Event TASK_GATHER (R195): the controller takes the run at the head of the launch's task queue when a task slot is free,
a core can hold the cohort and the task arena has room. -/
def execTaskGather (launch : Nat) (s : State) : Host.Outcome State Fault Refusal :=
  match s.launch? launch with
  | none => .next s
  | some l =>
    if l.phase != 1 || l.status != 0 || !l.record.ten then .next s
    else match s.openQueue l.record.taskq with
      | .ok (some d, s) =>
        let run := s.gatherRun l d (d.resv - d.head).toNat ⟨[], 0, s.setup.arenaNext⟩
        match run.tasks with
        | [] => .next (if run.used = 0 then s else s.consumeTasks l d run)
        | f :: _ =>
          let slot := (List.range l.record.tslots).find? fun m => !l.slots.contains m
          let bytes := run.next - s.setup.arenaNext + viewBlockSize (s.tilesAt (s.declFor l.record (dwordAt f.bytes 0)).1)
          match slot with
          | none => .next s
          | some m => match placeOne (s.rooms launch) (l.record.need true) (2 ^ 31 + m) with
            | some (sp, _) =>
              if s.arenaRoom bytes then .next ((s.consumeTasks l d run).startTasks l run m sp) else .next s
            | none => .next s
      | .ok (none, s) => .next s
      | _ => .next s

/-- Event PRESS (R200, R201): the task controller performs a due press. -/
def execPress (entry : DWord) (s : State) : Host.Outcome State Fault Refusal :=
  match s.launches.find? fun l => l.presses.any fun p => p.entry == entry && p.stopped.isNone with
  | some l => match l.presses.find? fun p => p.entry == entry && p.stopped.isNone with
    | some p => .next (s.runPress l.uid p)
    | none => .next s
  | none => .next s

end Sys2Proof.Machine
end

