-- ==== Sys2Proof/Machine/Preempt.lean ====
section
/-! DEFINITION. Pre-emption: the request, its trap, `YIELD`, the forced save, the block's absence and its return (08 R187,
19 R387-R395). -/

namespace Sys2Proof.Machine

/-! ### The request (08 R187) -/

/-- The state with blocks thought out of their cores. -/
def State.without (s : State) (uids : List Nat) : State :=
  { s with blocks := s.blocks.map fun b => if uids.contains b.uid then { b with phase := 2 } else b }

/-- What a launch waits to place has room: an absent block of it first, else its next blocks. -/
def State.hasRoom (s : State) (l : Launch) (absent : Option Block) : Bool :=
  match absent with
  | some b => (s.restoreSpots b).isSome
  | none => (s.spotsFor l).isSome

/-- The first absent block of a launch. -/
def State.absentBlock (s : State) (launch : Nat) : Option Block :=
  s.blocks.find? fun b => b.launch == launch && b.phase = 2

/-- Priority of a block's launch. -/
def State.prioOf (s : State) (b : Block) : Nat :=
  match s.launch? b.launch with
  | some l => l.record.prio
  | none => 0

/-- The block may be a victim for a priority: resident, not asked yet, and its launch allows it (R187, 21 R432). -/
def State.mayLeave (s : State) (prio : Nat) (b : Block) : Bool :=
  b.phase = 0 && match s.launch? b.launch with
    | some l => !l.record.nopre && l.record.topDomain != 8 && l.record.prio + 2 ≤ prio
    | none => false

/-- The better victim of two: lower priority, then later start. -/
def State.worse (s : State) (a b : Block) : Bool :=
  s.prioOf a < s.prioOf b || (s.prioOf a = s.prioOf b && (b.started < a.started || (a.started = b.started && b.uid < a.uid)))

/-- The victim for a waiting launch. -/
def State.victim (s : State) (l : Launch) (absent : Option Block) : Option Block :=
  let ok (b : Block) : Bool := s.mayLeave l.record.prio b && (s.unitBlocks b).all (s.mayLeave l.record.prio)
    && (s.without ((s.unitBlocks b).map (·.uid))).hasRoom l absent
  (s.blocks.filter ok).foldl (fun m b => match m with
    | none => some b
    | some x => if s.worse b x then some b else some x) none

/-- Raises a request at this package time in every cohort of blocks (R387). -/
def State.askToLeave (s : State) (bs : List Block) : State :=
  let uids := bs.map (·.uid)
  let mark (c : Cohort) : Cohort := if c.uid != 0 && uids.contains c.block then { c with preempt := some s.time } else c
  { s with
    co := mark s.co, others := s.others.map mark
    blocks := s.blocks.map fun b => if uids.contains b.uid then { b with phase := 1, t0 := some s.time } else b }

/-- Event PREEMPT_REQUEST (08 R187): a block that has waited 20 us, since its launch was accepted (log 52), and has no
room asks a victim to leave. -/
def execPreemptRequest (launch : Nat) (s : State) : Host.Outcome State Fault Refusal :=
  match s.launch? launch with
  | none => .next s
  | some l =>
    let absent := s.absentBlock launch
    let leaving := (s.blocks.filter (·.phase = 1)).map (·.uid)
    if !(absent.isSome || s.waitsForPlace l) || s.time < l.accepted + 20000 || (s.without leaving).hasRoom l absent then .next s
    else match s.victim l absent with
      | some b => .next (s.askToLeave (s.unitBlocks b))
      | none => .next s

/-! ### The trap (R387) -/

/-- A strand that waits for nothing and is about to issue. -/
def Cohort.aboutToIssue (c : Cohort) : Option Strand :=
  c.strands.foldl (fun m t => if t.park.isSome then m else match m with
    | none => some t
    | some x => if t.id < x.id then some t else some x) none

/-- The focused strand takes the request in place of its instruction, once the trap can be entered. -/
def State.preemptTrap (s : State) : State :=
  let t := s.raise (trapOf 0x17 0 0)
  if t.co.tm || t.co.halt.isSome then t.setCo fun c => { c with preempt := none } else t

/-- The cohort takes a pre-empt request at its next issue boundary: it is in no trap, walk, halt or end. -/
def Cohort.takesPreempt (c : Cohort) : Bool :=
  c.preempt.isSome && !c.tm && !c.dir && !c.debug && !c.ending && c.halt.isNone && c.saved.isNone

/-- Event PREEMPT_TRAP (R387). -/
def execPreemptTrap (co : Nat) (s : State) : Host.Outcome State Fault Refusal :=
  match s.cohort? co with
  | none => .next s
  | some c =>
    if !c.takesPreempt then .next s
    else match c.aboutToIssue with
      | some t => .next (s.focus co t.id).preemptTrap
      | none => .next s

/-! ### YIELD and the forced save (R388-R390, R393) -/

/-- Nothing of the focused cohort is under way outside it: results, writes, accumulates, fabric answers, array commands
(R389). -/
def State.cohortQuiet (s : State) : Bool :=
  (s.co.strands.all fun t => t.outst.isEmpty && t.unacked.isEmpty && !s.accPending s.co.uid t.id && match t.park with
    | some (.fabric ms) => ms.all (·.answer.isSome)
    | _ => true)
    && !(((s.pair (pairOfCore s.co.core)).queue ++ (s.pair (pairOfCore s.co.core)).checks).any (·.cohort == s.co.uid))

/-- A request is pending for the focused cohort's block. -/
def State.leaving (s : State) : Bool := (s.block? s.co.block).any (·.phase = 1)

/-- Saves the focused cohort (R389, R391): its grants and requests for leave go, KEEPS is offered. -/
def State.save (s : State) (keepv zk keeps : Nat) : State :=
  let s := s.dropGrants s.co.uid fun _ => true
  let s := { s with dies := s.dies.map fun (d : Die) =>
    ({ d with waiting := d.waiting.filter fun r => r.cohort != s.co.uid } : Die) }
  (s.modBlock s.co.block fun b => { b with keeps := max b.keeps keeps }).setCo fun c =>
    { c with saved := some (keepv, zk), preempt := none }

/-- `YIELD` (R388, R389): the waits, then the save; with no request pending it only completes. -/
def execYield (o : UxForm) (s : State) : Host.Outcome State Fault Refusal :=
  issueSeq (.yield o) (fun s =>
    let keepv := (s.readU o.a.toNat).toNat
    let keeps := (s.readU o.b.toNat).toNat
    if keepv % 8 != 0 || s.co.nregs < keepv || keeps % 128 != 0 || (s.blockRange s.co.block).2 < keeps then
      .trap (wordTrap 0x01 0 (.yield o))
    else if !s.leaving then .done { post := s }
    else if !s.cohortQuiet then .park (.resource (.acks false)) s
    else
      let s := s.modBlock s.co.block Block.forceAll
      if 0 < s.forcedLeft s.co.block then .park (.resource (.acks false)) s
      else match s.wheyFlush 0 with
        | .miss a => .miss a
        | .fault c a => .whole (s.haltTrap (trapOf c 0 (BitVec.ofNat 64 a)))
        | .ok s => .done { post := s.save keepv o.ext.toNat keeps }) s

/-- Event FORCED_SAVE (R393): 20 us after the request, a cohort that has neither yielded nor ended is saved as `YIELD`
with everything kept, in whatever mode and position it stands. -/
def execForcedSave (co : Nat) (s : State) : Host.Outcome State Fault Refusal :=
  match s.cohort? co with
  | none => .next s
  | some c => match (s.block? c.block).bind (·.t0) with
    | none => .next s
    | some t0 =>
      if c.saved.isSome || s.time < t0 + 20000 then .next s
      else
        let s := s.focus co c.st.id
        if !s.cohortQuiet then .next s
        else
          let s := s.modBlock c.block Block.forceAll
          if 0 < s.forcedLeft c.block then .next s
          else
            let done (s : State) : State := s.save c.nregs 15 (s.blockRange c.block).2
            match s.wheyFlush 0 with
            | .miss a => .next (s.absent (dieOf c.core) a)
            | .fault x a =>
              .next (done (if c.halt.isSome then s else s.haltTrap (trapOf x 0 (BitVec.ofNat 64 a))))
            | .ok s => .next (done s)

/-! ### The block's absence (R391) -/

/-- Every cohort of a block has been saved or has ended, and no engine uses its scratchpad (log 53). -/
def State.mayGo (s : State) (b : Block) : Bool :=
  b.phase = 1 && (s.cohorts.filter (·.block == b.uid)).all (·.saved.isSome) && !s.blockBusy b

/-- What a saved cohort leaves with: the values of the tiles it keeps; its mappings end. -/
def State.takeTiles (s : State) (c : Cohort) : Cohort :=
  let zk := match c.saved with
    | some (_, z) => z
    | none => 0
  { c with
    tiles := (List.range 4).filterMap fun t =>
      if zk.testBit t then match (c.tile t).id with
        | some k => some (t, (s.tileVals (pairOfCore c.core) (some k)).getD [])
        | none => none
      else none
    z := List.replicate 4 .zero }

/-- A block leaves its core. -/
def State.leaveCore (s : State) (b : Block) : State :=
  let out (c : Cohort) : Cohort := if c.uid != 0 && c.block == b.uid then s.takeTiles c else c
  let image := s.spRead b.core (spanNat b.base b.keeps)
  let t := { s with co := out s.co, others := s.others.map out }
  (t.modBlock b.uid fun b => { b with phase := 2, image := image, t0 := none }).gcTiles (pairOfCore b.core)

/-- Event BLOCK_LEAVE (R391): a placement group leaves whole. -/
def execBlockLeave (block : Nat) (s : State) : Host.Outcome State Fault Refusal :=
  match s.block? block with
  | none => .next s
  | some b =>
    let bs := s.unitBlocks b
    if b.phase = 1 && bs.all s.mayGo then .next (bs.foldl (fun s b => s.leaveCore b) s) else .next s

/-! ### The return (R392) -/

/-- Registers from KEEPV on read 0 in every lane not removed. -/
def Cohort.trimRegs (c : Cohort) (keepv : Nat) : Cohort :=
  { c with v := (List.range c.v.length).map fun n =>
      if n < keepv then c.vreg n else blendLanes (~~~c.removed) (c.vreg n) [] }

/-- A kept tile takes a fresh half-tile pair. -/
def State.returnTile (s : State) (uid p : Nat) (x : Nat × List (List Word)) : State :=
  let k := (s.pair p).next
  (s.modPair p fun q => { q with next := k + 1, tiles := q.tiles ++ [{ id := k, vals := some x.2, checked := true }] }).modCohort
    uid fun c => { c with z := c.z.set x.1 (.pair k) }

/-- A restored cohort: its slot, registers and tiles; a wait for an absent page, or for leave, begins again. -/
def State.returnCohort (s : State) (c : Cohort) : State :=
  let keepv := match c.saved with
    | some (k, _) => k
    | none => c.nregs
  let again (t : Strand) : Strand := match t.park with
    | some (.page _) => { t with park := none }
    | _ => t
  let s := s.modCohort c.uid fun c =>
    { (c.trimRegs keepv).mapStrands again with slot := s.freeSlot c.core c.half, saved := none, tiles := [] }
  let s := c.tiles.foldl (fun s x => s.returnTile c.uid (pairOfCore c.core) x) s
  let s := c.strands.foldl (fun s t => match t.park with
    | some (.leave cls) => s.modDie (dieOf c.core) fun d =>
        { d with waiting := d.waiting ++ [{ cohort := c.uid, strand := t.id, cls := cls, watts := leaveCost cls, prio := c.prio }] }
    | _ => s) s
  if c.traced then (s.focus c.uid c.st.id).traceSync else s

/-- A block returns to its core at a base: kept bytes, the others unspecified (log 4), every presence bit 1, an empty eddy
tile. -/
def State.returnBlock (s : State) (b : Block) (base : Nat) : State :=
  let s := s.modBlock b.uid fun b =>
    { b with phase := 0, base := base, image := [], keeps := 0, eddy := b.eddy.map fun _ => none, t0 := none }
  let s := (s.scrub b.core base b.p).spWrite b.core ((spanNat base b.image.length).zip b.image)
  let s := s.modCore b.core fun k => k.setLines true (spanNat (base / 128) (b.size / 128))
  (s.cohorts.filter (·.block == b.uid)).foldl (fun s c => s.returnCohort c) s

/-- Event BLOCK_RESTORE (R392): the block, and its group, return to their cores when they have room and nothing earlier
can be placed; else, first in order, they reserve them (08 R186). -/
def execBlockRestore (block : Nat) (s : State) : Host.Outcome State Fault Refusal :=
  match s.block? block with
  | none => .next s
  | some b => match s.launch? b.launch with
    | none => .next s
    | some l =>
      if b.phase != 2 then .next s
      else match s.restoreSpots b with
        | some l' =>
          if (s.before l).any fun x => (s.spotsFor x).isSome then .next s
          else
            let s := l'.foldl (fun s x => match s.block? x.1 with
              | some b => s.returnBlock b x.2
              | none => s) s
            .next { s with cores := s.cores.map fun (k : Core) =>
              (if k.reserved == some l.uid then { k with reserved := none } else k : Core) }
        | none =>
          let ks := (s.unitBlocks b).map (·.core)
          if s.hasReserved l.uid || !(s.before l).isEmpty || ks.any (fun k => (s.core k).reserved.isSome) then .next s
          else .next (ks.foldl (fun s k => s.modCore k fun c => { c with reserved := some l.uid }) s)

end Sys2Proof.Machine
end

