-- ==== Sys2Proof/Machine/MemEvents.lean ====
section
/-! DEFINITION. Moves of the agents around the cores: results and checks (01 R25-R27), fills, acknowledgements and
accumulates (10 R236-R245, 11 R253-R257), arrivals (12 R451), reports (16 R343), leave (08 R192, R193, 16 R358), trace and
stall counters (20 R404-R408). -/

namespace Sys2Proof.Machine

/-- Unparks every strand whose wait satisfies a test, the halted strand's during a run of the program buffer included. -/
def State.wake (s : State) (p : Cohort → Wait → Bool) : State :=
  let g (c : Cohort) : Cohort := c.mapStrands fun t =>
    match t.park with
    | some w => if p c w then { t with park := none } else t
    | none => t
  let held := match s.dbg.buffer, s.dbg.held with
    | some (k, _), some w => match (s.co :: s.others).find? (·.uid == k) with
      | some c => if p c w then none else some w
      | none => some w
    | _, h => h
  { s with co := g s.co, others := s.others.map g, dbg := { s.dbg with held := held } }

/-- A strand of a cohort. -/
def State.strand? (s : State) (co st : Nat) : Option Strand := (s.cohort? co).bind (·.strand? st)

/-! ### Results and checks (01 R25-R27, 03 R65) -/

/-- The value of a result can be delivered: a tile's read waits for its check (16 R351). -/
def State.destReady (s : State) : Dest → Bool
  | .tile _ _ _ p k => s.tileReady p (some k)
  | _ => true

/-- Registers that a tile's read writes (16 R351): rows by lane, columns from 8g. -/
def tileColumns (v : List (List Word)) (d g : Nat) : List (Nat × List Word) :=
  (List.range 8).map fun j => (d + j, laneVals fun i => tileElem' v i (8 * g + j))

/-- Writes a result's destination for the focused strand. -/
def State.land (s : State) : Dest → State
  | .v n m vals => s.writeV n m vals
  | .u c w => s.writeU c w
  | .tile d g m p k =>
    let s := (tileColumns ((s.tileVals p (some k)).getD []) d g).foldl (fun s x => s.writeV x.1 m x.2) s
    s

/-- Event RESULT_LANDING (03 R65): the k-th outstanding result of a strand is written. -/
def execResultLanding (co st k : Nat) (s : State) : Host.Outcome State Fault Refusal :=
  match (s.strand? co st).bind (·.outst[k]?) with
  | none => .next s
  | some o =>
    if !o.dests.all s.destReady then .next s
    else
      let s := s.focus co st
      let s := o.dests.foldl (fun s d => s.land d) s
      .next ((s.setSt fun t => { t with outst := t.outst.eraseIdx k }).gcTiles (pairOfCore s.co.core))

/-- The cohort is at an issue boundary where the device may rewind it or deliver a late event (19 R381). -/
def Cohort.atBoundary (c : Cohort) : Bool := !c.dir && c.halt.isNone && c.saved.isNone && !c.ending

/-- Event CHECK_MISMATCH (01 R25, R26): the check of an instruction that has not passed fails; the cohort is rewound to its
count. Its number of mismatches rises. -/
def execCheckMismatch (co st : Nat) (count : DWord) (s : State) : Host.Outcome State Fault Refusal :=
  match s.cohort? co with
  | none => .next s
  | some c => match c.strand? st with
    | none => .next s
    | some t =>
      if !c.atBoundary || c.special || count < t.checked || t.icnt ≤ count || count < t.floor then .next s
      else
        let s := s.focus co st
        let s := s.setCo fun c =>
          if c.mism.any (·.1 == count) then { c with mism := modifyFirst (·.1 == count) (fun m => (m.1, m.2 + 1)) c.mism }
          else { c with mism := c.mism ++ [(count, 1)] }
        .next (s.deviceWalk st count)

/-- Protected storage finds an error (19 R383): a corrected one is counted; uncorrectable ones poison memory or scratchpad,
whose bytes then hold free values, or halt the cohort before the instruction that reads the register (19 R384). -/
def State.upset (s : State) : Upset → State
  | .corrected d => s.modDie d fun x => { x with corrected := x.corrected + 1 }
  | .memory u => if paMapped (8 * u) then { s with poison := insertAsc u s.poison } else s
  | .scratch k u =>
    if 262144 ≤ u then s
    else (s.spWrite k ((spanNat (8 * u) 8).map fun a => (a, Config.lostByte s.tick a))).modCore k fun c =>
      { c with spBad := insertAsc u c.spBad }
  | .register co st =>
    match s.cohort? co with
    | none => s
    | some c => match c.strand? st with
      | none => s
      | some t =>
        if !c.atBoundary then s
        else ((s.focus co st).setCo fun c => { c with halt := some .check }).toFw (.check co t.icnt.low)

/-- The focused strand takes its late fault, once the trap can be entered (01 R27). -/
def State.lateTrap (s : State) (ev : LateEv) : State :=
  let t := s.raise { trapOf ev.code ev.sub ev.info with late := true }
  if s.co.debug || t.co.halt.isSome || (!s.co.tm && t.co.tm) then t.setSt fun st => { st with late := none } else t

/-- Event LATE_FAULT (01 R27): the access that faulted had no effect, and nothing of its strand was issued after it. -/
def execLateFault (co : Nat) (s : State) : Host.Outcome State Fault Refusal :=
  match s.cohort? co with
  | none => .next s
  | some c =>
    if !c.atBoundary then .next s
    else match c.strands.find? (·.late.isSome) with
      | none => .next s
      | some t => match t.late with
        | some ev => .next ((s.focus co t.id).lateTrap ev)
        | none => .next s

/-! ### Translation and code (10 R245, 03 R62, R63) -/

/-- Event PAGE_WALK (R245): a walk of a die ends. A page found goes to the TLBs and its accesses issue again; an absent one
is reported and parks them under code 13. -/
def execPageWalk (die : Nat) (va : DWord) (s : State) : Host.Outcome State Fault Refusal :=
  let page := va.toNat / 2 ^ 16
  if !(s.die die).walks.contains page then .next s
  else
    let s := s.modDie die fun d => { d with walks := d.walks.filter (· != page) }
    let waits (w : Wait) : Bool := match w with
      | .walking d v => d == die && v.toNat / 2 ^ 16 == page
      | _ => false
    match s.pageWalk va.toNat with
    | some t =>
      let cores := dedup ((s.cohorts.filter fun c => c.strands.any fun x => x.park.any waits).map (·.core))
      let s := s.modDie die fun d => { d with tlb := (t :: d.tlb.filter fun x => !x.covers va.toNat).take 16384 }
      let s := cores.foldl (fun s k => s.modCore k fun c =>
        { c with tlb := (t :: c.tlb.filter fun x => !x.covers va.toNat).take 384 }) s
      .next (s.wake fun _ w => waits w)
    | none =>
      if s.invalid.contains page then .next (s.wake fun _ w => waits w)
      else .next ((s.absent die va.toNat).mapParks fun _ _ w => if waits w then .page va else w)

/-- Event CODE_FILL (03 R62, R63): a line arrives, and its version is pinned for the launch. -/
def execCodeFill (launch : Nat) (line : DWord) (s : State) : Host.Outcome State Fault Refusal :=
  let waits (c : Cohort) (w : Wait) : Bool := match w with
    | .fill l => c.launch == launch && l == lineOf line
    | _ => false
  let s := s.codeFill launch (lineOf line)
  match s.xlateWalk (lineOf line).toNat .fetch with
  | .miss =>
    if (s.pinned launch (lineOf line)).isSome then .next (s.wake waits)
    else .next (s.mapParks fun c _ w => if waits c w then .page (lineOf line) else w)
  | _ => .next (s.wake waits)

/-- Event FIRMWARE_DECLARE_INVALID (R245): an absent page is fatal from now on; its accesses issue again. -/
def execFirmwareDeclareInvalid (va : DWord) (s : State) : Host.Outcome State Fault Refusal :=
  let page := va.toNat / 2 ^ 16
  if (s.pageWalk va.toNat).isSome then .next s
  else
    let s := { s with invalid := insertAsc page s.invalid
                      fw := s.fw.filter fun r => match r with
                        | .page _ v => v.toNat / 2 ^ 16 != page
                        | _ => true }
    .next (s.wake fun _ w => match w with
      | .page v => v.toNat / 2 ^ 16 == page
      | _ => false)

/-! ### L1, RDC and acknowledgements (10 R236, 11 R253-R257, 21 R416) -/

/-- Copies of a line that a read brings into an L1: words that it does not hold. -/
def State.installLine (s : State) (core line : Nat) : State :=
  let s := s.takeBack line
  (spanNat (32 * line) 32).foldl (fun s wa =>
    if ((s.core core).l1Find wa).isSome || s.poisoned (4 * wa) then s
    else
      let v := if homeDie (4 * wa) = dieOf core then s.homeWord wa else (s.rdcWord (dieOf core) wa).getD (s.homeWord wa)
      s.modCore core fun c =>
        { c with l1 := { wa := wa, val := v, owned := false, dirty := false, since := s.cycle } :: c.l1 }) s

/-- Event LINE_FILL (R236): the oldest miss-status entry of a line is served. -/
def execLineFill (core line : Nat) (s : State) : Host.Outcome State Fault Refusal :=
  match (s.core core).mse.find? (·.line == line) with
  | none => .next s
  | some m =>
    let s := s.modCore core fun c => { c with mse := dropFirst (·.line == line) c.mse }
    .next (if m.read then s.installLine core line else s)

/-- The RDC copy of a core's die takes the words of a line that the core owns (11 R256, 21 R416). -/
def State.rdcAck (s : State) (core line : Nat) : State :=
  let own := (s.core core).l1.filter fun w => w.owned && w.wa / 32 == line
  s.modDie (dieOf core) fun d =>
    { d with rdc := modifyAll (·.line == line) (fun l =>
        { l with words := l.words.map fun ws => own.foldl (fun ws w => ws.set (w.wa % 32) w.val) ws }) d.rdc }

/-- Stores acknowledged: arrivals wait for them no longer. -/
def State.ackArrivals (s : State) (id : Nat) : State :=
  { s with arrivals := s.arrivals.map fun a => { a with after := a.after.filter (· != id) } }

/-- Stores of a cohort that await the acknowledgement of a fabric transaction. -/
def Cohort.unackOf (c : Cohort) (tid : Word) : List Nat :=
  c.strands.flatMap fun (t : Strand) => t.unacked.filterMap fun (u : Unack) => if u.tid == some tid then some u.id else none

/-- Event STORE_ACK (11 R257): the home acknowledges the oldest store of a strand to this device; a remote home returns
its completion time to the horizon. -/
def execStoreAck (co st : Nat) (s : State) : Host.Outcome State Fault Refusal :=
  match (s.strand? co st).bind fun t => t.unacked.find? (·.tid.isNone) with
  | none => .next s
  | some u =>
    let h := if u.remote then s.completion u.line else 0
    let core := match s.cohort? co with
      | some c => c.core
      | none => 0
    let s := s.modCohort co fun c => c.modStrand st fun t =>
      { t with unacked := t.unacked.filter (·.id != u.id), horizon := max t.horizon h }
    .next ((if u.remote then s.rdcAck core u.line else s).ackArrivals u.id)

/-- Event HORIZON_PASSED (11 R257): package time has passed a strand's completion horizon. -/
def execHorizonPassed (co st : Nat) (s : State) : Host.Outcome State Fault Refusal :=
  .next (s.modCohort co fun c => c.modStrand st fun t =>
    if t.horizon < s.time then { t with horizon := 0 } else t)

/-- Event RDC_FILL (11 R255, 21 R416, R417): a fill returns the line at its home with a lease. -/
def execRdcFill (die line : Nat) (s : State) : Host.Outcome State Fault Refusal :=
  if !(s.die die).rdc.any (fun l => l.line == line && l.words.isNone) then .next s
  else
    let s := s.takeBack line
    let k := sliceOf (128 * line)
    let e := s.time + (s.slice k).lease
    let ws := (spanNat (32 * line) 32).map s.homeWord
    let s := s.modSlice k fun sl =>
      { sl with lx := (line, max e (match sl.lx.find? (·.1 == line) with | some x => x.2 | none => 0))
                  :: sl.lx.filter (·.1 != line) }
    .next (s.modDie die fun d =>
      { d with rdc := modifyFirst (fun l => l.line == line && l.words.isNone)
                 (fun l => { l with words := some ws, expiry := e }) d.rdc })

/-- Event L1_WRITEBACK_TIMER (11 R253): the core's owned dirty words go home. -/
def execL1WritebackTimer (core : Nat) (s : State) : Host.Outcome State Fault Refusal := .next (s.releaseL1 core)

/-- An L1 replaces a line (10 R235, R238): owned dirty words go home, an update-only copy is taken back. -/
def State.evictLine (s : State) (core line : Nat) : State :=
  let own := ((s.core core).l1.filter fun w => w.wa / 32 == line && w.owned && w.dirty).map (·.wa)
  let s := own.foldl (fun s wa => s.writeBack core wa) s
  let s := if (s.core core).upd.any (·.line == line) then s.takeBack line else s
  s.modCore core fun c => { c with l1 := c.l1.filter (·.wa / 32 != line) }

/-- A home slice replaces a line of its L2: an expiry that lies in the future folds into the lease floor (21 R417). -/
def State.evictHome (s : State) (line : Nat) : State :=
  s.modSlice (sliceOf (128 * line)) fun sl => { sl with
    lx := sl.lx.filter (·.1 != line)
    floor := sl.lx.foldl (fun f x => if x.1 == line && s.time < x.2 then max f x.2 else f) sl.floor }

/-- An RDC replaces a line that is valid (21 R416). -/
def State.evictRdc (s : State) (die line : Nat) : State :=
  s.modDie die fun d => { d with rdc := d.rdc.filter fun l => !(l.line == line && l.words.isSome) }

/-! ### Accumulates (10 R238-R242) -/

/-- A slice with the window of the current cycle (R239). -/
def Slice.roll (sl : Slice) (cycle : Nat) : Slice :=
  if cycle / sl.window * sl.window = sl.windowAt then sl
  else { sl with windowAt := cycle / sl.window * sl.window, grants := [] }

/-- Event ACC_WINDOW_ROLLOVER (R239). -/
def execAccWindowRollover (slice : Nat) (s : State) : Host.Outcome State Fault Refusal :=
  .next (s.modSlice slice fun sl => sl.roll s.cycle)

/-- The oldest valid entry of a tile: its place and the entry. -/
def oldestEntry (l : List (Option EddyEnt)) : Option (Nat × EddyEnt) :=
  (List.range l.length).foldl (fun m k => match l[k]? with
    | some (some e) => (match m with
      | none => some (k, e)
      | some x => if e.born < x.2.born then some (k, e) else some x)
    | _ => m) none

/-- Adds an entry to a block's forced deliveries. -/
def Block.force (b : Block) (e : EddyEnt) : Block := { b with forced := b.forced ++ [e] }

/-- Places an entry in the lowest invalid place; in a full tile the oldest entry is forced first, and its place taken
(R241). -/
def Block.placeEntry (b : Block) (e : EddyEnt) : Block :=
  match (List.range b.eddy.length).find? fun k => (b.eddy.getD k none).isNone with
  | some k => { b with eddy := b.eddy.set k (some e) }
  | none => match oldestEntry b.eddy with
    | some (k, x) => { b.force x with eddy := b.eddy.set k (some e) }
    | none => b.force e

/-- A refused addend in its block's tile (R241). -/
def Block.refuse (b : Block) (a : AccAdd) (cycle : Nat) : Block :=
  match a.carried with
  | some (refs, born) =>
    let e : EddyEnt := { refs := refs + 1, op := a.op, addr := a.pa, addend := a.val, born := born }
    if 15 < refs + 1 then b.force { e with refs := 15 } else b.placeEntry e
  | none =>
    if b.eddy.any (eddyHit a.pa a.op) then
      { b with eddy := modifyFirst (eddyHit a.pa a.op) (fun x => x.map fun e =>
          { e with addend := accCombine a.op e.addend a.val, born := min e.born cycle }) b.eddy }
    else b.placeEntry { refs := 1, op := a.op, addr := a.pa, addend := a.val, born := cycle }

/-- Logs a home event of the refusal order (20 R410): kind 0 grant, 1 refusal, 2 forced delivery. -/
def State.logHome (s : State) (kind : Nat) (line core : Nat) : State :=
  s.logInput .refusal 0 (sliceOf (128 * line)) 0 [BitVec.ofNat 64 kind, BitVec.ofNat 64 line, BitVec.ofNat 64 core]

/-- Event UPDATE_ONLY_REQUEST (R238, R239, R241): a slice answers the request at its head. -/
def execUpdateOnlyRequest (slice : Nat) (s : State) : Host.Outcome State Fault Refusal :=
  match (s.slice slice).requests with
  | [] => .next s
  | r :: rest =>
    let s := s.modSlice slice fun sl => { (sl.roll s.cycle) with requests := rest }
    let sl := s.slice slice
    let n := match sl.grants.find? (·.1 == r.line) with
      | some g => g.2
      | none => 0
    let held := (s.core r.core).upd.any (·.line == r.line)
    if !held && (sl.quota ≤ n || rest.any (·.line == r.line)) then
      .next (r.adds.foldl (fun s a => s.modBlock a.block fun b => b.refuse a s.cycle) (s.logHome 1 r.line r.core))
    else
      let s := s.modSlice slice fun sl =>
        { sl with grants := (r.line, n + 1) :: sl.grants.filter (·.1 != r.line) }
      let s := (spanNat (32 * r.line) 32).foldl (fun s wa => s.recall none wa) (s.logHome 0 r.line r.core)
      let s := s.modCore r.core fun c =>
        { c with l1 := c.l1.filter (·.wa / 32 != r.line)
                 upd := if held then c.upd else c.upd ++ [{ line := r.line, sums := [] }] }
      .next (r.adds.foldl (fun s a => s.accLocal r.core a.pa a.op a.val) s)

/-- Event EDDY_AGE_EXPIRY (R242): entries of age 65,536 cycles are forced, oldest first. -/
def execEddyAgeExpiry (block : Nat) (s : State) : Host.Outcome State Fault Refusal :=
  let old (e : Option EddyEnt) : Bool := match e with
    | some e => e.born + 65536 ≤ s.cycle
    | none => false
  .next (s.modBlock block fun b =>
    { b with forced := b.forced ++ ((b.eddy.filter old).filterMap id).foldr insertAge []
             eddy := b.eddy.map fun e => if old e then none else e })

/-- The copies of a line that a core and its die would read from are dropped: the core's strands see the delivery (11 R250,
R260). -/
def State.forgetLine (s : State) (core line : Nat) : State :=
  (s.modCore core fun c => { c with l1 := c.l1.filter fun w => w.owned || w.wa / 32 != line }).modDie (dieOf core) fun d =>
    { d with rdc := d.rdc.filter (·.line != line) }

/-- Event FORCED_DELIVERY (R242, 12 R295): the oldest forced entry of a block is combined at its home; a waiting `RFLUSH`
counts it. -/
def execForcedDelivery (block : Nat) (s : State) : Host.Outcome State Fault Refusal :=
  match (s.block? block).bind (·.forced.head?) with
  | none => .next s
  | some e =>
    let s := (s.accAtHome e.addr e.op e.addend).logHome 2 (e.addr / 128) 0
    let s := match s.block? block with
      | some b => s.forgetLine b.core (e.addr / 128)
      | none => s
    let s := s.modBlock block fun b => { b with forced := b.forced.drop 1 }
    .next (s.mapParks fun c _ w => match w with
      | .resource (.flush n) => if c.block == block then .resource (.flush (n - 1)) else w
      | w => w)

/-! ### Store arrivals (12 R284, R451, 21 R428) -/

/-- Sends the arrival of a fabric designator to its device: it awaits its acknowledgement, or sets the fabric error
(R451, 21 R429). -/
def State.fabArrival (s : State) (a : Arrival) : State :=
  let va := a.dsg.toNat
  let (dev, target) := s.fabTarget va
  let fail (s : State) : State := match s.cohort? a.cohort with
    | none => s.toFw (.late a.cohort 0x0B a.dsg)
    | some _ => s.modCohort a.cohort fun c =>
        c.modStrand (if (c.strand? a.strand).isSome then a.strand else c.lowest) fun t =>
          { t with fabErr := some (t.fabErr.getD a.dsg) }
  if !(spanNat va 16).all (s.fabricByteOk .write) then fail s
  else match s.linkFor dev target.toNat with
    | none => fail s
    | some k =>
      let m : FabMsg := { tid := s.fabric.tid, device := dev, link := some k, kind := 5, va := a.dsg, target := target,
                          data := [], mask := [], op := none, cohort := a.cohort, strand := a.strand, lane := 0, size := 16,
                          piece := none }
      let u : Unack := ⟨s.fresh, va / 128, true, some s.fabric.tid⟩
      let s := { s with fabric := { s.fabric with out := s.fabric.out ++ [m], tid := s.fabric.tid + 1 }, fresh := s.fresh + 1 }
      s.modCohort a.cohort fun c => c.modStrand a.strand fun t => { t with unacked := t.unacked ++ [u] }

/-- Where an arrival's object lies: a place, a wait, or a fatal result. -/
inductive ArriveAt where
  | at (p : Place)
  | wait (s : State)
  | drop (code : Nat)
  | fabric

/-- Finds the object of a store arrival (R451, R287). -/
def State.arrivalPlace (s : State) (a : Arrival) : ArriveAt :=
  let f : Origin := ⟨a.core, a.block, match s.block? a.block with | some b => b.launch | none => 0⟩
  if a.dsg.getLsbD 63 then
    let addr := a.dsg.toNat % 2 ^ 24
    let own := addr < 0x800000 || spLocal a.core addr
    match own, s.block? a.block with
    | true, none => .drop 0x0C
    | _, b =>
      if own && b.any (·.phase = 2) then .wait s
      else if own && b.any (·.phase = 3) then .drop 0x0C
      else if own && (s.blockRange a.block).2 ≤ spOffset addr then .drop 0x0A
      else match s.spPlace f addr 16 with
        | .ok (.sp k offs) =>
          if !(s.core k).present (offs.headD 0 / 128) then .wait s
          else if (s.spPoison k offs).isSome then .drop 0x0B
          else .at (.sp k offs)
        | .late c _ _ => .drop c
        | _ => .wait s
  else if isFabric a.dsg.toNat then .fabric
  else match s.walkRun .write none (spanNat a.dsg.toNat 16) with
    | .miss va => .wait (s.absent (dieOf a.core) va)
    | .fault c _ => .drop c
    | .ok pas => if pas.any s.poisoned then .drop 0x0B else .at (.mem pas)

/-- Event STORE_ARRIVAL (R451): the k-th arrival whose data has landed is made, waits, or is dropped with a report. -/
def execStoreArrival (k : Nat) (s : State) : Host.Outcome State Fault Refusal :=
  match s.arrivals[k]? with
  | none => .next s
  | some a =>
    if !a.after.isEmpty then .next s
    else
      let gone : State := { s with arrivals := s.arrivals.eraseIdx k }
      match s.arrivalPlace a with
      | .at p => .next (gone.storeArrivalAt a.core p)
      | .wait t => .next t
      | .drop c => .next (gone.report a.cohort a.strand c a.dsg)
      | .fabric => .next (gone.fabArrival a)

/-- Event LINK_ENTRY_ARRIVAL (09 R221, 15 R332): the k-th entry on its way reaches its receiving end, behind those before
it. -/
def execLinkEntryArrival (k : Nat) (s : State) : Host.Outcome State Fault Refusal :=
  match s.flying[k]? with
  | none => .next s
  | some e =>
    if (s.flying.take k).any fun x => x.cluster == e.cluster && x.queue == e.queue then .next s
    else .next { s with flying := s.flying.eraseIdx k, ends := s.ends ++ [e] }

/-! ### Reports (16 R343) -/

/-- A strand that may take its oldest report: it is about to issue, or parked in `WAITC` or `WAITK`. -/
def Strand.takesReport (t : Strand) : Bool :=
  !t.reports.isEmpty && t.late.isNone && match t.park with
    | none | some (.waitc _ _) | some (.chunk _ _) => true
    | _ => false

/-- The focused strand takes its oldest report, once the trap can be entered. -/
def State.reportTrap (s : State) : State :=
  match s.co.st.reports with
  | [] => s
  | r :: rest =>
    let t := s.raise (trapOf 0x1B r.sub r.addr)
    if t.co.tm || t.co.halt.isSome then t.setSt fun st => { st with reports := rest } else t

/-- Event REPORT_DELIVERY (R343). -/
def execReportDelivery (co : Nat) (s : State) : Host.Outcome State Fault Refusal :=
  match s.cohort? co with
  | none => .next s
  | some c =>
    if !c.atBoundary || c.special then .next s
    else match c.strands.find? Strand.takesReport with
      | some t => .next (s.focus co t.id).reportTrap
      | none => .next s

/-! ### Leave (08 R192, R193, 16 R358) -/

/-- The waiting request served first: highest priority, then arrival. -/
def firstRequest (l : List LeaveReq) : Option LeaveReq :=
  l.foldl (fun m r => match m with
    | none => some r
    | some x => if x.prio < r.prio then some r else some x) none

/-- Event LEAVE_GRANT (R193, 22 R446): a die's sluice grants the first request when it fits and no throttle holds. -/
def execLeaveGrant (die : Nat) (s : State) : Host.Outcome State Fault Refusal :=
  match firstRequest (s.die die).waiting with
  | none => .next s
  | some r =>
    if s.power.thr || s.sluiceCap die < (s.die die).granted + r.watts then .next s
    else
      let mine (q : LeaveReq) : Bool := q.cohort == r.cohort && q.strand == r.strand
      .next ((s.modDie die fun d => { d with waiting := dropFirst mine d.waiting }).addGrant r.cohort r.cls)

/-- Watts that a die has free. -/
def State.sluiceFree (s : State) (die : Nat) : Nat := s.sluiceCap die - (s.die die).granted

/-- Takes back lent watts for a die from the others' unused borrowings. -/
def State.reclaim (s : State) (die : Nat) : State :=
  ((List.range 4).filter (· != die)).foldl (fun s e =>
    let x := min (min (s.die e).borrowed (s.sluiceFree e)) (s.die die).lent
    (s.modDie e fun d => { d with borrowed := d.borrowed - x }).modDie die fun d => { d with lent := d.lent - x }) s

/-- Event SLUICE_LEND (R193): a sluice with a request waiting reclaims what it lent; another lends its unused share to the
other three in equal parts (log 54). -/
def execSluiceLend (die : Nat) (s : State) : Host.Outcome State Fault Refusal :=
  if 3 < die then .next s
  else if !(s.die die).waiting.isEmpty then .next (s.reclaim die)
  else
    let q := (s.sluiceFree die - (s.die die).borrowed) / 3
    .next (((List.range 4).filter (· != die)).foldl (fun s e =>
      (s.modDie e fun d => { d with borrowed := d.borrowed + q }).modDie die fun d => { d with lent := d.lent + q }) s)

/-- Event LEAVE_CHAIN_RELEASE (R192): the pair's array has been idle for 2,048 cycles. -/
def execLeaveChainRelease (co tile : Nat) (s : State) : Host.Outcome State Fault Refusal :=
  match s.cohort? co with
  | none => .next s
  | some c =>
    let p := s.pair (pairOfCore c.core)
    if p.queue.isEmpty && p.idle + 2048 ≤ s.cycle then .next (s.dropGrants co fun g => g.use == 1 && g.tile == tile)
    else .next s

/-- Event LEAVE_UNUSED_EXPIRY (16 R358): unused grants of 16,384 cycles are released. -/
def execLeaveUnusedExpiry (co : Nat) (s : State) : Host.Outcome State Fault Refusal :=
  .next (s.dropGrants co fun g => g.use == 0 && g.since + 16384 ≤ s.cycle)

/-! ### Trace (20 R406-R408) -/

/-- Event TRACE_TIME_PACKET: a TIME packet while a core's stream is active. -/
def execTraceTimePacket (core : Nat) (s : State) : Host.Outcome State Fault Refusal :=
  if s.streamActive core then .next (s.tracePut core (packet 9 0 0 (dwordWords (BitVec.ofNat 64 s.time)))) else .next s

/-- Event TRACE_SUMMARY: a SUMM packet of a cohort that is not under full trace. -/
def execTraceSummary (co : Nat) (s : State) : Host.Outcome State Fault Refusal :=
  match s.cohort? co with
  | some c => .next (s.summary c)
  | none => .next s

/-- The cohort under full trace on a core. -/
def State.tracedOn (s : State) (core : Nat) : Option Cohort := s.cohorts.find? fun c => c.core == core && c.traced

/-- Event TRACE_ROOM_RETURN: the firmware has emptied a core's region; an OVFL packet and a SYNC follow lost packets. -/
def execTraceRoomReturn (core : Nat) (s : State) : Host.Outcome State Fault Refusal :=
  let lost := (s.core core).trace.lost
  let s := s.modCore core fun c => { c with trace := { c.trace with words := [], lost := 0 } }
  if lost = 0 then .next s
  else
    let s := s.tracePut core (packet 11 0 lost [])
    match s.tracedOn core with
    | some c => .next (((s.tracePut core (packet 1 c.st.id 0 (dwordWords (c.st.pc.setWidth 64) ++ dwordWords c.st.icnt)))).modCohort
        c.uid fun c => { c with sinceSync := 0 })
    | none => .next s

/-! ### Unassigned opcodes and stalls -/

/-- ILLEGAL_INSTRUCTION (03 R72, R75): the focused strand issues a word whose opcode is not assigned. -/
def execIllegalInstruction (word ext : Word) (s : State) : Host.Outcome State Fault Refusal :=
  .next (s.raise (trapOf 0x01 0 (pairOf ext word)))

/-- Park code of a wait (08 R191). -/
def Wait.code : Wait → Option Nat
  | .settle | .landed => some 1
  | .waitc _ _ => some 2
  | .line => some 3
  | .barrier _ _ _ | .barW _ _ => some 4
  | .waitq _ _ => some 5
  | .chunk _ _ | .task _ | .join => some 6
  | .leave _ => some 7
  | .array => some 8
  | .regang => some 11
  | .resource _ => some 12
  | .page _ => some 13
  | .queue _ | .post _ _ => some 14
  | .fill _ => some 15
  | .walking _ _ | .fabric _ | .late => none

/-- The strand waits for an absent page. -/
def Strand.awaitsPage (t : Strand) : Bool :=
  match t.park with
  | some (.page _) => true
  | _ => false

/-- An absent page of one strand parks the cohort (01 R27). -/
def Cohort.awaitsPage (c : Cohort) : Bool := c.strands.any Strand.awaitsPage

/-- Park code of a strand of a cohort (R191): another strand's walk or trap mode holds it, or an absent page the cohort; a
strand that waits for nothing has code 0. -/
def Cohort.codeOf (c : Cohort) (t : Strand) : Option Nat :=
  if t.awaitsPage then some 13
  else if c.dir && !c.tm then
    match c.walk with
    | some w => if w.strand == t.id then none else some 9
    | none => none
  else if c.tm && c.trapped != t.id then some 10
  else match t.park with
    | none => some (if c.awaitsPage then 13 else 0)
    | some w => w.code

/-- The counter that a cycle without issue advances. -/
def Cohort.stallCode (c : Cohort) : Option Nat :=
  (c.strands.filterMap c.codeOf).foldl (fun m k => match m with
    | none => some k
    | some x => some (min x k)) none

/-- Event STALL_CYCLE (20 R404, 08 R191): a cycle in which no strand of a cohort issued. -/
def execStallCycle (co : Nat) (s : State) : Host.Outcome State Fault Refusal :=
  .next (s.modCohort co fun c =>
    if c.halt.isSome || c.saved.isSome then c
    else match c.stallCode with
      | some k => { c with stalls := modifyAt (fun n => min (n + 1) 0xFFFFFFFF) c.stalls k }
      | none => c)

end Sys2Proof.Machine
end

