-- ==== Sys2Proof/Machine/LinkEvents.lean ====
section
/-! DEFINITION. The crossbar and the fibre links (21 R415, R419-R426, 22 R444). -/

namespace Sys2Proof.Machine

/-- Event CROSSBAR_PACKET (R415): the oldest packet of a channel arrives; its owner acknowledges it, or drops it when its
CRC fails, and the writer sends it again in its place. -/
def execCrossbarPacket (channel : Nat) (crcGood : Bool) (s : State) : Host.Outcome State Fault Refusal :=
  if crcGood then .next { s with packets := dropFirst (·.channel == channel) s.packets } else .next s

/-! ### Links -/

/-- Changes a link that is up. -/
def State.modLink (s : State) (k : Nat) (f : Link → Link) : State :=
  { s with fabric := { s.fabric with links := modifyAt (fun l => if l.down then l else f l) s.fabric.links k } }

/-- A link, when it is up. -/
def State.upLink (s : State) (k : Nat) : Option Link :=
  match s.fabric.links[k]? with
  | some l => if l.down then none else some l
  | none => none

/-- Sends a control flit: it takes the next SEQ and stays in the replay buffer (R422). -/
def LinkDir.send (d : LinkDir) (c : Ctl) : LinkDir :=
  { d with seq := d.seq + 1, replay := d.replay ++ [d.seq], flits := d.flits + 1, sent := c :: d.sent }

/-- Sends a control flit on a link. -/
def Link.send (l : Link) (c : Ctl) : Link := { l with tx := l.tx.send c }

/-- A message under way fails at every link (R429): a read answers badly, a write sets the fabric error. -/
def State.failMsg (s : State) (m : FabMsg) : State :=
  let answer (w : FabWait) : FabWait := if w.tid == m.tid && w.answer.isNone then { w with answer := some (false, []) } else w
  let s := { s with fabric := { s.fabric with out := s.fabric.out.filter (·.tid != m.tid) } }
  if m.cohort = 0 then
    { s with cores := s.cores.map fun (k : Core) =>
        ({ k with copies := k.copies.map fun c => if c.id == m.strand then { c with fab := c.fab.map answer } else c } : Core) }
  else if m.kind = 1 || m.kind = 3 then
    s.mapParks fun _ _ w => match w with
      | .fabric ms => .fabric (ms.map answer)
      | w => w
  else
    let ids := match s.cohort? m.cohort with
      | some c => c.unackOf m.tid
      | none => []
    (ids.foldl (fun s id => s.ackArrivals id) s).modCohort m.cohort fun c => c.mapStrands fun t =>
      if t.unacked.any (·.tid == some m.tid) then
        { t with unacked := t.unacked.filter (·.tid != some m.tid), fabErr := some (t.fabErr.getD m.va) }
      else t

/-- A link goes down (R422, R423, R426): messages that wait for an end-to-end answer are sent again on another link of
their set, or fail. -/
def State.linkDown (s : State) (k : Nat) : State :=
  let s := { s with fabric := { s.fabric with links := modifyAt (fun l => { l with down := true }) s.fabric.links k } }
  (s.fabric.out.filter (·.link == some k)).foldl (fun s m =>
    match s.linkFor m.device m.target.toNat with
    | some j => { s with fabric := { s.fabric with
        out := modifyFirst (·.tid == m.tid) (fun m => { m with link := some j }) s.fabric.out } }
    | none => s.failMsg m) s

/-- SEQs of a replay buffer that an ACK leaves: those after it. -/
def ackReplay (ack : BitVec 16) (l : List (BitVec 16)) : List (BitVec 16) :=
  if l.contains ack then (l.dropWhile (· != ack)).drop 1 else l

/-- Event FLIT_RECEIVE (R420, R422): a flit in order is accepted, with the ACK and credits it carries; a flit whose tag
or code fails, or out of order, is discarded with a NAK of the SEQ expected. A reserved kind is counted. -/
def execFlitReceive (link : Nat) (flit : RxFlit) (s : State) : Host.Outcome State Fault Refusal :=
  .next (s.modLink link fun l =>
    if !flit.tagGood || !flit.fecGood || flit.seq != l.rx.ack + 1 then l.send (.nak (l.rx.ack + 1))
    else
      let rest := ackReplay flit.ack l.tx.replay
      { l with
        rx := { l.rx with ack := flit.seq, flits := l.rx.flits + 1,
                          discarded := l.rx.discarded + (if 3 ≤ flit.kind then 1 else 0) }
        tx := { l.tx with replay := rest, credits := l.tx.credits + flit.cred
                          fails := if rest.length = l.tx.replay.length then l.tx.fails else 0 } })

/-- Event NAK (R422): the sender sends again from a SEQ; 16 failed replays of one flit take the link down. -/
def execNak (link : Nat) (seq : BitVec 16) (s : State) : Host.Outcome State Fault Refusal :=
  match s.upLink link with
  | none => .next s
  | some l =>
    if !l.tx.replay.contains seq then .next s
    else
      let n := if l.tx.replay.head? == some seq then l.tx.fails + 1 else 1
      let s := s.modLink link fun l =>
        { l with tx := { l.tx with replay := l.tx.replay.dropWhile (· != seq), fails := n } }
      .next (if 16 < n then s.linkDown link else s)

/-! ### Wavelength masks (R423-R425) -/

/-- The lowest n wavelengths of a mask. -/
def lowestWaves : Nat → Byte → Byte
  | 0, _ => 0
  | n + 1, m => if m = 0 then 0 else (m &&& (0 - m)) ||| lowestWaves n (m &&& (m - 1))

/-- The active mask of a width step over the good wavelengths (R423). -/
def widthMask (width : Nat) (good : Byte) : Byte :=
  if width = 0 then good else lowestWaves (if width = 1 then 4 else 2) good

/-- Announces a mask as the next flit: flits from the SEQ after it go under the new mask (R424). -/
def LinkDir.change (d : LinkDir) (mask : Byte) : LinkDir :=
  let d := d.send (.wchg mask)
  { d with active := mask, relit := d.relit &&& ~~~mask, pending := some (mask, d.seq), wants := none }

/-- Event WREQ (R424): the partner's receiver asks for its good wavelengths; a transmitter with a change under way takes
the request up when that is complete. -/
def execWreq (link : Nat) (mask : Byte) (s : State) : Host.Outcome State Fault Refusal :=
  if mask = 0 then (match s.upLink link with
    | some _ => .next (s.linkDown link)
    | none => .next s)
  else .next (s.modLink link fun l =>
    if l.tx.pending.isSome then { l with tx := { l.tx with wants := some mask } }
    else { l with tx := ({ l.tx with bad := ~~~mask } : LinkDir).change (widthMask l.tx.width mask) })

/-- Event WCHG (R424, R425): the receiver applies the mask from the next flit and answers with WACK; bad wavelengths
outside it enter training. -/
def execWchg (link : Nat) (mask : Byte) (s : State) : Host.Outcome State Fault Refusal :=
  .next (s.modLink link fun l =>
    ({ l with rx := { l.rx with active := mask, training := l.rx.bad &&& ~~~mask } } : Link).send (.wack (l.rx.ack + 1)))

/-- Event WACK (R424, R425): the change is complete; training runs on the wavelengths asked out of the mask, and a request
that came meanwhile is taken up. -/
def execWack (link : Nat) (seq : BitVec 16) (s : State) : Host.Outcome State Fault Refusal :=
  .next (s.modLink link fun l =>
    match l.tx.pending with
    | some (_, q) =>
      if q != seq then l
      else
        let d := { l.tx with pending := none, training := l.tx.bad }
        match d.wants with
        | some m => { l with tx := ({ d with bad := ~~~m } : LinkDir).change (widthMask d.width m) }
        | none => { l with tx := d }
    | none => l)

/-- The bit of a wavelength. -/
def waveBit (wave : Nat) : Byte := if wave < 8 then 1#8 <<< wave else 0

/-- Event RETRAIN_WINDOW (R425): a window's corrected symbols on a wavelength in service exceed THRESH: it is marked bad,
and the receiver asks for the good ones. A link with none left is down. -/
def execRetrainWindow (link wave count : Nat) (s : State) : Host.Outcome State Fault Refusal :=
  match s.upLink link with
  | none => .next s
  | some l =>
    if count ≤ l.rx.thresh || waveBit wave &&& ~~~l.rx.bad = 0 then .next s
    else
      let bad := l.rx.bad ||| waveBit wave
      if bad = 0xFF then .next ((s.modLink link fun l => { l with rx := { l.rx with bad := bad } }).linkDown link)
      else .next (s.modLink link fun l => ({ l with rx := { l.rx with bad := bad } } : Link).send (.wreq (~~~bad)))

/-- Event TRAINING_COMPLETE (R425): the window measured after training: at most THRESH/4 clears BAD and asks for the
wavelength back; else training starts again. -/
def execTrainingComplete (link wave count : Nat) (s : State) : Host.Outcome State Fault Refusal :=
  .next (s.modLink link fun l =>
    if l.rx.training &&& waveBit wave = 0 || l.rx.thresh / 4 < count then l
    else
      let bad := l.rx.bad &&& ~~~(waveBit wave)
      ({ l with rx := { l.rx with bad := bad, training := l.rx.training &&& ~~~(waveBit wave) } } : Link).send (.wreq (~~~bad)))

/-- The width step that the policy asks for (R423). -/
def LinkDir.wanted (d : LinkDir) (w : WidthSense) : Nat :=
  if d.wpol = 0 then
    if w.busy2 || 64 < w.queue then d.width - 1 else if w.idle20 then min 2 (d.width + 1) else d.width
  else d.wpol - 1

/-- Event WIDTH_POLICY (R423, R424): the transmitter moves to its width; dark wavelengths join once relit. -/
def execWidthPolicy (link : Nat) (sense : WidthSense) (s : State) : Host.Outcome State Fault Refusal :=
  .next (s.modLink link fun l =>
    let t := l.tx.wanted sense
    let m := widthMask t (~~~l.tx.bad)
    if m = l.tx.active then { l with tx := { l.tx with width := t } }
    else if l.tx.pending.isSome || m &&& ~~~l.tx.active &&& ~~~l.tx.relit != 0 then l
    else { l with tx := ({ l.tx with width := t } : LinkDir).change m })

/-- Event RELIGHT (R423): a dark wavelength has relit and may join the mask. -/
def execRelight (link wave : Nat) (s : State) : Host.Outcome State Fault Refusal :=
  .next (s.modLink link fun l =>
    if waveBit wave &&& (l.tx.active ||| l.tx.bad) = 0 then { l with tx := { l.tx with relit := l.tx.relit ||| waveBit wave } }
    else l)

/-- Event LINK_REKEY (22 R444): after 2^40 flits under one key a control flit changes it. -/
def execLinkRekey (link : Nat) (s : State) : Host.Outcome State Fault Refusal :=
  .next (s.modLink link fun l =>
    if l.tx.flits < 2 ^ 40 && l.rx.flits < 2 ^ 40 then l
    else
      let l := l.send .rekey
      { l with key := l.key + 1, tx := { l.tx with flits := 0 }, rx := { l.rx with flits := 0 } })

end Sys2Proof.Machine
end

