-- ==== Sys2Proof/Machine/FabEvents.lean ====
section
/-! DEFINITION. Inbound fabric messages (21 R420, R426-R434): each is performed once, by the ingress as an agent outside
the package. -/

namespace Sys2Proof.Machine

/-- The message has been performed before (R426). -/
def State.repeated (s : State) (h : FabHead) : Bool := s.fabric.performed.contains (h.src, h.tid)

/-- Notes a performed message: the last 2^16 of its source are kept. -/
def State.notePerformed (s : State) (h : FabHead) : State :=
  let own := (s.fabric.performed.filter (·.1 == h.src)).take 65535
  { s with fabric := { s.fabric with
      performed := (h.src, h.tid) :: own ++ s.fabric.performed.filter (·.1 != h.src) } }

/-- Answers a message once a package time has passed (R430). -/
def State.answerMsg (s : State) (h : FabHead) (good : Bool) (data : List Byte) (due : Nat) : State :=
  let s := s.notePerformed h
  { s with fabric := { s.fabric with
      answers := s.fabric.answers ++ [{ device := h.src, tid := h.tid, good := good, data := data, due := due }] } }

/-- Outcome of performing an inbound access: what it read, what it wrote, and the state after. -/
structure Inbound where
  post : State
  data : List Byte
  lines : List Nat

/-- The package time that an acknowledgement of writes to lines waits for (R257, R417, R430). -/
def State.writeDue (s : State) (lines : List Nat) : Nat := lines.foldl (fun d l => max d (s.completion l)) 0

/-- Runs an inbound message: a repeat is discarded; an absent page makes it wait for the firmware; a fault answers
badly. -/
def State.perform (s : State) (h : FabHead) (r : XRes Inbound) : State :=
  if s.repeated h then s
  else match r with
    | .ok i => i.post.answerMsg h true i.data (i.post.writeDue i.lines)
    | .miss va => s.absent 0 va
    | .fault _ _ => s.answerMsg h false [] 0

/-- Logs fabric data (20 R410). -/
def State.logFabric (s : State) (h : FabHead) (data : List Byte) (arrive : Bool) : State :=
  s.logInput .fabric 0 0 0
    ([BitVec.ofNat 64 h.src, h.va, if arrive then 1 else 0] ++ data.map (·.setWidth 64))

/-- Translates bytes for the ingress: a device address of this device (R427). -/
def State.ingress (s : State) (vas : List Nat) (acc : Acc) : XlateAll :=
  match vas.find? fun a => 2 ^ 56 ≤ a || isFabric a with
  | some a => .fault 0x08 a
  | none => s.walkRun acc none vas

/-- An ingress access to bytes. -/
def State.withIngress (s : State) (vas : List Nat) (acc : Acc) (k : List Nat → XRes Inbound) : XRes Inbound :=
  match s.ingress vas acc with
  | .ok pas => k pas
  | .miss a => .miss a
  | .fault c a => .fault c a

/-- Event READ (R420, R430): served at the home. -/
def execRead (h : FabHead) (size : Nat) (s : State) : Host.Outcome State Fault Refusal :=
  .next (s.perform h (if size = 0 || 128 < size then .fault 0x08 0
    else s.withIngress (spanNat h.va.toNat size) .read fun pas =>
      let t := s.bringHome pas
      .ok ⟨t, pas.map t.homeByte, []⟩))

/-- Event WRITE (R420, R430): the masked bytes. -/
def execWrite (h : FabHead) (mask : List Bool) (data : List Byte) (s : State) : Host.Outcome State Fault Refusal :=
  let ps := ((List.range data.length).filter fun k => mask.getD k false).map fun k => (h.va.toNat + k, data.getD k 0)
  .next (s.perform h (s.withIngress (ps.map (·.1)) .write fun pas =>
    let t := ((s.homeStore (pas.zip (ps.map (·.2)))).heal pas).logFabric h data false
    .ok ⟨t, [], dedup (pas.map (· / 128))⟩))

/-- Bytes of a fabric operation. -/
def fabOpSize : FabOp → Nat
  | .atom _ wide _ | .xchg wide _ | .cas wide _ _ => if wide then 8 else 4

/-- The bytes that a fabric operation leaves (12 R277-R279). -/
def fabOpBytes (op : FabOp) (old : List Byte) : List Byte :=
  let n := fabOpSize op
  match op with
  | .atom aop _ v => bytesOf n (aopValue aop (8 * n) (natOf old) (v.toNat % 2 ^ (8 * n)))
  | .xchg _ v => bytesOf n v.toNat
  | .cas _ c v => if natOf old = c.toNat % 2 ^ (8 * n) then bytesOf n v.toNat else old

/-- Event READ_MODIFY_WRITE (R420, R429): performed at the home at one instant; it answers with the old bytes. -/
def execReadModifyWrite (h : FabHead) (op : FabOp) (s : State) : Host.Outcome State Fault Refusal :=
  .next (s.perform h (s.withIngress (spanNat h.va.toNat (fabOpSize op)) .write fun pas =>
    match pas.find? s.poisoned with
    | some a => .fault 0x0B a
    | none =>
      let t := s.bringHome pas
      let old := pas.map t.homeByte
      let u := ((t.homeStore (pas.zip (fabOpBytes op old))).heal pas).logFabric h old false
      .ok ⟨u, old, dedup (pas.map (· / 128))⟩))

/-- Event ACCUMULATE (R428): it cannot be refused; the home combines it. -/
def execAccumulate (h : FabHead) (op : Nat) (addend : DWord) (s : State) : Host.Outcome State Fault Refusal :=
  .next (s.perform h (if h.va.toNat % accBytes op != 0 then .fault 0x07 0
    else s.withIngress (spanNat h.va.toNat (accBytes op)) .write fun pas =>
      match pas.find? s.poisoned with
      | some a => .fault 0x0B a
      | none =>
        let t := ((s.takeBack (pas.headD 0 / 128)).accAtHome (pas.headD 0) op addend).logFabric h (bytes8 addend) false
        .ok ⟨t, [], dedup (pas.map (· / 128))⟩))

/-- Event ARRIVE (R431, 12 R289): one store arrival at the object's home. -/
def execArrive (h : FabHead) (designator : DWord) (s : State) : Host.Outcome State Fault Refusal :=
  .next (s.perform h (if designator.getLsbD 63 || designator.toNat % 16 != 0 then .fault 0x08 0
    else s.withIngress (spanNat designator.toNat 16) .write fun pas =>
      match pas.find? s.poisoned with
      | some a => .fault 0x0B a
      | none =>
        let t := s.bringHome pas
        let old := pas.map t.homeByte
        let o := BarObj.ofBytes old
        let (o', done) := o.storeArrive
        let u := (t.homeStore (pas.zip (if o.bad then setOvr old else o'.bytes))).logFabric h [] true
        let u := match done with
          | some st => u.releaseWaiters (some (false, 0, pas.headD 0)) st
          | none => u
        .ok ⟨u, [], dedup (pas.map (· / 128))⟩))

/-- Removes an answered message of this device. -/
def State.dropMsg (s : State) (tid : Word) : State :=
  { s with fabric := { s.fabric with out := s.fabric.out.filter (·.tid != tid) } }

/-- Gives an answer to what awaits a transaction: an instruction, or an engine command. -/
def State.giveAnswer (s : State) (tid : Word) (good : Bool) (data : List Byte) : State :=
  let answer (w : FabWait) : FabWait := if w.tid == tid && w.answer.isNone then { w with answer := some (good, data) } else w
  let s := s.mapParks fun _ _ w => match w with
    | .fabric ms => .fabric (ms.map answer)
    | w => w
  { s with cores := s.cores.map fun (k : Core) =>
      ({ k with copies := k.copies.map fun c => { c with fab := c.fab.map answer } } : Core) }

/-- Event RESPONSE (R429): data or status of a read or read-modify-write of this device. -/
def execResponse (tid : Word) (good : Bool) (data : List Byte) (s : State) : Host.Outcome State Fault Refusal :=
  match s.fabric.out.find? fun m => m.tid == tid && (m.kind = 1 || m.kind = 3) with
  | none => .next s
  | some m =>
    let fit := (List.range m.size).map fun k => data.getD k 0
    let s := s.logInput .fabric m.cohort m.strand 0 ([m.va] ++ fit.map (·.setWidth 64))
    .next ((s.dropMsg tid).giveAnswer tid good (if good then fit else []))

/-- Event WRITE_ACKNOWLEDGEMENT (R429, R430): a write, accumulate, arrive or piece of this device has been performed, or
failed: then the strand's fabric error holds its address. -/
def execWriteAcknowledgement (tid : Word) (good : Bool) (s : State) : Host.Outcome State Fault Refusal :=
  match s.fabric.out.find? fun m => m.tid == tid && m.kind != 1 && m.kind != 3 with
  | none => .next s
  | some m =>
    if m.cohort = 0 then .next ((s.dropMsg tid).giveAnswer tid good [])
    else
      let ids := match s.cohort? m.cohort with
        | some c => c.unackOf tid
        | none => []
      let s := (s.dropMsg tid).modCohort m.cohort fun c => c.mapStrands fun t =>
        if t.unacked.any (·.tid == some tid) then
          { t with unacked := t.unacked.filter (·.tid != some tid)
                   fabErr := if good then t.fabErr else some (t.fabErr.getD m.va) }
        else t
      .next (ids.foldl (fun s id => s.ackArrivals id) s)

/-- Event REDUCTION_PIECE (R433). -/
def execReductionPiece (h : FabHead) (piece : RedPiece) (s : State) : Host.Outcome State Fault Refusal :=
  .next (s.perform h (.ok ⟨s.takePiece piece, [], []⟩))

/-- Event CHUNK_BIT (R434): sets a local rank's chunk bit by a release. -/
def execChunkBit (h : FabHead) (plan : DWord) (rank chunk : Nat) (s : State) : Host.Outcome State Fault Refusal :=
  let has := s.plans.any fun p => p.addr == plan && p.joined.any (·.rank == rank)
  .next (s.perform h (if !has then .ok ⟨s, [], []⟩
    else match s.setChunkBit (s.rankEntry plan rank).bits chunk with
      | .miss a => .miss a
      | .fault c a => .fault c a
      | .ok t => .ok ⟨(t.modPlan plan fun p =>
          { p with joined := modifyFirst (·.rank == rank) (fun j => { j with bits := chunk :: j.bits }) p.joined }).settlePlan plan,
          [], []⟩))

end Sys2Proof.Machine
end

