-- ==== Sys2Proof/Machine/HostEvents.lean ====
section
/-! DEFINITION. The host port, bring-up, the mailbox, page mappings, power and management (22 R437-R448, 10 R244, R245, 11
R264). -/

namespace Sys2Proof.Machine

/-! ### Answers -/

/-- Changes what the host sees. -/
def State.setHost (s : State) (f : HostIf → HostIf) : State := { s with host := f s.host }

/-- Completes a read of the host port. -/
def State.hostAnswer (s : State) (bs : List Byte) : State := s.setHost fun h => { h with answer := some bs, aborted := false }

/-- All ones in n bytes. -/
def allOnes (n : Nat) : List Byte := List.replicate n 0xFF

/-! ### BAR2 and the doorbells (R437, R438, 11 R264) -/

/-- The device virtual addresses of an aperture access; `none` outside the 64 GiB of BAR2. -/
def State.aperture (s : State) (offset n : Nat) : Option (List Nat) :=
  if offset + n ≤ 2 ^ 36 then some (spanNat (s.host.apbase.toNat + offset) n) else none

/-- Event HOST_WRITE (R437): a posted write; one that faults, or that no session allows, is dropped and counted. -/
def execHostWrite (offset : Nat) (data : List Byte) (s : State) : Host.Outcome State Fault Refusal :=
  let drop := s.setHost fun h => { h with droppedWrites := h.droppedWrites + 1 }
  if !s.host.session then .next drop
  else match s.aperture offset data.length with
    | none => .next drop
    | some vas => match s.ingress vas .write with
      | .ok pas => .next (((s.homeStore (pas.zip data)).heal pas).logInput .hostWrite 0 0 0
          (BitVec.ofNat 64 (vas.headD 0) :: data.map (·.setWidth 64)))
      | _ => .next drop

/-- Event HOST_READ (R437): a read that faults, or that no session allows, completes with Completer Abort. -/
def execHostRead (offset len : Nat) (s : State) : Host.Outcome State Fault Refusal :=
  let abort := s.setHost fun h => { h with answer := none, aborted := true }
  if !s.host.session then .next abort
  else match s.aperture offset len with
    | none => .next abort
    | some vas => match s.ingress vas .read with
      | .ok pas =>
        let t := s.bringHome pas
        .next (t.hostAnswer (pas.map t.homeByte))
      | _ => .next abort

/-- The descriptor bytes that a doorbell reads. -/
def State.doorbell (s : State) (queue : Nat) : Option (List Byte × State) :=
  if !s.host.session || 4096 ≤ queue then none
  else match s.openQueue queue with
    | .ok (_, s) => match s.agentLoad (s.descVa queue) 64 with
      | .ok r => some r
      | _ => none
    | _ => none

/-- Event DOORBELL_TICKET (R437, 08 R177): fetch_add of RESV. -/
def execDoorbellTicket (queue : Nat) (s : State) : Host.Outcome State Fault Refusal :=
  match s.doorbell queue with
  | none => .next (s.hostAnswer (allOnes 8))
  | some (bs, t) => .next ((t.setResv queue (dwordAt bs 16 + 1)).hostAnswer (bytes8 (dwordAt bs 16)))

/-- Event DOORBELL_HEAD (R437). -/
def execDoorbellHead (queue : Nat) (s : State) : Host.Outcome State Fault Refusal :=
  match s.doorbell queue with
  | none => .next (s.hostAnswer (allOnes 8))
  | some (bs, t) => .next (t.hostAnswer (bytes8 (dwordAt bs 24)))

/-- Event APBASE_WRITE (R438). -/
def execApbaseWrite (value : DWord) (s : State) : Host.Outcome State Fault Refusal :=
  .next (s.setHost fun h => { h with apbase := value &&& 0x00FFFFF000000000 })

/-! ### Device registers (R406, R423, R427, R440) -/

/-- A host write to LEN (R440): discarded while a request is in service; an invalid length is a bad request. -/
def Mailbox.writeLen (m : Mailbox) (value : Word) : Mailbox :=
  if m.status = 0xFFFFFFFF then { m with disc := if m.disc = 0xFFFFFFFF then m.disc else m.disc + 1 }
  else if value = 0 || 16368 < value.toNat then { m with len := value, rlen := 0, status := 1 }
  else { m with len := value, rlen := 0, status := 0xFFFFFFFF }

/-- A host write to a word of BUF (R440). -/
def Mailbox.writeBuf (m : Mailbox) (word : Nat) (value : Word) : Mailbox :=
  if m.status = 0xFFFFFFFF then { m with disc := if m.disc = 0xFFFFFFFF then m.disc else m.disc + 1 }
  else if 4092 ≤ word then m
  else
    let buf := m.buf ++ List.replicate (4 * (word + 1) - m.buf.length) 0
    { m with buf := buf.take (4 * word) ++ bytesOf 4 value.toNat ++ buf.drop (4 * word + 4) }

/-- Changes a link's register, down or not. -/
def State.modLinkReg (s : State) (k : Nat) (f : Link → Link) : State :=
  { s with fabric := { s.fabric with links := modifyAt f s.fabric.links k } }

/-- A write of a word of a fabric window (R427). -/
def Window.write (w : Window) (word : Nat) (value : Word) : Window :=
  match word with
  | 0 => { w with rbase := pairOf w.rbase.high (value &&& 0xFFFF0000) }
  | 1 => { w with rbase := pairOf (value &&& 0x00FFFFFF) w.rbase.low }
  | 2 => { w with word2 := value &&& 0xE03FFFFF }
  | _ => w

/-- Event REGISTER_WRITE: a register without behaviour of its own; reserved and read-only bits stay. Breakpoints change in
an open debug session only (22 R445), and recording needs a log region (R439). -/
def execRegisterWrite (reg : DevReg) (value : Word) (s : State) : Host.Outcome State Fault Refusal :=
  match reg with
  | .linkWpol k => .next (s.modLinkReg k fun l => { l with tx := { l.tx with wpol := (value.extractLsb' 10 2).toNat } })
  | .linkThresh k => .next (s.modLinkReg k fun l => { l with rx := { l.rx with thresh := (value.extractLsb' 0 24).toNat } })
  | .window w word => .next { s with fabric := { s.fabric with
      windows := modifyAt (fun x => x.write word value) s.fabric.windows w } }
  | .traceSelect core word => .next (s.modCore core fun c =>
      if word = 0 then { c with trace := { c.trace with sel0 := value &&& 0xE001FFFF } }
      else { c with trace := { c.trace with sel1 := value } })
  | .route d k =>
    let rest := s.fabric.routes.filter (· != (d, k))
    .next { s with fabric := { s.fabric with routes := if value = 0 then rest else rest ++ [(d, k)] } }
  | .deviceId => .next { s with fabric := { s.fabric with device := (value.extractLsb' 0 16).toNat } }
  | .groupSize => .next { s with fabric := { s.fabric with gsize := value.toNat } }
  | .groupRank => .next { s with fabric := { s.fabric with grank := value.toNat } }
  | .breakpoints launch =>
    if !s.host.debugOpen then .next s
    else
      let rest := s.dbg.breaks.filter (· != launch)
      .next { s with dbg := { s.dbg with breaks := if value = 0 then rest else launch :: rest } }
  | .recording => .next { s with dbg := { s.dbg with recording := value != 0 && s.host.regions.isSome } }
  | .mailboxLen => .next (s.setHost fun h => { h with mail := h.mail.writeLen value })
  | .mailboxBuf word => .next (s.setHost fun h => { h with mail := h.mail.writeBuf word value })

/-! ### The mailbox (R440) -/

/-- Answers the request in service, if one is: the response, RLEN, then STATUS. -/
def State.mailAnswer (s : State) (status : Word) (resp : List Byte) : State :=
  s.setHost fun h =>
    if h.mail.status = 0xFFFFFFFF then
      { h with mail := { h.mail with buf := resp ++ h.mail.buf.drop resp.length, rlen := BitVec.ofNat 32 resp.length,
                                     status := status } }
    else h

/-- A request is served once the mailbox is open to it (R438, R439); one that needs a session is refused without. -/
def State.withRequest (s : State) (recovery session : Bool) (k : Host.Outcome State Fault Refusal) :
    Host.Outcome State Fault Refusal :=
  if s.host.stage = 4 || (recovery && s.host.stage = 15) then
    if session && !s.host.session then .next (s.mailAnswer 2 []) else k
  else .next s

/-! ### Mappings (R440, R441, 10 R244, R245) -/

/-- Entries of the table at a level. -/
def tableEntries (level : Nat) : Nat := if level = 4 then 256 else if level = 0 then 32 else 512

/-- The entry at an index of a table. -/
def State.pte (s : State) (table k : Nat) : Nat := natOf (s.homeRead (table + 8 * k) 8)

/-- Some page is mapped below an entry of a level. -/
def State.anyLeaf (s : State) : Nat → Nat → Bool
  | level, ent =>
    ent.testBit 0 && (ent.testBit 1 || match level with
      | 0 => false
      | l + 1 => (List.range (tableEntries l)).any fun k => s.anyLeaf l (s.pte (ent / 256 % 2 ^ 48 * 256) k))

/-- Some page overlaps the page of a level at an address. -/
def State.mappedAt (s : State) (va target : Nat) : Nat → Nat → Bool
  | level, table =>
    let ent := s.pte table (walkIndex level va)
    if !ent.testBit 0 then false
    else if ent.testBit 1 then true
    else if level ≤ target then s.anyLeaf level ent
    else match level with
      | 0 => false
      | l + 1 => s.mappedAt va target l (ent / 256 % 2 ^ 48 * 256)

/-- Writes a page-table entry at its home. -/
def State.putPte (s : State) (table k x : Nat) : State := s.homePut (table + 8 * k) (bytesOf 8 x)

/-- A fresh table of a level in the firmware's page-table arena, emptied. -/
def State.newTable (s : State) (level : Nat) : Nat × State :=
  let size := 8 * tableEntries level
  let a := (s.setup.tables + size - 1) / size * size
  (a, { s.homePut a (List.replicate size 0) with setup := { s.setup with tables := a + size } })

/-- Maps one page (R244): tables on the way are added. -/
def State.mapPage (s : State) (va target leaf : Nat) : Nat → Nat → State
  | level, table =>
    let k := walkIndex level va
    if level ≤ target then s.putPte table k leaf
    else match level with
      | 0 => s
      | l + 1 =>
        let ent := s.pte table k
        if ent.testBit 0 && !ent.testBit 1 then s.mapPage va target leaf l (ent / 256 % 2 ^ 48 * 256)
        else
          let (a, t) := s.newTable l
          (t.putPte table k (a + 1)).mapPage va target leaf l a

/-- The pages of a request. -/
def mapPages (r : MapReq) : List Nat :=
  let z := 2 ^ pageBits r.level
  (List.range (r.size.toNat / z)).map fun k => k * z

/-- Operands of MAP that no page could have. -/
def mapBad (r : MapReq) : Bool :=
  let z := 2 ^ pageBits r.level
  2 < r.level || r.size = 0 || r.size.toNat % z != 0 || r.va.toNat % z != 0 || r.pa.toNat % z != 0
    || 255 * 2 ^ 48 < r.va.toNat + r.size.toNat || !paMapped r.pa.toNat || !paMapped (r.pa.toNat + r.size.toNat - 1)

/-- The entry of a page with its rights (R244). -/
def mapLeaf (r : MapReq) (off : Nat) : Nat :=
  (r.pa.toNat + off) + (if r.x then 16 else 0) + (if r.w then 8 else 0) + (if r.r then 4 else 0) + 3

/-- An address lies in a range. -/
def inRange (va size x : Nat) : Bool := va ≤ x && x < va + size

/-- Event MAP (R440): the pages are mapped, and accesses parked on them issue again. One that overlaps a mapped page is
refused. -/
def execMap (r : MapReq) (s : State) : Host.Outcome State Fault Refusal :=
  s.withRequest false true (
    if mapBad r then .next (s.mailAnswer 1 [])
    else if (mapPages r).any fun o => s.mappedAt (r.va.toNat + o) r.level 4 s.setup.root then .next (s.mailAnswer 2 [])
    else
      let s := (mapPages r).foldl (fun s o => s.mapPage (r.va.toNat + o) r.level (mapLeaf r o) 4 s.setup.root) s
      let here (x : Nat) : Bool := inRange r.va.toNat r.size.toNat x
      let s := { s with invalid := s.invalid.filter fun p => !here (p * 2 ^ 16)
                        fw := s.fw.filter fun x => match x with
                          | .page _ v => !here v.toNat
                          | _ => true }
      .next ((s.wake fun _ w => match w with
        | .page v => here v.toNat
        | _ => false).mailAnswer 0 []))

/-- Clears the leaf of an address. -/
def State.unmapPage (s : State) (va target : Nat) : Nat → Nat → State
  | level, table =>
    let k := walkIndex level va
    if level ≤ target then s.putPte table k 0
    else match level with
      | 0 => s
      | l + 1 => s.unmapPage va target l (s.pte table k / 256 % 2 ^ 48 * 256)

/-- The pages mapped in a range, by steps of 64 KiB, and whether each lies wholly in it. -/
def State.pagesIn (s : State) (va size : Nat) : List TlbEnt :=
  ((List.range ((size + 2 ^ 16 - 1) / 2 ^ 16)).filterMap fun k => s.pageWalk (va + k * 2 ^ 16)).foldl
    (fun l t => if l.contains t then l else l ++ [t]) []

/-- Event UNMAP (R441): every TLB drops the pages; no access performs through them afterwards. A page only in part inside
the range makes the request bad (log 55). -/
def execUnmap (va size : DWord) (s : State) : Host.Outcome State Fault Refusal :=
  s.withRequest false true (
    let ps := s.pagesIn va.toNat size.toNat
    let whole (t : TlbEnt) : Bool := va.toNat ≤ t.va && t.va + 2 ^ pageBits t.level ≤ va.toNat + size.toNat
    if size = 0 || va.toNat % 2 ^ 16 != 0 || size.toNat % 2 ^ 16 != 0 || 2 ^ 56 < va.toNat + size.toNat || !ps.all whole then
      .next (s.mailAnswer 1 [])
    else
      let s := ps.foldl (fun s t => s.unmapPage t.va t.level 4 s.setup.root) s
      let keep (l : List TlbEnt) : List TlbEnt := l.filter fun t => !inRange va.toNat size.toNat t.va
      .next (State.mailAnswer { s with
        cores := s.cores.map fun (c : Core) => ({ c with tlb := keep c.tlb } : Core)
        dies := s.dies.map fun (d : Die) => ({ d with tlb := keep d.tlb } : Die) } 0 []))

/-! ### SETREG (R440) -/

/-- Event SETREG_BASE_ALLOWANCE: 300 to 1,200 W. -/
def execSetregBaseAllowance (watts : Nat) (s : State) : Host.Outcome State Fault Refusal :=
  s.withRequest false true (
    if watts < 300 || 1200 < watts then .next (s.mailAnswer 1 [])
    else .next (State.mailAnswer { s with setup := { s.setup with base := watts } } 0 []))

/-- Event SETREG_ACC_CONTROL (10 R239): smaller values read back as 256, and QUOTA 0 as 1. -/
def execSetregAccControl (slice : Nat) (value : Word) (s : State) : Host.Outcome State Fault Refusal :=
  s.withRequest false true (
    if 95 < slice then .next (s.mailAnswer 1 [])
    else .next ((s.modSlice slice fun sl =>
      { sl with window := max 256 (value.extractLsb' 12 16).toNat, quota := max 1 (value.extractLsb' 0 6).toNat }).mailAnswer 0 []))

/-- Event SETREG_LEASE (11 R255): 256 to 65,536 ns. -/
def execSetregLease (slice : Nat) (value : Word) (s : State) : Host.Outcome State Fault Refusal :=
  s.withRequest false true (
    if 95 < slice then .next (s.mailAnswer 1 [])
    else .next ((s.modSlice slice fun sl =>
      { sl with lease := min 65536 (max 256 (value.extractLsb' 0 17).toNat) }).mailAnswer 0 []))

/-- Event SETREG_DEBUG_KEY: a SHA3-512 digest. -/
def execSetregDebugKey (digest : List Byte) (s : State) : Host.Outcome State Fault Refusal :=
  s.withRequest false true (
    if digest.length != 64 then .next (s.mailAnswer 1 [])
    else .next ((s.setHost fun h => { h with debugKey := digest }).mailAnswer 0 []))

/-! ### Identity, session, debug (R442-R445) -/

/-- The first n bytes of a list, zeros beyond its end. -/
def fitBytes (n : Nat) (l : List Byte) : List Byte := (List.range n).map fun k => l.getD k 0

/-- The attestation report (R442): nonce, digest, version, flags; the rest are free values (log 9). -/
def State.attestReport (s : State) (nonce : List Byte) : List Byte :=
  let flags := (if s.host.debugEver then 1 else 0) + (if s.dbg.recording then 2 else 0)
  let free := Config.attestBytes nonce flags
  fitBytes 64 nonce ++ fitBytes 64 free ++ bytesOf 4 Config.imageVersion ++ bytesOf 4 flags ++ fitBytes 8787 (free.drop 64)

/-- Event ATTEST. -/
def execAttest (nonce : List Byte) (s : State) : Host.Outcome State Fault Refusal :=
  s.withRequest true false (
    if nonce.length != 64 then .next (s.mailAnswer 1 []) else .next (s.mailAnswer 0 (s.attestReport nonce)))

/-- Event SESSION (R443): the link switches to the keys of the shared secret. -/
def execSession (ciphertext : List Byte) (s : State) : Host.Outcome State Fault Refusal :=
  s.withRequest false false (
    if ciphertext.length != 1568 then .next (s.mailAnswer 1 [])
    else .next ((s.setHost fun h => { h with session := true, ideKey := Config.sessionKey ciphertext }).mailAnswer 0 []))

/-- Event DEBUG (R445): the session opens for the key whose digest was set, and a signature that verifies. -/
def execDebugReq (key signature : List Byte) (s : State) : Host.Outcome State Fault Refusal :=
  s.withRequest false true (
    if s.host.debugKey.isEmpty || Config.sha3 key != s.host.debugKey || !Config.verifies key signature then
      .next (s.mailAnswer 2 [])
    else .next ((s.setHost fun h => { h with debugOpen := true, debugEver := true }).mailAnswer 0 []))

/-! ### REGIONS, STATS, RESET (R440) -/

/-- Event REGIONS. -/
def execRegions (r : RegionReq) (s : State) : Host.Outcome State Fault Refusal :=
  s.withRequest false true (.next (State.mailAnswer
    { s with host := { s.host with regions := some r }
             dbg := { s.dbg with profNext := 0 }
             setup := { s.setup with arenaNext := r.arena.toNat } } 0 []))

/-- The counts that STATS returns: corrected errors of each die, records and packets lost, CXL sizes. -/
def State.statBytes (s : State) : List Byte :=
  s.dies.flatMap (fun d => bytesOf 4 d.corrected) ++ bytesOf 4 s.dbg.profDrops
    ++ bytesOf 4 (s.cores.foldl (fun n c => n + c.trace.lost) 0) ++ bytesOf 8 s.setup.cxl0 ++ bytesOf 8 s.setup.cxl1

/-- Event STATS. -/
def execStats (s : State) : Host.Outcome State Fault Refusal :=
  s.withRequest false false (.next (s.mailAnswer 0 s.statBytes))

/-- The module after a reset: the model's own fields go on (log 56). -/
def State.restart (s : State) : State := { State.reset with agenda := s.agenda, turn := s.turn, tick := s.tick }

/-- Event RESET: no response is written. -/
def execReset (s : State) : Host.Outcome State Fault Refusal := s.withRequest true false (.next s.restart)

/-! ### Bring-up (R439) -/

/-- Ends bring-up in recovery. -/
def State.recover (s : State) (err : Nat) : State := s.setHost fun h => { h with stage := 15, err := err }

/-- Event BRING_UP: the next step; steps 3 and 4 are one move. -/
def execBringUp (b : BringUp) (s : State) : Host.Outcome State Fault Refusal :=
  match s.host.stage with
  | 0 =>
    if b.good then .next (s.setHost fun h => { h with stage := 1 }) else .next (s.recover (if b.err = 2 then 2 else 1))
  | 1 =>
    if !b.good then .next (s.recover 3)
    else .next (State.setHost { s with setup := { s.setup with cxl0 := min b.cxl0 (2304 * 10 ^ 9), cxl1 := min b.cxl1 (2304 * 10 ^ 9) } }
      fun h => { h with stage := 2 })
  | 2 =>
    let s := { s with
      setup := { s.setup with root := b.root.toNat, qtbase := b.qtbase, saveArena := b.saveArena, codeArena := b.codeArena,
                              base := 600, tables := b.root.toNat + 2048 }
      time := 0, frac := 0 }
    if !b.good then .next (s.recover 4)
    else
      let links := (List.range s.fabric.links.length).map fun k => match s.fabric.links[k]? with
        | some l => if b.deadLinks.contains k then { l with down := true } else { l with key := 1 }
        | none => Link.reset
      .next (State.setHost { s with fabric := { s.fabric with links := links } } fun h => { h with stage := 3 })
  | 3 => .next (s.setHost fun h => { h with stage := 4 })
  | _ => .next s

/-! ### Power and temperature (R446, R447) -/

/-- The hottest sensor. -/
def hottest (l : List Nat) : Nat := l.foldl max 0

/-- M in watts, rounded down; `over` compares the exact mean. -/
def Power.mean (p : Power) : Nat := p.samples.foldl (· + ·) 0 / max p.samples.length 1

/-- The mean exceeds a bound. -/
def Power.over (p : Power) (watts : Nat) : Bool := watts * p.samples.length < p.samples.foldl (· + ·) 0

/-- The telemetry word (R447). -/
def Power.word (p : Power) : Word :=
  BitVec.ofNat 32 (min p.mean 4095 * 2 ^ 20 + min (hottest p.temps) 255 * 2 ^ 12 + p.clk * 2 ^ 9 + (if p.thr then 2 ^ 8 else 0))

/-- The lower limits hold (R446): M below 2,300 W, every die below 95 C. -/
def Power.cool (p : Power) : Bool :=
  p.samples.foldl (· + ·) 0 < 2300 * p.samples.length && p.temps.all (· < 95)

/-- Event POWER_SAMPLE (R446, R447): M over the last 100 samples; throttling is entered or left. -/
def execPowerSample (watts : Nat) (temps : List Nat) (s : State) : Host.Outcome State Fault Refusal :=
  let p := { s.power with samples := (watts :: s.power.samples).take 100, temps := temps }
  let p := { p with thr := p.over 2400 || temps.any (100 < ·), hot := if temps.any (110 ≤ ·) then p.hot + 1 else 0 }
  let p := if p.thr || p.cool then p else { p with stepAt := s.time }
  .next { s with power := { p with telemetry := p.word } }

/-- Event CLOCK_STEP_DOWN (R446): 100 MHz every 100 us while throttled, down to 1.0 GHz. -/
def execClockStepDown (s : State) : Host.Outcome State Fault Refusal :=
  if s.power.thr && s.power.clk < 4 && s.power.stepAt + 100000 ≤ s.time then
    .next { s with power := { s.power with clk := s.power.clk + 1, stepAt := s.time } }
  else .next s

/-- Event CLOCK_STEP_UP (R446): one step every 1 ms under the lower limits. -/
def execClockStepUp (s : State) : Host.Outcome State Fault Refusal :=
  if !s.power.thr && s.power.cool && 0 < s.power.clk && s.power.stepAt + 1000000 ≤ s.time then
    .next { s with power := { s.power with clk := s.power.clk - 1, stepAt := s.time } }
  else .next s

/-- Event THERMAL_TRIP (R446): a die at 110 C for 1 ms: all state is lost, links drop, management reports it. -/
def execThermalTrip (s : State) : Host.Outcome State Fault Refusal :=
  if s.power.hot < 1000 then .next s
  else
    let t := s.restart
    .next { t with
      power := { t.power with tripped := true }
      fabric := { t.fabric with links := t.fabric.links.map fun l => { l with down := true } }
      host := { t.host with mgmt := [1] } }

/-! ### Management (R448) -/

/-- Event MCTP_CONTROL (log 9). -/
def execMctpControl (message : List Byte) (s : State) : Host.Outcome State Fault Refusal :=
  .next (s.setHost fun h => { h with mgmt := Config.mctpAnswer message })

/-- Event PLDM_MONITORING: numeric sensors 0 to 3 carry PWR, TEMP, CLK and THR (log 57). -/
def execPldmMonitoring (sensor : Nat) (s : State) : Host.Outcome State Fault Refusal :=
  let t := s.power.telemetry
  let x : Nat := match sensor with
    | 0 => (t.extractLsb' 20 12).toNat
    | 1 => (t.extractLsb' 12 8).toNat
    | 2 => (t.extractLsb' 9 3).toNat
    | 3 => (t.extractLsb' 8 1).toNat
    | _ => 0
  .next (s.setHost fun h => { h with mgmt := bytesOf 4 x })

/-- Event VENDOR_ATTEST: ATTEST alone. -/
def execVendorAttest (nonce : List Byte) (s : State) : Host.Outcome State Fault Refusal :=
  .next (s.setHost fun h => { h with mgmt := s.attestReport nonce })

end Sys2Proof.Machine
end

