-- ==== Sys2Proof/Machine/Dispatch.lean ====
section
/-! DEFINITION. The meaning of every row of the opcode table: one direct call for each constructor of `Instr`. -/

namespace Sys2Proof.Machine

/-- The effect of an instruction on the focused strand, or of an event on the module. -/
def exec (i : Instr) (s : State) : Host.Outcome State Fault Refusal :=
  match i with
  | .iadd o => Sys2Proof.Machine.execIadd o s
  | .isub o => Sys2Proof.Machine.execIsub o s
  | .imul o => Sys2Proof.Machine.execImul o s
  | .imulh o => Sys2Proof.Machine.execImulh o s
  | .laneUmulh o => Sys2Proof.Machine.execLaneUmulh o s
  | .imad o => Sys2Proof.Machine.execImad o s
  | .iand o => Sys2Proof.Machine.execIand o s
  | .ior o => Sys2Proof.Machine.execIor o s
  | .ixor o => Sys2Proof.Machine.execIxor o s
  | .inot o => Sys2Proof.Machine.execInot o s
  | .ineg o => Sys2Proof.Machine.execIneg o s
  | .shl o => Sys2Proof.Machine.execShl o s
  | .shr o => Sys2Proof.Machine.execShr o s
  | .sar o => Sys2Proof.Machine.execSar o s
  | .rol o => Sys2Proof.Machine.execRol o s
  | .ror o => Sys2Proof.Machine.execRor o s
  | .imin o => Sys2Proof.Machine.execImin o s
  | .imax o => Sys2Proof.Machine.execImax o s
  | .laneUmin o => Sys2Proof.Machine.execLaneUmin o s
  | .laneUmax o => Sys2Proof.Machine.execLaneUmax o s
  | .iabs o => Sys2Proof.Machine.execIabs o s
  | .popc o => Sys2Proof.Machine.execPopc o s
  | .clz o => Sys2Proof.Machine.execClz o s
  | .brev o => Sys2Proof.Machine.execBrev o s
  | .bfe o => Sys2Proof.Machine.execBfe o s
  | .bfi o => Sys2Proof.Machine.execBfi o s
  | .iadds o => Sys2Proof.Machine.execIadds o s
  | .isubs o => Sys2Proof.Machine.execIsubs o s
  | .sel o => Sys2Proof.Machine.execSel o s
  | .mov o => Sys2Proof.Machine.execMov o s
  | .swap o => Sys2Proof.Machine.execSwap o s
  | .icmp o => Sys2Proof.Machine.execIcmp o s
  | .fcmp o => Sys2Proof.Machine.execFcmp o s
  | .lread o => Sys2Proof.Machine.execLread o s
  | .fadd o => Sys2Proof.Machine.execFadd o s
  | .fsub o => Sys2Proof.Machine.execFsub o s
  | .fmul o => Sys2Proof.Machine.execFmul o s
  | .ffma o => Sys2Proof.Machine.execFfma o s
  | .ffma3 o => Sys2Proof.Machine.execFfma3 o s
  | .fmin o => Sys2Proof.Machine.execFmin o s
  | .fmax o => Sys2Proof.Machine.execFmax o s
  | .fabs o => Sys2Proof.Machine.execFabs o s
  | .fneg o => Sys2Proof.Machine.execFneg o s
  | .fdiv o => Sys2Proof.Machine.execFdiv o s
  | .fsqrt o => Sys2Proof.Machine.execFsqrt o s
  | .frcp o => Sys2Proof.Machine.execFrcp o s
  | .frsq o => Sys2Proof.Machine.execFrsq o s
  | .fexp2 o => Sys2Proof.Machine.execFexp2 o s
  | .flog2 o => Sys2Proof.Machine.execFlog2 o s
  | .fsin o => Sys2Proof.Machine.execFsin o s
  | .fcos o => Sys2Proof.Machine.execFcos o s
  | .ftanh o => Sys2Proof.Machine.execFtanh o s
  | .fsigm o => Sys2Proof.Machine.execFsigm o s
  | .frint o => Sys2Proof.Machine.execFrint o s
  | .fscale o => Sys2Proof.Machine.execFscale o s
  | .fclass o => Sys2Proof.Machine.execFclass o s
  | .padd o => Sys2Proof.Machine.execPadd o s
  | .psub o => Sys2Proof.Machine.execPsub o s
  | .pmul o => Sys2Proof.Machine.execPmul o s
  | .pfma o => Sys2Proof.Machine.execPfma o s
  | .pmin o => Sys2Proof.Machine.execPmin o s
  | .pmax o => Sys2Proof.Machine.execPmax o s
  | .pabs o => Sys2Proof.Machine.execPabs o s
  | .pneg o => Sys2Proof.Machine.execPneg o s
  | .pshl o => Sys2Proof.Machine.execPshl o s
  | .pshr o => Sys2Proof.Machine.execPshr o s
  | .psar o => Sys2Proof.Machine.execPsar o s
  | .pavg o => Sys2Proof.Machine.execPavg o s
  | .pcmp o => Sys2Proof.Machine.execPcmp o s
  | .pdot o => Sys2Proof.Machine.execPdot o s
  | .psad o => Sys2Proof.Machine.execPsad o s
  | .cvt o => Sys2Proof.Machine.execCvt o s
  | .pack o => Sys2Proof.Machine.execPack o s
  | .unpk o => Sys2Proof.Machine.execUnpk o s
  | .qblk o => Sys2Proof.Machine.execQblk o s
  | .dqblk o => Sys2Proof.Machine.execDqblk o s
  | .shfl o => Sys2Proof.Machine.execShfl o s
  | .shflx o => Sys2Proof.Machine.execShflx o s
  | .shflu o => Sys2Proof.Machine.execShflu o s
  | .shfld o => Sys2Proof.Machine.execShfld o s
  | .bpick o => Sys2Proof.Machine.execBpick o s
  | .scan o => Sys2Proof.Machine.execScan o s
  | .ld o => Sys2Proof.Machine.execLd o s
  | .ldx o => Sys2Proof.Machine.execLdx o s
  | .st o => Sys2Proof.Machine.execSt o s
  | .xchg o => Sys2Proof.Machine.execXchg o s
  | .ldblk o => Sys2Proof.Machine.execLdblk o s
  | .stblk o => Sys2Proof.Machine.execStblk o s
  | .atom o => Sys2Proof.Machine.execAtom o s
  | .acas o => Sys2Proof.Machine.execAcas o s
  | .acc o => Sys2Proof.Machine.execAcc o s
  | .pfetch o => Sys2Proof.Machine.execPfetch o s
  | .lds o => Sys2Proof.Machine.execLds o s
  | .sts o => Sys2Proof.Machine.execSts o s
  | .xchgs o => Sys2Proof.Machine.execXchgs o s
  | .atoms o => Sys2Proof.Machine.execAtoms o s
  | .ldf o => Sys2Proof.Machine.execLdf o s
  | .ldsx o => Sys2Proof.Machine.execLdsx o s
  | .qpush o => Sys2Proof.Machine.execQpush o s
  | .qpop o => Sys2Proof.Machine.execQpop o s
  | .qpeek o => Sys2Proof.Machine.execQpeek o s
  | .uadd o => Sys2Proof.Machine.execUadd o s
  | .usub o => Sys2Proof.Machine.execUsub o s
  | .umul o => Sys2Proof.Machine.execUmul o s
  | .umulh o => Sys2Proof.Machine.execUmulh o s
  | .uand o => Sys2Proof.Machine.execUand o s
  | .uor o => Sys2Proof.Machine.execUor o s
  | .uxor o => Sys2Proof.Machine.execUxor o s
  | .unot o => Sys2Proof.Machine.execUnot o s
  | .ushl o => Sys2Proof.Machine.execUshl o s
  | .ushr o => Sys2Proof.Machine.execUshr o s
  | .usar o => Sys2Proof.Machine.execUsar o s
  | .urol o => Sys2Proof.Machine.execUrol o s
  | .umin o => Sys2Proof.Machine.execUmin o s
  | .umax o => Sys2Proof.Machine.execUmax o s
  | .umov o => Sys2Proof.Machine.execUmov o s
  | .uswap o => Sys2Proof.Machine.execUswap o s
  | .uaddi o => Sys2Proof.Machine.execUaddi o s
  | .umovi o => Sys2Proof.Machine.execUmovi o s
  | .umovh o => Sys2Proof.Machine.execUmovh o s
  | .uxori o => Sys2Proof.Machine.execUxori o s
  | .uadd64 o => Sys2Proof.Machine.execUadd64 o s
  | .umov64 o => Sys2Proof.Machine.execUmov64 o s
  | .ucmp o => Sys2Proof.Machine.execUcmp o s
  | .nop o => Sys2Proof.Machine.execNop o s
  | .usel o => Sys2Proof.Machine.execUsel o s
  | .ubfe o => Sys2Proof.Machine.execUbfe o s
  | .ubfi o => Sys2Proof.Machine.execUbfi o s
  | .upopc o => Sys2Proof.Machine.execUpopc o s
  | .uclz o => Sys2Proof.Machine.execUclz o s
  | .br o => Sys2Proof.Machine.execBr o s
  | .brz o => Sys2Proof.Machine.execBrz o s
  | .brnz o => Sys2Proof.Machine.execBrnz o s
  | .call o => Sys2Proof.Machine.execCall o s
  | .ret o => Sys2Proof.Machine.execRet o s
  | .jmpr o => Sys2Proof.Machine.execJmpr o s
  | .brl o => Sys2Proof.Machine.execBrl o s
  | .brlz o => Sys2Proof.Machine.execBrlz o s
  | .regang o => Sys2Proof.Machine.execRegang o s
  | .exit o => Sys2Proof.Machine.execExit o s
  | .mballot o => Sys2Proof.Machine.execMballot o s
  | .vote o => Sys2Proof.Machine.execVote o s
  | .rdlane o => Sys2Proof.Machine.execRdlane o s
  | .wrlane o => Sys2Proof.Machine.execWrlane o s
  | .uld o => Sys2Proof.Machine.execUld o s
  | .ust o => Sys2Proof.Machine.execUst o s
  | .uatom o => Sys2Proof.Machine.execUatom o s
  | .uxchg o => Sys2Proof.Machine.execUxchg o s
  | .uacas o => Sys2Proof.Machine.execUacas o s
  | .bar o => Sys2Proof.Machine.execBar o s
  | .bara o => Sys2Proof.Machine.execBara o s
  | .bari o => Sys2Proof.Machine.execBari o s
  | .waitq o => Sys2Proof.Machine.execWaitq o s
  | .wake o => Sys2Proof.Machine.execWake o s
  | .fence o => Sys2Proof.Machine.execFence o s
  | .waitc o => Sys2Proof.Machine.execWaitc o s
  | .waitk o => Sys2Proof.Machine.execWaitk o s
  | .commit o => Sys2Proof.Machine.execCommit o s
  | .rewind o => Sys2Proof.Machine.execRewind o s
  | .rewindt o => Sys2Proof.Machine.execRewindt o s
  | .hpush o => Sys2Proof.Machine.execHpush o s
  | .hpop o => Sys2Proof.Machine.execHpop o s
  | .spawn o => Sys2Proof.Machine.execSpawn o s
  | .tend o => Sys2Proof.Machine.execTend o s
  | .tjoin o => Sys2Proof.Machine.execTjoin o s
  | .tclaim o => Sys2Proof.Machine.execTclaim o s
  | .qpost o => Sys2Proof.Machine.execQpost o s
  | .qstat o => Sys2Proof.Machine.execQstat o s
  | .rflush o => Sys2Proof.Machine.execRflush o s
  | .twait o => Sys2Proof.Machine.execTwait o s
  | .copy o => Sys2Proof.Machine.execCopy o s
  | .gather o => Sys2Proof.Machine.execGather o s
  | .laychk o => Sys2Proof.Machine.execLaychk o s
  | .mma o => Sys2Proof.Machine.execMma o s
  | .znew o => Sys2Proof.Machine.execZnew o s
  | .zclr o => Sys2Proof.Machine.execZclr o s
  | .zrd o => Sys2Proof.Machine.execZrd o s
  | .zst o => Sys2Proof.Machine.execZst o s
  | .coll o => Sys2Proof.Machine.execColl o s
  | .leave o => Sys2Proof.Machine.execLeave o s
  | .trap o => Sys2Proof.Machine.execTrap o s
  | .tret o => Sys2Proof.Machine.execTret o s
  | .yield o => Sys2Proof.Machine.execYield o s
  | .snap o => Sys2Proof.Machine.execSnap o s
  | .tmark o => Sys2Proof.Machine.execTmark o s
  | .dbrk o => Sys2Proof.Machine.execDbrk o s
  | .stallCycle co => Sys2Proof.Machine.execStallCycle co s
  | .illegalInstruction word ext => Sys2Proof.Machine.execIllegalInstruction word ext s
  | .resultLanding co st k => Sys2Proof.Machine.execResultLanding co st k s
  | .checkMismatch co st count => Sys2Proof.Machine.execCheckMismatch co st count s
  | .lateFault co => Sys2Proof.Machine.execLateFault co s
  | .pageWalk die va => Sys2Proof.Machine.execPageWalk die va s
  | .codeFill launch line => Sys2Proof.Machine.execCodeFill launch line s
  | .lineFill core line => Sys2Proof.Machine.execLineFill core line s
  | .storeAck co st => Sys2Proof.Machine.execStoreAck co st s
  | .horizonPassed co st => Sys2Proof.Machine.execHorizonPassed co st s
  | .rdcFill die line => Sys2Proof.Machine.execRdcFill die line s
  | .l1WritebackTimer core => Sys2Proof.Machine.execL1WritebackTimer core s
  | .updateOnlyRequest slice => Sys2Proof.Machine.execUpdateOnlyRequest slice s
  | .accWindowRollover slice => Sys2Proof.Machine.execAccWindowRollover slice s
  | .eddyAgeExpiry block => Sys2Proof.Machine.execEddyAgeExpiry block s
  | .forcedDelivery block => Sys2Proof.Machine.execForcedDelivery block s
  | .storeArrival k => Sys2Proof.Machine.execStoreArrival k s
  | .linkEntryArrival k => Sys2Proof.Machine.execLinkEntryArrival k s
  | .copyCompletion core k => Sys2Proof.Machine.execCopyCompletion core k s
  | .copyFault core k => Sys2Proof.Machine.execCopyFault core k s
  | .reportDelivery co => Sys2Proof.Machine.execReportDelivery co s
  | .mmaExecute pair => Sys2Proof.Machine.execMmaExecute pair s
  | .mmaCheck pair agree => Sys2Proof.Machine.execMmaCheck pair agree s
  | .zstEngine core k => Sys2Proof.Machine.execZstEngine core k s
  | .collChunk plan chunk rank => Sys2Proof.Machine.execCollChunk plan chunk rank s
  | .launchRecord queue => Sys2Proof.Machine.execLaunchRecord queue s
  | .blockPlacement launch => Sys2Proof.Machine.execBlockPlacement launch s
  | .launchCompletion launch => Sys2Proof.Machine.execLaunchCompletion launch s
  | .taskGather launch => Sys2Proof.Machine.execTaskGather launch s
  | .press entry => Sys2Proof.Machine.execPress entry s
  | .leaveGrant die => Sys2Proof.Machine.execLeaveGrant die s
  | .sluiceLend die => Sys2Proof.Machine.execSluiceLend die s
  | .leaveChainRelease co tile => Sys2Proof.Machine.execLeaveChainRelease co tile s
  | .leaveUnusedExpiry co => Sys2Proof.Machine.execLeaveUnusedExpiry co s
  | .preemptRequest launch => Sys2Proof.Machine.execPreemptRequest launch s
  | .preemptTrap co => Sys2Proof.Machine.execPreemptTrap co s
  | .forcedSave co => Sys2Proof.Machine.execForcedSave co s
  | .blockLeave block => Sys2Proof.Machine.execBlockLeave block s
  | .blockRestore block => Sys2Proof.Machine.execBlockRestore block s
  | .firmwareAbort launch => Sys2Proof.Machine.execFirmwareAbort launch s
  | .firmwareResume co => Sys2Proof.Machine.execFirmwareResume co s
  | .firmwarePressResume entry => Sys2Proof.Machine.execFirmwarePressResume entry s
  | .firmwareDeclareInvalid va => Sys2Proof.Machine.execFirmwareDeclareInvalid va s
  | .haltRequest co => Sys2Proof.Machine.execHaltRequest co s
  | .programBuffer co words => Sys2Proof.Machine.execProgramBuffer co words s
  | .dargWrite value => Sys2Proof.Machine.execDargWrite value s
  | .resume co => Sys2Proof.Machine.execResume co s
  | .singleStep co => Sys2Proof.Machine.execSingleStep co s
  | .resumeAtPc co pc => Sys2Proof.Machine.execResumeAtPc co pc s
  | .traceTimePacket core => Sys2Proof.Machine.execTraceTimePacket core s
  | .traceSummary co => Sys2Proof.Machine.execTraceSummary co s
  | .traceRoomReturn core => Sys2Proof.Machine.execTraceRoomReturn core s
  | .snapshotAgentTrigger => Sys2Proof.Machine.execSnapshotAgentTrigger s
  | .snapshotInput => Sys2Proof.Machine.execSnapshotInput s
  | .snapshotArm block => Sys2Proof.Machine.execSnapshotArm block s
  | .crossbarPacket channel crcGood => Sys2Proof.Machine.execCrossbarPacket channel crcGood s
  | .flitReceive link flit => Sys2Proof.Machine.execFlitReceive link flit s
  | .nak link seq => Sys2Proof.Machine.execNak link seq s
  | .wreq link mask => Sys2Proof.Machine.execWreq link mask s
  | .wchg link mask => Sys2Proof.Machine.execWchg link mask s
  | .wack link seq => Sys2Proof.Machine.execWack link seq s
  | .retrainWindow link wave count => Sys2Proof.Machine.execRetrainWindow link wave count s
  | .trainingComplete link wave count => Sys2Proof.Machine.execTrainingComplete link wave count s
  | .widthPolicy link sense => Sys2Proof.Machine.execWidthPolicy link sense s
  | .linkRekey link => Sys2Proof.Machine.execLinkRekey link s
  | .read h size => Sys2Proof.Machine.execRead h size s
  | .write h mask data => Sys2Proof.Machine.execWrite h mask data s
  | .readModifyWrite h op => Sys2Proof.Machine.execReadModifyWrite h op s
  | .accumulate h op addend => Sys2Proof.Machine.execAccumulate h op addend s
  | .arrive h designator => Sys2Proof.Machine.execArrive h designator s
  | .response tid good data => Sys2Proof.Machine.execResponse tid good data s
  | .writeAcknowledgement tid good => Sys2Proof.Machine.execWriteAcknowledgement tid good s
  | .reductionPiece h piece => Sys2Proof.Machine.execReductionPiece h piece s
  | .chunkBit h plan rank chunk => Sys2Proof.Machine.execChunkBit h plan rank chunk s
  | .hostWrite offset data => Sys2Proof.Machine.execHostWrite offset data s
  | .hostRead offset len => Sys2Proof.Machine.execHostRead offset len s
  | .doorbellTicket queue => Sys2Proof.Machine.execDoorbellTicket queue s
  | .doorbellHead queue => Sys2Proof.Machine.execDoorbellHead queue s
  | .apbaseWrite value => Sys2Proof.Machine.execApbaseWrite value s
  | .registerWrite reg value => Sys2Proof.Machine.execRegisterWrite reg value s
  | .map r => Sys2Proof.Machine.execMap r s
  | .unmap va size => Sys2Proof.Machine.execUnmap va size s
  | .setregBaseAllowance watts => Sys2Proof.Machine.execSetregBaseAllowance watts s
  | .setregAccControl slice value => Sys2Proof.Machine.execSetregAccControl slice value s
  | .setregLease slice value => Sys2Proof.Machine.execSetregLease slice value s
  | .setregDebugKey digest => Sys2Proof.Machine.execSetregDebugKey digest s
  | .attest nonce => Sys2Proof.Machine.execAttest nonce s
  | .session ciphertext => Sys2Proof.Machine.execSession ciphertext s
  | .debugReq key signature => Sys2Proof.Machine.execDebugReq key signature s
  | .regions r => Sys2Proof.Machine.execRegions r s
  | .stats => Sys2Proof.Machine.execStats s
  | .reset => Sys2Proof.Machine.execReset s
  | .bringUp b => Sys2Proof.Machine.execBringUp b s
  | .powerSample watts temps => Sys2Proof.Machine.execPowerSample watts temps s
  | .clockStepDown => Sys2Proof.Machine.execClockStepDown s
  | .clockStepUp => Sys2Proof.Machine.execClockStepUp s
  | .thermalTrip => Sys2Proof.Machine.execThermalTrip s
  | .mctpControl message => Sys2Proof.Machine.execMctpControl message s
  | .pldmMonitoring sensor => Sys2Proof.Machine.execPldmMonitoring sensor s
  | .vendorAttest nonce => Sys2Proof.Machine.execVendorAttest nonce s
  | .placementReport launch device status => Sys2Proof.Machine.execPlacementReport launch device status s
  | .relight link wave => Sys2Proof.Machine.execRelight link wave s

end Sys2Proof.Machine
end

