-- ==== Sys2Proof/Machine/Sched.lean ====
section
/-! DEFINITION. Which agent moves next, and how a strand issues: fetch (03 R59-R63), the order of events at an issue
boundary (19 R381), readiness and arbitration (08 R189), and the clocks. `Sem` is the meaning of instructions, which the
step supplies. -/

namespace Sys2Proof.Machine

/-- The meaning of an instruction. -/
abbrev Sem := Instr → State → Host.Outcome State Fault Refusal

/-! ### Fetch (03 R59-R63) -/

/-- The focused strand is about to issue the first instruction of its launch or task (03 R61). -/
def State.entering (s : State) : Bool := s.co.st.icnt == 0 && !s.co.special && s.co.st.pc == s.co.entry.setWidth 56

/-- Runs the instruction that a list of words begins with; words whose opcode is unassigned raise cause 0x01 (03 R75). -/
def State.runWords (run : Sem) (ws : List Word) (s : State) : Host.Outcome State Fault Refusal :=
  match decode ws with
  | .ok i => run i s
  | .error (.reserved i) => run i s
  | .error (.unassigned w e) => run (.illegalInstruction w e) s
  | .error .short => run (.illegalInstruction (wordAt ws 0) 0) s

/-- Words from a slot of a line. -/
def slotWords (ws : List Word) (slot : Nat) : List Word := (ws.drop slot).take 3

/-- Fetches and runs the focused strand's instruction from the version of its line that the launch has pinned (R63). A line
not filled yet parks the strand, an absent page too; the entry is checked before the first instruction (R61). -/
def State.fetch (run : Sem) (s : State) : Host.Outcome State Fault Refusal :=
  let va := s.pcAddr
  match s.pinned s.co.launch (lineOf va) with
  | none => match s.xlateLine (lineOf va).toNat with
    | .ok _ => .next (s.parkSt (.fill (lineOf va)))
    | .miss => .next (s.parkSt (.page (lineOf va)))
    | .fault c => .next (s.raise (trapOf c 0 (lineOf va)))
  | some ws =>
    match (if s.entering then lineCheck ws va false true else .ok) with
    | .bad c sub info => .next (s.raise (trapOf c sub info))
    | _ => s.runWords run (slotWords ws (slotOf va))

/-- One attempt to issue: from the program buffer in debug mode (20 R400), else from memory. -/
def State.attempt (run : Sem) (s : State) : Host.Outcome State Fault Refusal :=
  match s.co.debug, s.dbg.buffer with
  | true, some (_, ws) => s.runWords run ws
  | true, none => .next s
  | false, _ => s.fetch run

/-! ### The issue boundary (19 R381) -/

/-- The strand's instruction has begun: it waits in place, and a report or a pre-empt request comes after it. -/
def Wait.inProgress : Wait → Bool
  | .barrier _ _ _ | .barW _ _ | .waitq _ _ | .join | .post _ _ | .fabric _ => true
  | .resource .eddy | .resource (.flush _) => true
  | _ => false

/-- Words of the instruction that a list begins with. -/
def bufferLength (ws : List Word) : Nat :=
  match decode ws with
  | .ok i => i.length
  | .error (.reserved i) => i.length
  | .error _ => ws.length

/-- After a buffer instruction: its words are used up, and the run ends with the last (20 R400). -/
def State.afterBuffer (t : State) : State :=
  match t.co.debug, t.dbg.buffer with
  | true, some (k, ws) =>
    if t.co.st.park.isSome then t
    else
      let rest := ws.drop (bufferLength ws)
      let t := { t with dbg := { t.dbg with buffer := some (k, rest) } }
      if rest.isEmpty && !(t.co.dir && !t.co.tm) then t.endBuffer else t
  | _, _ => t

/-- After an issue: a single step ends once its instruction is no longer under way (20 R402). -/
def State.afterStep (t : State) : State :=
  if t.co.stepping.isSome && t.co.st.park.isNone && !(t.co.dir && !t.co.tm) && t.co.halt.isNone && !t.co.ending
    then t.haltDebug 3 0 else t

/-- The attempt of `s` ended in a fault of the instruction itself, which comes before reports and requests. -/
def ownFault (s t : State) : Bool :=
  ((t.co.tm && !s.co.tm) || (t.co.halt.isSome && s.co.halt.isNone)) && t.co.st.icnt == s.co.st.icnt

/-- What the focused strand does at its issue boundary when no halt, walk or late event comes first: the fault of its
instruction, a report, a pre-empt request, or the instruction (R381). -/
def State.boundary (s t : State) : State :=
  let waits := match s.co.st.park with
    | some w => w.inProgress
    | none => false
  if waits || ownFault s t then t.afterBuffer.afterStep
  else if s.co.st.takesReport && !s.co.special then s.reportTrap.afterStep
  else if s.co.takesPreempt then s.preemptTrap.afterStep
  else t.afterBuffer.afterStep

/-- The focused strand issues (R381): an instruction that awaits answers goes on; else one step of its walk, a debug halt, a late event, or the boundary. -/
def State.issueHere (run : Sem) (s : State) : Host.Outcome State Fault Refusal :=
  if s.co.dir && !s.co.tm && !s.co.st.answering then
    let t := s.walkOne
    let t := match t.co.debug, t.dbg.buffer with
      | true, some (_, []) => if t.co.dir then t else t.endBuffer
      | _, _ => t
    .next t.afterStep
  else match s.co.haltReq, s.co.debug || (s.co.dir && !s.co.tm) with
    | some source, false => .next (s.haltDebug source 0)
    | _, _ => match s.co.st.late with
      | some ev => .next (s.lateTrap ev)
      | none => match s.attempt run with
        | .next t => .next (s.boundary t)
        | o => o

/-! ### Readiness (08 R189, R191) -/

/-- A strand may issue as far as its cohort's state goes: resident, not saved, ended or halted, no page awaited (01 R27), its launch
placed (21 R432), no other strand's walk, trap or step in the way (01 R29, 07 R167). -/
def State.mayIssue (s : State) (c : Cohort) (t : Strand) : Bool :=
  c.uid != 0 && c.saved.isNone && !c.ending && !c.awaitsPage && s.resident c.block && !s.gated c.launch
    && (match c.halt with
      | none => true
      | some (.debug _ _ id) => c.debug && id == t.id
      | some _ => false)
    && (if c.dir && !c.tm then (match c.walk with
          | some w => w.strand == t.id || t.answering
          | none => true)
        else !c.tm || c.debug || c.trapped == t.id)
    && (match c.stepping with
      | some id => id == t.id || c.haltReq.isSome
      | none => true)

/-- A strand's wait is over, or about to be found over: a move of the strand in focus would change what it waits for. -/
def State.wakes (run : Sem) (s : State) : Bool :=
  match s.co.st.park with
  | none => true
  | some (.walking _ _) | some (.page _) | some .late | some .regang => false
  | some (.fill l) => (s.pinned s.co.launch l).isSome
  | some (.fabric ms) => ms.all (·.answer.isSome)
  | some w => (s.co.st.takesReport && !s.co.special) || match s.attempt run with
    | .next t => t.co.uid != s.co.uid || t.co.st.park != some w
    | _ => true

/-- The strand in focus is not parked. -/
def State.ready (run : Sem) (s : State) : Bool :=
  let held := match s.co.st.park with
    | some (.walking _ _) | some (.page _) => true
    | some (.fill l) => (s.pinned s.co.launch l).isNone
    | _ => false
  if s.co.dir && !s.co.tm && !s.co.st.answering then
    !held && !(s.co.strands.any fun t => t.park == some (.resource .undoing) && s.accPending s.co.uid t.id) && (match s.co.walk with
      | some w => w.kind == .device || s.landed
      | none => true)
  else if s.co.haltReq.isSome && !s.co.debug && !(s.co.dir && !s.co.tm) then s.co.st.park.isNone
  else if s.co.st.late.isSome then !held
  else s.wakes run

/-- The set of the strand's next instruction: vector, uniform, or either when it issues none (R189). -/
def State.issueSet (s : State) : Option Bool :=
  if s.co.dir && !s.co.tm then none
  else match s.co.debug, s.dbg.buffer with
    | true, some (_, w :: _) => some (!w.getLsbD 31)
    | true, _ => none
    | false, _ => match s.pinned s.co.launch (lineOf s.pcAddr) with
      | some ws => some (!(wordAt ws (slotOf s.pcAddr)).getLsbD 31)
      | none => none

/-- What arbitration compares. -/
structure Cand where
  uid : Nat
  strand : Nat
  passed : Nat
  prio : Nat
  started : Nat
  slot : Nat
  deriving DecidableEq, Repr

/-- The first of two candidates is taken before the second (R189). -/
def Cand.before (a b : Cand) : Bool :=
  if (512 ≤ a.passed || 512 ≤ b.passed) && a.passed != b.passed then b.passed < a.passed
  else if a.prio != b.prio then b.prio < a.prio
  else if a.started != b.started then a.started < b.started
  else if a.slot != b.slot then a.slot < b.slot
  else a.strand < b.strand

/-- The strands of a half that are ready for a slot. -/
def State.candidates (run : Sem) (s : State) (core half : Nat) (vector : Bool) : List Cand :=
  (s.cohorts.filter fun c => c.core == core && c.half == half).flatMap fun c =>
    c.strands.filterMap fun t =>
      let u := s.focus c.uid t.id
      let fits := match u.issueSet with
        | some v => v == vector
        | none => true
      if s.mayIssue c t && fits && u.ready run then some ⟨c.uid, t.id, t.passed, c.prio, c.started, c.slot⟩ else none

/-- The candidate that a slot takes (R189). -/
def firstCand : List Cand → Option Cand
  | [] => none
  | c :: cs => match firstCand cs with
    | none => some c
    | some d => if d.before c then some d else some c

/-- Passed-over counts after a slot has taken one of its ready strands (R189). -/
def State.passOver (s : State) (taken : Cand) (cs : List Cand) : State :=
  cs.foldl (fun s c => s.modCohort c.uid fun k => k.modStrand c.strand fun t =>
    { t with passed := if c == taken then 0 else t.passed + 1 }) s

/-- A slot of a half takes its strand, which issues. With none ready, nothing happens. -/
def State.issueSlot (run : Sem) (core half : Nat) (vector : Bool) (s : State) : Host.Outcome State Fault Refusal :=
  let cs := s.candidates run core half vector
  match firstCand cs with
  | none => .next s
  | some c => ((s.passOver c cs).focus c.uid c.strand).issueHere run

/-! ### Who moves when the agenda is empty (log 1) -/

/-- Events of the strands of a cohort that may be due. -/
def Cohort.due (s : State) (c : Cohort) : List Instr :=
  c.strands.flatMap fun t =>
    (List.range t.outst.length).map (Instr.resultLanding c.uid t.id)
      ++ (match t.park with
        | some (.fill l) => [Instr.codeFill c.launch l]
        | _ => [])
      ++ (if t.unacked.any (·.tid.isNone) then [Instr.storeAck c.uid t.id] else [])
      ++ (if t.horizon != 0 && t.horizon < s.time then [Instr.horizonPassed c.uid t.id] else [])

/-- Events of a core that may be due. -/
def Core.due (cycle k : Nat) (c : Core) : List Instr :=
  (dedup (c.mse.map (·.line))).map (Instr.lineFill k)
    ++ (if c.l1.any fun w => w.owned && w.dirty && w.since + 4096 ≤ cycle then [Instr.l1WritebackTimer k] else [])
    ++ (List.range c.copies.length).flatMap fun n => match (c.copies[n]?).map (·.kind) with
      | some (CopyKind.zst ..) => [Instr.zstEngine k n]
      | some _ => [Instr.copyCompletion k n, Instr.copyFault k n]
      | none => []

/-- Events of a launch that may be due. -/
def Launch.due (l : Launch) : List Instr :=
  if l.phase = 2 then (if l.unwritten.isSome then [Instr.launchCompletion l.uid] else [])
  else [Instr.blockPlacement l.uid, Instr.launchCompletion l.uid, Instr.preemptRequest l.uid]
    ++ (if l.record.ten then [Instr.taskGather l.uid] else [])
    ++ (l.presses.filter (·.stopped.isNone)).map fun p => Instr.press p.entry

/-- Events of a block that may be due. -/
def Block.due (cycle : Nat) (b : Block) : List Instr :=
  (if b.eddy.any fun e => e.any fun e => e.born + 65536 ≤ cycle then [Instr.eddyAgeExpiry b.uid] else [])
    ++ (if b.forced.isEmpty then [] else [Instr.forcedDelivery b.uid])
    ++ (if b.phase = 1 then [Instr.blockLeave b.uid] else if b.phase = 2 then [Instr.blockRestore b.uid] else [])

/-- Every event of the agents inside the module that may be due. -/
def State.due (s : State) : List Instr :=
  s.cohorts.flatMap (Cohort.due s)
    ++ (indexed s.cores).flatMap (fun x => x.2.due s.cycle x.1)
    ++ (indexed s.dies).flatMap (fun x =>
      x.2.walks.map (fun p => Instr.pageWalk x.1 (BitVec.ofNat 64 (2 ^ 16 * p)))
        ++ ((x.2.rdc.filter (·.words.isNone)).map fun l => Instr.rdcFill x.1 l.line)
        ++ (if x.2.waiting.isEmpty then [] else [Instr.leaveGrant x.1, Instr.sluiceLend x.1]))
    ++ (indexed s.slices).flatMap (fun x => if x.2.requests.isEmpty then [] else [Instr.updateOnlyRequest x.1])
    ++ (indexed s.pairs).flatMap (fun x =>
      (if x.2.queue.isEmpty then [] else [Instr.mmaExecute x.1])
        ++ (if x.2.checks.isEmpty then [] else [Instr.mmaCheck x.1 true]))
    ++ (List.range s.arrivals.length).map Instr.storeArrival
    ++ (List.range s.flying.length).map Instr.linkEntryArrival
    ++ (s.plans.flatMap fun p => (s.chunksDue p).map fun x => Instr.collChunk p.addr x.1 x.2)
    ++ s.launches.flatMap Launch.due
    ++ s.blocks.flatMap (Block.due s.cycle)
    ++ (s.cohorts.filter (fun c => c.preempt.isSome && c.saved.isNone)).map (fun c => Instr.forcedSave c.uid)
    ++ (s.cohorts.flatMap fun c => (c.grants.map fun g =>
      if g.use == 1 then Instr.leaveChainRelease c.uid g.tile else Instr.leaveUnusedExpiry c.uid))
    ++ (s.packets.map fun p => Instr.crossbarPacket p.channel true)
    ++ s.descs.map fun d => Instr.launchRecord d.1

/-- Slots that could issue, in an order that rotates from `turn`. -/
def State.slots (s : State) : List (Nat × Nat × Bool) :=
  let all := (dedup (s.cohorts.map fun c => 2 * c.core + c.half)).flatMap fun h => [(h / 2, h % 2, false), (h / 2, h % 2, true)]
  let k := s.turn % max all.length 1
  all.drop k ++ all.take k

/-- The first slot with a ready strand. -/
def State.readySlot (run : Sem) (s : State) : Option (Nat × Nat × Bool) :=
  s.slots.find? fun x => !(s.candidates run x.1 x.2.1 x.2.2).isEmpty

/-- The move that the default policy makes: it alternates between the events that may be due, in rotation, and the slots; a
cycle in which no strand can issue and nothing is due is a stall of the focused cohort. -/
def State.defaultMove (run : Sem) (s : State) : Move :=
  let evs := s.due
  let event (_ : Unit) : Move := match evs[s.tick / 2 % max evs.length 1]? with
    | some i => .event i
    | none => .event (.stallCycle s.co.uid)
  if s.tick % 2 = 0 && !evs.isEmpty then event ()
  else match s.readySlot run with
    | some (c, h, v) => .issue c h v
    | none => event ()

/-! ### One move -/

/-- The clocks advance by one cycle and by as many more as the implementation takes (log 2): package time runs at 10/14
ns for each cycle of the clock, which slows with the power step (22 R439, R446). -/
def State.advance (s : State) : State :=
  let dc := 1 + Config.stepCycles s.tick
  let x := dc * 10 + s.frac
  let f := 14 - s.power.clk
  { s with cycle := s.cycle + dc, time := s.time + x / f, frac := x % f, tick := s.tick + 1 }

/-- One move of one agent. Only a row of the table that is no instruction is an event. -/
def State.move (run : Sem) (m : Move) (s : State) : Host.Outcome State Fault Refusal :=
  match m with
  | .issue c h v => s.issueSlot run c h v
  | .event (.illegalInstruction _ _) => .next s
  | .event i => if i.isEvent then run i s else .next s
  | .evict c l => .next (s.evictLine c l)
  | .evictHome l => .next (s.evictHome l)
  | .evictRdc d l => .next (s.evictRdc d l)
  | .upset u => .next (s.upset u)

/-- What follows every move: cohorts that end perform their closing actions, and time goes on. -/
def State.settle (s : State) : State := s.settleEnds.advance

/-- One step: the head of the agenda, or the move of the default policy. -/
def State.runStep (run : Sem) (s : State) : Host.Outcome State Fault Refusal :=
  let go (m : Move) (s : State) : Host.Outcome State Fault Refusal :=
    match s.move run m with
    | .next t => .next t.settle
    | o => o
  match s.agenda with
  | m :: rest => go m { s with agenda := rest }
  | [] => go (s.defaultMove run) { s with turn := s.turn + 1 }

end Sys2Proof.Machine
end

