-- ==== Sys2Proof/Machine/Install.lean ====
section
/-! DEFINITION. An instruction put where the next step fetches (log 7): into the line that the focused strand fetches from,
or, when no strand stands ready in focus, into a launch that is put into the module from outside. -/

namespace Sys2Proof.Machine

/-- A fetch line: each `true` of `starts` marks a slot from 2 on that begins an instruction and may be jumped to; the line
begins an entry (03 R59). -/
def markedLine (starts : List Bool) (ws : List Word) : List Word :=
  let bits := (indexed starts).foldl (fun m x => if x.2 then m + 2 ^ (x.1 + 2) else m) 0
  BitVec.ofNat 32 bits :: BitVec.ofNat 32 (bits + 1) :: ws

/-- `NOP` (04 R99). -/
def nopWord : Word := (Instr.nop { s := false, d := 0, a := 0, b := 0 }).word0

/-- A line with an instruction at its first slot and `NOP`s after it. -/
def freshLine (ws : List Word) : List Word :=
  let n := slotLength (wordAt ws 0)
  markedLine ((List.range 30).map fun k => k == 0 || n ≤ k) ((List.range 30).map fun k => if k < n then wordAt ws k else nopWord)

/-- A line with an instruction at a slot: its own start is marked, and the slot after it. -/
def patchedLine (line : List Word) (slot : Nat) (ws : List Word) : List Word :=
  let n := slotLength (wordAt ws 0)
  let starts := (List.range 30).map fun k =>
    k + 2 == slot || k + 2 == slot + n || (startBit line (k + 2) && !(slot < k + 2 && k + 2 < slot + n))
  markedLine starts ((List.range 30).map fun k =>
    if slot ≤ k + 2 && k + 2 < slot + n then wordAt ws (k + 2 - slot) else wordAt line (k + 2))

/-- Address of the line of the launch that `install` puts into the module. -/
def codeLine : DWord := 0x400000

/-- Largest passed-over count of any strand. -/
def State.mostPassed (s : State) : Nat := (s.cohorts.flatMap Cohort.strands).foldl (fun m t => max m t.passed) 512

/-- A launch record that asks for one block of one cohort of 128 registers. -/
def installRecord : LaunchRec :=
  { entry := codeLine + 8, handler := 0, args := 0, wheyBase := 0, szl := 16, scratch := 65536, eddy := 64,
    regs := [128, 128, 128, 128], roles := [0, 0, 0], c := 1, levels := [{ extent := 1, domain := 0, scope := 0 }],
    nopre := false, paired := false, prio := 7, deps := [], done := 0, curds := 0, curdn := 0, ten := false, tslots := 0,
    taskq := 0, tscratch := 0 }

/-- A launch with one block and one cohort on core 0, half 0, whose first instruction is given. -/
def State.install (s : State) (ws : List Word) : State :=
  let l : Launch :=
    { uid := s.fresh, queue := 0, seq := 0, addr := 0, record := installRecord, phase := 1, status := 0, blocks := 1,
      placed := 1, ended := 0, accepted := s.time, pins := [⟨codeLine, freshLine ws⟩], slots := [], tasks := [],
      queued := [], closed := [], presses := [], peers := [], unwritten := none }
  let b : Block :=
    { uid := s.fresh + 1, launch := s.fresh, index := 0, core := 0, base := 0, p := 65536, eddyN := 64, group := none,
      started := s.cycle, queues := List.replicate 4 [], eddy := List.replicate 64 none, forced := [], keeps := 0, phase := 0,
      image := [], t0 := none, armed := false, latched := none, lost := 0, profile := none }
  let c : Cohort :=
    { Cohort.reset with
      uid := s.fresh + 2, block := s.fresh + 1, launch := s.fresh, slot := s.freeSlot 0 0, nregs := 128, prio := 7
      started := s.cycle, v := List.replicate 128 (List.replicate 96 0), entry := codeLine + 8, ending := false
      st := { Strand.reset with pc := 0x400008, mask := BitVec.allOnes 96, held := BitVec.allOnes 96
                                passed := s.mostPassed + 1 } }
  { s with co := c, others := (if s.co.uid == 0 then [] else [s.co]) ++ s.others, launches := s.launches ++ [l]
           blocks := s.blocks ++ [b], fresh := s.fresh + 3 }

/-- The line that the focused strand fetches from, when its next move is to issue what stands there and n words fit. -/
def State.placeHere (s : State) (n : Nat) : Option (List Word) :=
  let t := s.co.st
  let slot := slotOf s.pcAddr
  if s.mayIssue s.co t && !s.co.dir && s.co.haltReq.isNone && t.late.isNone && t.park.isNone && !s.co.debug && !s.entering
      && t.reports.isEmpty && !s.co.takesPreempt && 2 ≤ slot && slot + n < 32 && s.pcAddr.toNat % 4 = 0
    then s.pinned s.co.launch (lineOf s.pcAddr) else none

/-- Puts an instruction where the focused strand fetches, and has its slot take it. -/
def State.place (s : State) (ws : List Word) : State :=
  let vector := !(wordAt ws 0).getLsbD 31
  match s.placeHere (slotLength (wordAt ws 0)) with
  | some line =>
    let here := lineOf s.pcAddr
    let s := s.modLaunch s.co.launch fun l =>
      { l with pins := modifyFirst (·.line == here) (fun p => { p with words := patchedLine line (slotOf s.pcAddr) ws }) l.pins }
    { (s.setSt fun t => { t with passed := s.mostPassed + 1 }) with agenda := .issue s.co.core s.co.half vector :: s.agenda }
  | none => { s.install ws with agenda := .issue 0 0 vector :: s.agenda }

end Sys2Proof.Machine
end

