-- ==== Sys2Proof/Machine/Step.lean ====
section
/-! DEFINITION. One step of the module. -/

namespace Sys2Proof.Machine

/-- One move of one agent, unless the thermal trip has cut the power (22 R446). -/
def step (s : State) : Host.Outcome State Fault Refusal :=
  if s.power.tripped then .fault .poweredOff else s.runStep exec

/-- The state with an instruction of `nbits` bits, `w`, stored where the next step fetches and runs it. -/
def State.withFetchWord (s : State) (nbits w : Nat) : State :=
  let v := w % 2 ^ nbits
  s.place [BitVec.ofNat 32 v, BitVec.ofNat 32 (v / 2 ^ 32), BitVec.ofNat 32 (v / 2 ^ 64)]

end Sys2Proof.Machine
end

