-- ==== Sys2Proof/Safety.lean ====
section
/-! DEFINITION. What counts as a safe step and a safe run, and the terms that claims use: when an instruction may issue,
when its records have room, and what completing leaves unchanged. -/

namespace Sys2Proof.Machine

/-- Every memory of the module is in canonical form: device memory and each core's scratchpad. -/
def State.memoryOk (s : State) : Prop :=
  Mem.wf Config.blankByte s.mem = true ∧ ∀ c ∈ s.cores, Mem.wf Config.blankScratch c.sp = true

/-- A step is safe when the machine goes on: it neither faults nor is refused. -/
def SafeStep (s : State) : Prop := ∃ t, step s = .next t

/-- A run of n steps is safe when each step is. -/
def SafeRun : Nat → State → Prop
  | 0, _ => True
  | n + 1, s => ∃ t, step s = .next t ∧ SafeRun n t

/-! ### When an instruction runs -/

/-- The focused strand's instruction passes the checks of 03 R75 and R66, and the slot after it can be fetched. -/
structure State.Clear (s : State) (i : Instr) : Prop where
  checks : s.decodeChecks i = none
  successor : s.co.debug = true ∨ s.checkArrival (seqNext s.pcAddr i.length) true false = .ok

/-- The whey takes `n` more bytes of records (01 R17), and what completing into `p` writes back of it can be written (01
R15): nothing is due, or the whole region translates. -/
structure State.Room (s p : State) (n : Nat) : Prop where
  limit : s.co.special = true ∨ s.co.wheyt + n ≤ p.co.lim
  writeBack : s.co.wheyt + n ≤ s.co.wheyWb + 1024 ∨
    (s.co.wheyt + n ≤ 2 ^ s.co.szl ∧
      ∀ k m, k + m ≤ 2 ^ s.co.szl → ∃ pas, p.walkRun .write none (spanNat (s.co.wheyBase.toNat + k) m) = .ok pas)

/-! ### What completing leaves -/

/-- A strand without its place in the program: program counter, counts, come-from register and park state. -/
def Strand.regs (t : Strand) : Strand :=
  { t with pc := 0, icnt := 0, floor := 0, cfr := 0, park := none, checked := 0 }

/-- A cohort without its record mechanism and the strands' places: its registers. -/
def Cohort.regs (c : Cohort) : Cohort :=
  { c with whey := [], wheyWb := 0, mism := [], st := c.st.regs, sibs := c.sibs.map Strand.regs }

/-- `u` is `p` with no more than the image of the whey records written to the region (01 R15). -/
def WroteWhey (s p u : State) : Prop :=
  u = p ∨ ∃ bs, s.co.wheyWb + bs.length ≤ 2 ^ s.co.szl
    ∧ p.vaStore s.co.core (s.co.wheyBase.toNat + s.co.wheyWb) bs = .ok u

/-- `t` is `s` after an instruction that completes at `next` with the effect `post` (01 R21): the registers and all else
are those of `post`, but for the program counter, the counts and the records; `hard` is class H (01 R13). In trap and
debug mode nothing counts, and a buffer instruction does not move the program counter. -/
structure Completes (s t post : State) (next : DWord) (hard : Bool) : Prop where
  regs : t.co.regs = post.co.regs
  pc : t.co.st.pc = if s.co.debug then s.co.st.pc else next.setWidth 56
  icnt : t.co.st.icnt = if s.co.special then s.co.st.icnt else s.co.st.icnt + 1
  floor : t.co.st.floor = if hard then t.co.st.icnt else s.co.st.floor
  park : t.co.st.park = none
  rest : ∃ c d u, WroteWhey s { post with co := c, dbg := d } u ∧ t = { u with co := t.co }
  log : s.dbg.recording = false → t.dbg = post.dbg

/-- The address after an instruction of the focused strand. -/
def State.after (s : State) (i : Instr) : DWord := seqNext s.pcAddr i.length

/-- Vector register `d` of the focused cohort with lane values in the active lanes, the others kept (05 R117). -/
def State.withLanes (s : State) (d : Nat) (f : Nat → Word) : State :=
  s.setCo fun c => { c with v := c.v.set d ((List.range 96).map fun k =>
    if c.st.mask.getLsbD k then f k else c.vlane d k) }

/-- `%fmode` with flags made sticky (02 R40). -/
def State.withFlags (s : State) (fl : Flags) : State :=
  s.setCo fun c => { c with fmode := if fl = 0 then c.fmode else stickFlags c.fmode fl }

/-- The four sources of an LQ instruction in a lane: A, B, C, and D's old value. -/
def State.quad (s : State) (o : LqForm) (k : Nat) : Word × Word × Word × Word :=
  (s.co.vlane o.a.toNat k, wordAt (s.laneSrc o.b o.lit) k, wordAt (s.laneSrc o.c o.lit) k, s.co.vlane o.d.toNat k)

/-! ### Instructions that end themselves, and traps -/

/-- A cohort without what is no register of it: how far its records stand in memory, its checks, its trace count. -/
def Cohort.bare (c : Cohort) : Cohort :=
  { c with wheyWb := 0, mism := [], sinceSync := 0, st := { c.st with checked := 0 }
           sibs := c.sibs.map fun t => { t with checked := 0 } }

/-- `t` is `s` after an instruction that sets counts, program counters and records itself, as `post` has them; class H
commits after it (01 R13, R22). -/
structure Leaves (s t post : State) (hard : Bool) : Prop where
  co : t.co.bare = (if hard then post.co.commit else post.co).bare
  rest : ∃ u, WroteWhey s post u ∧ t = { u with co := t.co }

/-- Trap entry meets no obstacle (01 R29): the cohort has a handler, its line is filled and passes the checks of an arrival,
and the records on chip are written back already or can be. -/
structure State.CanTrap (s : State) : Prop where
  handler : s.co.handler ≠ 0
  line : ∃ ws, s.pinned s.co.launch (lineOf s.handlerAddr) = some ws ∧ lineCheck ws s.handlerAddr false false = .ok
  writeBack : s.co.wheyt ≤ s.co.wheyWb ∨ (s.co.wheyt ≤ 2 ^ s.co.szl ∧
    ∀ k m, k + m ≤ 2 ^ s.co.szl → ∃ pas, s.walkRun .write none (spanNat (s.co.wheyBase.toNat + k) m) = .ok pas)

/-- `u` is `s` after its focused strand entered the trap `t` (01 R29): the trap registers, trap mode, the history save
area's base, the handler's address, and nothing else but the records' image in memory and a trace packet. -/
structure Entered (s u : State) (t : Trap) : Prop where
  co : u.co.bare = ({ s.co with
    cause := t.word, tinfo := t.info, tpc := s.co.st.pc.extractLsb' 0 32, tpcWritten := false, tm := true
    trapped := s.co.st.id, hbase := s.co.wheyt, hsave := []
    st := { s.co.st with pc := s.handlerAddr.setWidth 56, park := none } } : Cohort).bare
  written : s.co.wheyt ≤ u.co.wheyWb
  rest : ∃ v, WroteWhey s s v ∧ u = { v with co := u.co, cores := u.cores }
    ∧ ∀ k, u.core k = { v.core k with trace := (u.core k).trace }

/-! ### Accesses -/

/-- An access passes the checks at issue (12 R269), finds a place for each lane (10 R245), meets no poison where it would
read it, and finds its scratchpad lines as its order wants them (10 R233). -/
structure State.Reaches (s : State) (a : AccSpec) (ps : List (LaneAcc × Place)) : Prop where
  checks : s.issueChecks a.sp a.need a.fabOk a.n a.align a.lanes = none
  places : resolveAll (fun x => if a.sp then s.spPlace s.co.origin x a.n else s.devPlace a.acc x a.n) a.lanes = .ok ps
  clean : a.reads = true → ps.findSome? s.poisonOf = none
  lines : s.linesReady a.order (spLines ps) = true

/-- The bytes that other devices answered to the strand's fabric accesses: it has none, or it waited and every answer is
good (21 R429). -/
def State.Answered (s : State) (ps : List (LaneAcc × Place)) (ans : List (Nat × List Byte)) : Prop :=
  (anyFabric ps = false ∧ ans = [])
  ∨ (anyFabric ps = true ∧ ∃ ms, s.co.st.park = some (.fabric ms) ∧ (∀ m ∈ ms, ∃ d, m.answer = some (true, d))
    ∧ ans = ms.map fun m => (m.lane, (m.answer.map (·.2)).getD []))

/-- A release part of an access or an instruction may perform (11 R257). -/
def State.MayRelease (s : State) (rel : Bool) (scope : Nat) : Prop := rel = true → s.relWait scope = none

/-- What an instruction that completes in sequence leaves: when it does so, the state with its effect, whether it is class
H, and the state that it starts from once a commit of its own has been made. -/
structure Claim where
  base : State
  need : Prop := True
  post : State
  hard : Bool := false
  /-- bytes of records that it may push -/
  room : Nat := 64

/-- What an event that is due does: when, and what holds of the state after it. -/
structure Due where
  need : Prop
  post : State → Prop

/-- Bytes that bound the records of one memory access by the active lanes, registers included (01 R18, 12 R270). -/
def State.recordRoom (s : State) : Nat := 128 + 128 * laneCount s.co.st.mask

/-- An object of n bytes that a designator names has its place (12 R283, R287). -/
structure State.Object (s : State) (dsg : DWord) (n : Nat) (acc : Acc) (p : Place) : Prop where
  form : dsgFault dsg n = none
  reaches : s.Reaches
    { sp := dsg.getLsbD 63, order := 0, n := n, align := 1, acc := acc, rmw := true, need := [], fabOk := false,
      lanes := [⟨127, if dsg.getLsbD 63 then dsg.toNat % 2 ^ 24 else dsg.toNat⟩] }
    [(⟨127, if dsg.getLsbD 63 then dsg.toNat % 2 ^ 24 else dsg.toNat⟩, p)]

/-- An outstanding result more of the focused strand (03 R65). -/
def State.withResult (s : State) (cls : ResClass) (count : DWord) (dests : List Dest) : State :=
  s.setSt fun st => { st with outst := st.outst ++ [{ cls := cls, count := count, dests := dests }] }

end Sys2Proof.Machine
end

