-- ==== Sys2Proof/Certificates/Slice0/Obligations.lean ====
section
/-! DEFINITION. The statements about the model, from the numbered rules of spec/. The tables of `Sys2Proof.Claims` say
what an instruction writes; `Completes` (Sys2Proof.Safety) says that nothing else changes. -/

namespace Sys2Proof.Claims

open Sys2Proof.Machine

/-! ### What lane instructions write -/

/-- A and B of a lane instruction, lane by lane. -/
def two (s : State) (o : LForm) (f : Word → Word → Word) : Option (Nat × (Nat → Word)) :=
  some (o.d.toNat, fun k => f (s.co.vlane o.a.toNat k) (wordAt (s.laneSrc o.b o.lit) k))

/-- A of a lane instruction, lane by lane. -/
def one (s : State) (o : LForm) (f : Word → Word) : Option (Nat × (Nat → Word)) :=
  some (o.d.toNat, fun k => f (s.co.vlane o.a.toNat k))

/-- A, B and C of an LQ instruction, lane by lane. -/
def three (s : State) (o : LqForm) (f : Word → Word → Word → Word) : Option (Nat × (Nat → Word)) :=
  some (o.d.toNat, fun k => f (s.quad o k).1 (s.quad o k).2.1 (s.quad o k).2.2.1)

/-- Destination and lane values of the integer instructions of two sources (05 R120). -/
def laneInt2 (s : State) : Instr → Option (Nat × (Nat → Word))
  | .iadd o => two s o (· + ·)
  | .isub o => two s o (· - ·)
  | .imul o => two s o (· * ·)
  | .imulh o => two s o fun a b => (a.signExtend 64 * b.signExtend 64).extractLsb' 32 32
  | .laneUmulh o => two s o fun a b => (a.setWidth 64 * b.setWidth 64).extractLsb' 32 32
  | .iand o => two s o (· &&& ·)
  | .ior o => two s o (· ||| ·)
  | .ixor o => two s o (· ^^^ ·)
  | .shl o => two s o fun a b => a <<< b.toNat
  | .shr o => two s o fun a b => a >>> b.toNat
  | .sar o => two s o fun a b => a.sshiftRight b.toNat
  | .rol o => two s o fun a b => a.rotateLeft b.toNat
  | .ror o => two s o fun a b => a.rotateRight b.toNat
  | .imin o => two s o fun a b => BitVec.ofInt 32 (min a.toInt b.toInt)
  | .imax o => two s o fun a b => BitVec.ofInt 32 (max a.toInt b.toInt)
  | .laneUmin o => two s o fun a b => BitVec.ofNat 32 (min a.toNat b.toNat)
  | .laneUmax o => two s o fun a b => BitVec.ofNat 32 (max a.toNat b.toNat)
  | .iadds o => two s o fun a b => BitVec.ofInt 32 (max (-2 ^ 31) (min (2 ^ 31 - 1) (a.toInt + b.toInt)))
  | .isubs o => two s o fun a b => BitVec.ofInt 32 (max (-2 ^ 31) (min (2 ^ 31 - 1) (a.toInt - b.toInt)))
  | _ => none

/-- Destination and lane values of the other integer, bit, move and compare instructions (05 R120-R126, R128, R139). -/
def laneInt1 (s : State) : Instr → Option (Nat × (Nat → Word))
  | .inot o => one s o (~~~ ·)
  | .ineg o => one s o (0 - ·)
  | .brev o => one s o (·.reverse)
  | .iabs o => one s o fun a => BitVec.ofNat 32 a.toInt.natAbs
  | .popc o => one s o fun a => BitVec.ofNat 32 ((List.range 32).filter a.getLsbD).length
  | .clz o => one s o fun a => BitVec.ofNat 32 ((List.range 32).takeWhile fun k => !a.getLsbD (31 - k)).length
  | .fabs o => one s o (· &&& 0x7FFFFFFF)
  | .fneg o => one s o (· ^^^ 0x80000000)
  | .fclass o => one s o fclassW
  | .imad o => three s o fun a b c => a * b + c
  | .sel o => three s o fun a b c => if c = 0 then b else a
  | .bpick o => three s o bpickW
  | .bfe o => three s o fun a _ _ => bfeW o.pos o.len (o.imm.getLsbD 4) a
  | .bfi o => three s o fun a b _ => bfiW o.pos o.len a b
  | .icmp o => three s o fun a b _ => if intCond o.cond a b then 1 else 0
  | .mov o => two s o fun _ b => b
  | .lread o => some (o.d.toNat, lreadValue s o.imm.toNat)
  | _ => none

/-! ### Lane instructions that raise flags, or read several lanes -/

/-- A destination, values and flags: what a result with flags in each lane gives. -/
def flagged (s : State) (d : BitVec 7) (g : Nat → Word × Flags) : Option (Nat × (Nat → Word) × Flags) :=
  some (d.toNat, fun k => (g k).1, flagsOver s.co.st.mask fun k => (g k).2)

/-- A and B, with RM and FTZ. -/
def fl2 (s : State) (o : LForm) (g : Nat → Bool → Nat → Nat → Nat × Flags) : Option (Nat × (Nat → Word) × Flags) :=
  flagged s o.d fun k => asWord (g (fmodeRm s.co.fmode) (fmodeFtz s.co.fmode) (s.co.vlane o.a.toNat k).toNat
    (wordAt (s.laneSrc o.b o.lit) k).toNat)

/-- A, B, C and D's old value, with the rounding mode (03 R69) and FTZ. -/
def fl4 (s : State) (o : LqForm) (g : Nat → Bool → Word → Word → Word → Word → Word × Flags) :
    Option (Nat × (Nat → Word) × Flags) :=
  flagged s o.d fun k => g (modeOf o s.co.fmode) (fmodeFtz s.co.fmode) (s.quad o k).1 (s.quad o k).2.1 (s.quad o k).2.2.1
    (s.quad o k).2.2.2

/-- The floating-point instructions that are not special functions (05 R125, R127, R128). -/
def laneFloat (s : State) : Instr → Option (Nat × (Nat → Word) × Flags)
  | .fadd o => fl2 s o fp32.add
  | .fsub o => fl2 s o fp32.sub
  | .fmul o => fl2 s o fp32.mul
  | .fmin o => fl2 s o fun _ z a b => fp32.minMax false z a b
  | .fmax o => fl2 s o fun _ z a b => fp32.minMax true z a b
  | .fscale o => flagged s o.d fun k =>
      fscaleW s.co.fmode (s.co.vlane o.a.toNat k) (wordAt (s.laneSrc o.b o.lit) k)
  | .ffma o => fl4 s o fun m z a b c _ => asWord (fp32.dot fp32 m z [(a.toNat, b.toNat)] [c.toNat])
  | .ffma3 o => fl4 s o fun m z a b c d => asWord (fp32.dot fp32 m z [(a.toNat, b.toNat)] [c.toNat, d.toNat])
  | .frint o => fl4 s o fun m z a _ _ _ => frintW m o.sat z a
  | .fcmp o => fl4 s o fun _ z a b _ _ =>
      let r := floatCond fp32 z o.cond a.toNat b.toNat
      (if r.1 then 1 else 0, r.2)
  | _ => none

/-- Integer and floating rules of a packed operation, for each pair of sub-elements (05 R130). -/
def packed (s : State) (o : LqForm) (fi : Int → Int → Int) (ff : Nat → Bool → Nat → Nat → Nat → Nat × Flags) :
    Option (Nat × (Nat → Word) × Flags) :=
  fl4 s o fun m z a b c _ =>
    if etFloat o.et then packedW o.et (ff m z) a b c
    else packedW o.et (fun x y _ => (fitBits (etSigned o.et) (etWidth o.et) o.sat (fi (etInt o.et x) (etInt o.et y)), 0)) a b c

/-- The packed instructions (05 R131-R133). -/
def lanePacked (s : State) : Instr → Option (Nat × (Nat → Word) × Flags)
  | .padd o => packed s o (· + ·) fun m z a b _ => (etFmt o.et).add m z a b
  | .psub o => packed s o (· - ·) fun m z a b _ => (etFmt o.et).sub m z a b
  | .pmul o => packed s o (· * ·) fun m z a b _ => (etFmt o.et).mul m z a b
  | .pfma o => packed s o (fun _ _ => 0) fun m z a b c => (etFmt o.et).dot (etFmt o.et) m z [(a, b)] [c]
  | .pmin o => packed s o min fun _ z a b _ => (etFmt o.et).minMax false z a b
  | .pmax o => packed s o max fun _ z a b _ => (etFmt o.et).minMax true z a b
  | .pabs o => packed s o (fun a _ => (a.natAbs : Int)) fun _ _ a _ _ => (a % 2 ^ 15, 0)
  | .pneg o => packed s o (fun a _ => -a) fun _ _ a _ _ => (a ^^^ 2 ^ 15, 0)
  | .pavg o => packed s o (fun a b => (a + b + 1) / 2) fun _ _ _ _ _ => (0, 0)
  | .pshl o => fl4 s o fun _ _ a b c _ => packedW o.et (fun x y _ =>
      (if o.sat then fitBits (etSigned o.et) (etWidth o.et) true (etInt o.et x * 2 ^ min y 32)
        else if y < etWidth o.et then x * 2 ^ y % 2 ^ etWidth o.et else 0, 0)) a b c
  | .pshr o => fl4 s o fun _ _ a b c _ =>
      packedW o.et (fun x y _ => (if y < etWidth o.et then x / 2 ^ y else 0, 0)) a b c
  | .psar o => fl4 s o fun _ _ a b c _ => packedW o.et (fun x y _ =>
      (fitBits true (etWidth o.et) false (signedOf (etWidth o.et) x / 2 ^ min y (etWidth o.et)), 0)) a b c
  | .pcmp o => fl4 s o fun _ z a b c _ => packedW o.et (fun x y _ =>
      let r := if etFloat o.et then floatCond (etFmt o.et) z o.imm.toNat x y
        else (ordCond o.imm.toNat (etInt o.et x) (etInt o.et y), 0)
      (if r.1 then 2 ^ etWidth o.et - 1 else 0, r.2)) a b c
  | .pdot o => fl4 s o fun m z a b c _ =>
      if etFloat o.et then asWord ((etFmt o.et).dot fp32 m z (subPairs o.et a b) [c.toNat])
      else (BitVec.ofNat 32 (fitBits true 32 o.sat
        ((subPairs o.et a b).foldl (fun n p => n + etInt o.et p.1 * etInt o.et p.2) c.toInt)), 0)
  | .psad o => fl4 s o fun _ _ a b c _ => (BitVec.ofNat 32 (fitBits false 32 o.sat
      ((subPairs o.et a b).foldl (fun n p => n + ((etInt o.et p.1 - etInt o.et p.2).natAbs : Int)) (c.toNat : Int))), 0)
  | _ => none

/-- Conversions and block formats (05 R134-R137, 02 R49, R449). -/
def laneConvert (s : State) : Instr → Option (Nat × (Nat → Word) × Flags)
  | .cvt o => fl4 s o fun m z a _ _ _ =>
      asWord (cvtBits o.cvtFrom o.cvtTo m o.sat z (a.toNat / 2 ^ (o.seli * cvtWidth o.cvtFrom) % 2 ^ cvtWidth o.cvtFrom))
  | .pack o => fl4 s o fun m z a b _ d =>
      let conv (x : Word) : Nat × Flags :=
        if etFloat o.et then cvtBits 2 (if o.et = 6 then 4 else 3) m false z x.toNat
        else (fitBits (etSigned o.et) (etWidth o.et) o.sat (if etSigned o.et then x.toInt else x.toNat), 0)
      (joinBits (etWidth o.et) ((List.range (etCount o.et)).map fun j =>
        if j = o.low3 then (conv a).1 else if j = o.low3 + 1 then (conv b).1 else subBits (etWidth o.et) d j),
        (conv a).2 ||| (conv b).2)
  | .unpk o => fl4 s o fun _ _ a _ _ _ =>
      let x := subBits (etWidth o.et) a o.low3
      if etFloat o.et then asWord (cvtBits (if o.et = 6 then 4 else 3) 2 0 false false x)
      else (BitVec.ofInt 32 (etInt o.et x), 0)
  | .qblk o =>
    let beats := qblkBeats s o
    some (o.d.toNat, fun k => match beats[k / 32]? with
      | some (scale, codes, _) => match codes.find? (·.1 == k) with
        | some p => BitVec.ofNat 32 (scale * 256 + p.2)
        | none => 0
      | none => 0, beats.foldl (fun fl b => fl ||| b.2.2) 0)
  | .dqblk o => fl4 s o fun m z a _ _ _ =>
      match decodeT (a.toNat % 2 ^ tBits o.imm.toNat) (tBits o.imm.toNat) with
      | none => (0x7FC00000, 0)
      | some d =>
        if a.toNat / 256 % 256 = 255 then (0x7FC00000, 0)
        else asWord (fp32.round m z { d with e := d.e + (a.toNat / 256 % 256 : Nat) - 127 })
  | _ => none

/-- A shuffle (05 R138): lane k takes A of lane `src w k b` when that lane lies in its segment and is active, else C. -/
def shuffled (s : State) (o : LqForm) (src : Nat → Nat → Nat → Option Nat) : Option (Nat × (Nat → Word) × Flags) :=
  let w := segWidth o.low3
  some (o.d.toNat, fun k => match src w k (s.quad o k).2.1.toNat with
    | some j => if j < segBase w k + w ∧ s.co.st.mask.getLsbD j then s.co.vlane o.a.toNat j else (s.quad o k).2.2.1
    | none => (s.quad o k).2.2.1, 0)

/-- Shuffles and the scan (05 R138, R140). -/
def laneCross (s : State) : Instr → Option (Nat × (Nat → Word) × Flags)
  | .shfl o => shuffled s o fun w k b => some (segBase w k + b % w)
  | .shflx o => shuffled s o fun w k b => some (segBase w k + ((k % w) ^^^ (b % 128)))
  | .shflu o => shuffled s o fun w k b => if b ≤ k % w then some (k - b) else none
  | .shfld o => shuffled s o fun w k b => if k + b < segBase w k + w then some (k + b) else none
  | .scan o =>
    let w := segWidth o.low3
    let op := (o.imm.extractLsb' 3 3).toNat
    let first := (List.range 96).map fun k => if s.co.st.mask.getLsbD k then s.co.vlane o.a.toNat k else scanIdentity op
    let y := scanSteps op s.co.fmode w ([1, 2, 4, 8, 16, 32, 64].filter (· < w)) (first, 0)
    some (o.d.toNat, fun k =>
      if o.imm.getLsbD 6 then (if k = segBase w k then scanIdentity op else wordAt y.1 (k - 1)) else wordAt y.1 k, y.2)
  | _ => none

/-- The special functions (05 R129): destination, values and flags, found at issue and written when the result lands. -/
def laneSpecials (s : State) : Instr → Option (BitVec 7 × (Nat → Word × Flags))
  | .fdiv o => some (o.d, fun k => asWord (fp32.div (fmodeRm s.co.fmode) (fmodeFtz s.co.fmode) (s.co.vlane o.a.toNat k).toNat
      (wordAt (s.laneSrc o.b o.lit) k).toNat))
  | .fsqrt o => some (o.d, fun k =>
      asWord (fp32.sqrt (fmodeRm s.co.fmode) (fmodeFtz s.co.fmode) (s.co.vlane o.a.toNat k).toNat))
  | .frcp o => some (o.d, fun k => frcpW (fmodeFtz s.co.fmode) (s.co.vlane o.a.toNat k))
  | .frsq o => some (o.d, fun k => frsqW (fmodeFtz s.co.fmode) (s.co.vlane o.a.toNat k))
  | .fexp2 o => some (o.d, fun k => fexp2W (fmodeFtz s.co.fmode) (s.co.vlane o.a.toNat k))
  | .flog2 o => some (o.d, fun k => flog2W (fmodeFtz s.co.fmode) (s.co.vlane o.a.toNat k))
  | .fsin o => some (o.d, fun k => fsinW (fmodeFtz s.co.fmode) (s.co.vlane o.a.toNat k))
  | .fcos o => some (o.d, fun k => fcosW (fmodeFtz s.co.fmode) (s.co.vlane o.a.toNat k))
  | .ftanh o => some (o.d, fun k => ftanhW (fmodeFtz s.co.fmode) (s.co.vlane o.a.toNat k))
  | .fsigm o => some (o.d, fun k => fsigmW (fmodeFtz s.co.fmode) (s.co.vlane o.a.toNat k))
  | _ => none

/-! ### What uniform instructions write -/

/-- The codes that a uniform instruction writes, with their values (04 R94-R98, R101, 09 R208-R210). -/
def uniform (s : State) : Instr → Option (List (Nat × Word))
  | .uadd o => some [(o.d.toNat, s.readU o.a.toNat + s.readU o.b.toNat)]
  | .usub o => some [(o.d.toNat, s.readU o.a.toNat - s.readU o.b.toNat)]
  | .umul o => some [(o.d.toNat, s.readU o.a.toNat * s.readU o.b.toNat)]
  | .umulh o => some [(o.d.toNat,
      ((s.readU o.a.toNat).setWidth 64 * (s.readU o.b.toNat).setWidth 64).extractLsb' 32 32)]
  | .uand o => some [(o.d.toNat, s.readU o.a.toNat &&& s.readU o.b.toNat)]
  | .uor o => some [(o.d.toNat, s.readU o.a.toNat ||| s.readU o.b.toNat)]
  | .uxor o => some [(o.d.toNat, s.readU o.a.toNat ^^^ s.readU o.b.toNat)]
  | .ushl o => some [(o.d.toNat, s.readU o.a.toNat <<< (s.readU o.b.toNat).toNat)]
  | .ushr o => some [(o.d.toNat, s.readU o.a.toNat >>> (s.readU o.b.toNat).toNat)]
  | .usar o => some [(o.d.toNat, (s.readU o.a.toNat).sshiftRight (s.readU o.b.toNat).toNat)]
  | .urol o => some [(o.d.toNat, (s.readU o.a.toNat).rotateLeft (s.readU o.b.toNat).toNat)]
  | .umin o => some [(o.d.toNat, BitVec.ofNat 32 (min (s.readU o.a.toNat).toNat (s.readU o.b.toNat).toNat))]
  | .umax o => some [(o.d.toNat, BitVec.ofNat 32 (max (s.readU o.a.toNat).toNat (s.readU o.b.toNat).toNat))]
  | .unot o => some [(o.d.toNat, ~~~ (s.readU o.a.toNat))]
  | .umov o => some [(o.d.toNat, s.readU o.a.toNat)]
  | .uaddi o => some [(o.d.toNat, s.readU o.d.toNat + o.imm.signExtend 32)]
  | .umovi o => some [(o.d.toNat, o.imm.signExtend 32)]
  | .umovh o => some [(o.d.toNat, o.imm ++ (s.readU o.d.toNat).extractLsb' 0 16)]
  | .uxori o => some [(o.d.toNat, s.readU o.d.toNat ^^^ o.imm.setWidth 32)]
  | .uadd64 o =>
    let x := s.readU2 o.a.toNat + s.readU2 o.b.toNat
    some [(o.d.toNat, x.low), (o.d.toNat + 1, x.high)]
  | .umov64 o => some [(o.d.toNat, (s.readU2 o.a.toNat).low), (o.d.toNat + 1, (s.readU2 o.a.toNat).high)]
  | .ucmp o =>
    let c := (o.ext.extractLsb' 28 4).toNat
    let r := if o.ext.getLsbD 27 then intCond c (s.readU2 o.a.toNat) (s.readU2 o.b.toNat)
      else intCond c (s.readU o.a.toNat) (s.readU o.b.toNat)
    some [(o.d.toNat, if r then 1 else 0)]
  | .usel o => some [(o.d.toNat, if s.readU o.c8 = 0 then s.readU o.b.toNat else s.readU o.a.toNat)]
  | .ubfe o => some [(o.d.toNat, bfeW o.pos o.len (o.ext.getLsbD 4) (s.readU o.a.toNat))]
  | .ubfi o => some [(o.d.toNat, bfiW o.pos o.len (s.readU o.a.toNat) (s.readU o.b.toNat))]
  | .upopc o => some [(o.d.toNat, BitVec.ofNat 32 ((List.range 32).filter (s.readU o.a.toNat).getLsbD).length)]
  | .uclz o => some [(o.d.toNat,
      BitVec.ofNat 32 ((List.range 32).takeWhile fun k => !(s.readU o.a.toNat).getLsbD (31 - k)).length)]
  | .nop _ => some []
  | .uswap o =>
    let d := o.d.toNat
    let a := o.a.toNat
    some (if d < a then [(d, s.readU a), (a, s.readU d)] else if a < d then [(a, s.readU d), (d, s.readU a)]
      else [(d, s.readU d)])
  | .mballot o =>
    let m := laneSetOf fun i => s.co.st.mask.getLsbD i && ((s.co.vlane (o.a.toNat % 128) i == 0) == o.b.getLsbD 0)
    some [(o.d.toNat, maskWord m 0), (o.d.toNat + 1, maskWord m 1), (o.d.toNat + 2, maskWord m 2)]
  | .vote o => some [(o.d.toNat, voteValue o.b.toNat (pickLanes s.co.st.mask (s.co.vreg (o.a.toNat % 128))))]
  | .rdlane o =>
    let l := (s.readU o.b.toNat).toNat
    some [(o.d.toNat, if l < 96 ∧ s.co.st.mask.getLsbD l then s.co.vlane (o.a.toNat % 128) l else 0)]
  | _ => none

/-! ### Memory instructions -/

/-- A memory instruction that brings values: its access, its scope, the class of its result, what it writes to the bytes
(nothing for a load), and the registers from the bytes of each lane. -/
structure MemForm where
  acc : AccSpec
  scope : Nat
  cls : ResClass
  write : Option (LaneAcc → List Byte → List Byte) := none
  dests : List (Nat × List Byte) → List Dest

/-- Registers of the active lanes from the words of each lane's bytes. -/
def laneDests (s : State) (d k : Nat) (value : List (Nat × List Byte) → Nat → List Word) (rs : List (Nat × List Byte)) :
    List Dest := regDests s.co.st.mask d k ((lanesOf s.co.st.mask).map fun i => (i, value rs i))

/-- Registers of the lanes that accessed, from their old bytes. -/
def oldDests (s : State) (d k : Nat) (rs : List (Nat × List Byte)) : List Dest :=
  regDests s.co.st.mask d k (rs.map fun r => (r.1, wordsOf 4 r.2))

/-- The loads (12 R273-R275, R282, R285). -/
def loads (s : State) : Instr → Option MemForm
  | .ld o => some { acc := lmSpec s o false (disp20 o) .read false .read, scope := o.scopeN, cls := .dm
                    dests := laneDests s o.d.toNat (sizeRegs o.sizeN) (ownValue fun _ bs => loadWords o.sizeN o.sx bs) }
  | .lds o => some { acc := lmSpec s o true (disp20 o) .read false .read, scope := o.scopeN, cls := .sp
                     dests := laneDests s o.d.toNat (sizeRegs o.sizeN) (ownValue fun _ bs => loadWords o.sizeN o.sx bs) }
  | .ldx o => some { acc := { lmSpec s o false (disp20 o) .read false .read with fabOk := false }, scope := o.scopeN
                     cls := .dm, dests := laneDests s o.d.toNat (sizeRegs o.sizeN) (xorValue s o) }
  | .ldsx o => some { acc := lmSpec s o true (disp20 o) .read false .read, scope := o.scopeN, cls := .sp
                      dests := laneDests s o.d.toNat (sizeRegs o.sizeN) (xorValue s o) }
  | .ldblk o => some { acc := blkSpec s o .read .read, scope := o.scopeN, cls := .dm
                       dests := laneDests s o.d.toNat 1 fun rs i => match rs.find? (·.1 / 32 == i / 32) with
                         | some r => [BitVec.ofNat 32 ((r.2.headD 0).toNat * 256 + blockCode (o.sizeN - 5) r.2 (i % 32))]
                         | none => [] }
  | .ldf o =>
    let ea := (s.uniSrc o.b + (disp20 o).low).toNat
    if 0x400000 ≤ ea ∧ ea < 0x600000 ∧ ea % 2 ^ o.sizeN = 0 then
      some { acc := { sp := true, order := 0, n := 2 ^ o.sizeN, align := 1, acc := .read, rmw := false, need := [.read]
                      fabOk := true, lanes := (lanesOf s.co.st.mask).map fun i => ⟨i, ldfAddress ea o.sx i⟩ }
             scope := 0, cls := .sp
             dests := laneDests s o.d.toNat (sizeRegs o.sizeN) (ownValue fun _ bs => wordsOf 4 bs) }
    else none
  | .uld o => some { acc := uniSpec s o.sp o.orderN (2 ^ o.sizeN) .read false .read o.a.toNat
                       ((o.ext.extractLsb' 0 20).signExtend 64)
                     scope := o.scopeN, cls := spClass o.sp
                     dests := fun rs => (uniDests o.d.toNat (headWords o.sizeN o.sx rs)).map fun p => .u p.1 p.2 }
  | _ => none

/-- The state after a load has read its places, given the answers of other devices. -/
def MemForm.loaded (s : State) (m : MemForm) (ans : List (Nat × List Byte)) (ps : List (LaneAcc × Place)) :
    List (Nat × List Byte) × State :=
  let r := (s.orderL1 m.acc.order m.scope).readPlaces ans ps
  (r.1, r.2.flipLines m.acc.order (spLines ps))

/-- The read-modify-writes (12 R277-R279, R286). -/
def rmws (s : State) : Instr → Option MemForm
  | .xchg o => some { acc := lmSpec s o false (disp20 o) .write true .write, scope := o.scopeN, cls := .dm
                      write := some fun x _ => laneBytes s.co o.d.toNat (2 ^ o.sizeN) x.lane
                      dests := oldDests s o.d.toNat (sizeRegs o.sizeN) }
  | .xchgs o => some { acc := lmSpec s o true (disp20 o) .write true .write, scope := o.scopeN, cls := .sp
                       write := some fun x _ => laneBytes s.co o.d.toNat (2 ^ o.sizeN) x.lane
                       dests := oldDests s o.d.toNat (sizeRegs o.sizeN) }
  | .atom o => some { acc := lmSpec s o false (disp16 o) .write true .write, scope := o.scopeN, cls := .dm
                      write := some fun x old => bytesOf (2 ^ o.sizeN) (aopValue o.aop (8 * 2 ^ o.sizeN) (natOf old)
                        (laneNum s.co o.d.toNat (sizeRegs o.sizeN) x.lane))
                      dests := oldDests s o.d.toNat (sizeRegs o.sizeN) }
  | .atoms o => some { acc := lmSpec s o true (disp16 o) .write true .write, scope := o.scopeN, cls := .sp
                       write := some fun x old => bytesOf (2 ^ o.sizeN) (aopValue o.aop (8 * 2 ^ o.sizeN) (natOf old)
                         (laneNum s.co o.d.toNat (sizeRegs o.sizeN) x.lane))
                       dests := oldDests s o.d.toNat (sizeRegs o.sizeN) }
  | .acas o => some { acc := lmSpec s o false (disp20 o) .write true .write, scope := o.scopeN, cls := .dm
                      write := some fun x old =>
                        if old = laneBytes s.co o.d.toNat (2 ^ o.sizeN) x.lane
                        then laneBytes s.co (o.d.toNat + sizeRegs o.sizeN) (2 ^ o.sizeN) x.lane else old
                      dests := oldDests s o.d.toNat (sizeRegs o.sizeN) }
  | .uatom o => some { acc := uniSpec s o.sp o.orderN (2 ^ o.sizeN) .write true .write o.a.toNat
                         ((o.ext.extractLsb' 0 16).signExtend 64)
                       scope := o.scopeN, cls := spClass o.sp
                       write := some fun _ old => bytesOf (2 ^ o.sizeN) (aopValue o.aop (8 * 2 ^ o.sizeN) (natOf old)
                         (uniNum s (o.sizeN == 3) o.b.toNat))
                       dests := uniOld o.d.toNat }
  | .uxchg o => some { acc := uniSpec s o.sp o.orderN (if o.w64 then 8 else 4) .write true .write o.a.toNat
                         ((o.ext.extractLsb' 0 16).signExtend 64)
                       scope := o.scopeN, cls := spClass o.sp
                       write := some fun _ _ => bytesOf (if o.w64 then 8 else 4) (uniNum s o.w64 o.d.toNat)
                       dests := uniOld o.d.toNat }
  | .uacas o => some { acc := uniSpec s o.sp o.orderN (if o.w64 then 8 else 4) .write true .write o.a.toNat
                         ((o.ext.extractLsb' 0 16).signExtend 64)
                       scope := o.scopeN, cls := spClass o.sp
                       write := some fun _ old =>
                         if old = bytesOf (if o.w64 then 8 else 4) (uniNum s o.w64 o.d.toNat)
                         then bytesOf (if o.w64 then 8 else 4) (uniNum s o.w64 o.b.toNat) else old
                       dests := uniOld o.d.toNat }
  | _ => none
where
  /-- Uniform registers from the strand's old bytes. -/
  uniOld (d : Nat) (rs : List (Nat × List Byte)) : List Dest :=
    (uniDests d (match rs with
      | r :: _ => wordsOf 4 r.2
      | [] => [])).map fun p => .u p.1 p.2

/-- The state after a read-modify-write of its places, with the old bytes of each lane. -/
def MemForm.changed (s : State) (m : MemForm) (f : LaneAcc → List Byte → List Byte) (ans : List (Nat × List Byte))
    (ps : List (LaneAcc × Place)) : List (Nat × List Byte) × State :=
  let r := (s.orderL1 m.acc.order m.scope).rmwPlaces f ans ps
  (r.1.map fun w => (w.1.lane, w.2.2), r.2)

/-- The stores (12 R273, R276, R284, R285): access, scope, the bytes of each lane, the designator of an `.arrive` form. -/
def stores (s : State) : Instr → Option (AccSpec × Nat × (LaneAcc → List Byte) × Option DWord)
  | .st o => some (lmSpec s o false (disp20 o) .write false .write, o.scopeN,
      fun x => laneBytes s.co o.d.toNat (2 ^ o.sizeN) x.lane,
      if o.orderN = 6 then some (s.readU2 (o.b.toNat - 128 + 2)) else none)
  | .sts o => some (lmSpec s o true (disp20 o) .write false .write, o.scopeN,
      fun x => laneBytes s.co o.d.toNat (2 ^ o.sizeN) x.lane, none)
  | .stblk o =>
    if partialOverlap (blockBytes (o.sizeN - 5)) (blkSpec s o .write .write).lanes = none then
      some (blkSpec s o .write .write, o.scopeN, beatRecord s o, none)
    else none
  | .ust o => some (uniSpec s o.sp o.orderN (2 ^ o.sizeN) .write false .write o.a.toNat
        ((o.ext.extractLsb' 0 20).signExtend 64), o.scopeN,
      fun _ => bytesOf (2 ^ o.sizeN) (uniNum s (o.sizeN == 3) o.d.toNat),
      if o.orderN = 6 then some (s.readU2 o.b.toNat) else none)
  | _ => none

/-- The state after a store has written its places: of two lanes at one place the higher writes (12 R271); fabric bytes
leave as messages (21 R428); an `.arrive` form leaves an arrival (12 R284). -/
def stored (s : State) (a : AccSpec) (scope : Nat) (bytes : LaneAcc → List Byte) (dsg : Option DWord)
    (ps : List (LaneAcc × Place)) : State :=
  let ps := lastAtPlace ps
  let t := (((s.orderL1 a.order scope).writePlaces bytes ps).2.flipLines a.order (spLines ps)).fabStore 0 (fabBytes bytes ps)
  match dsg with
  | some d => t.addArrival d
  | none => t

end Sys2Proof.Claims

open Sys2Proof Sys2Proof.Machine Sys2Proof.Claims

/-- 05 R120-R126, R128, R139: an integer, bit, move or compare lane instruction writes D in the active lanes, and
completes. -/
def Obligations.LaneIntegerResults : Prop :=
  ∀ (i : Instr) (s : State) (d : Nat) (f : Nat → Word), (laneInt2 s i = some (d, f) ∨ laneInt1 s i = some (d, f)) →
    s.Clear i → s.Room s 428 →
    ∃ t, exec i s = .next t ∧ Completes s t (s.withLanes d f) (s.after i) false

/-- 05 R125, R127, R128, R130-R138, R140 and 02 R40: a floating-point, packed or converting lane instruction, a shuffle or
the scan writes D in the active lanes and makes its flags sticky, and completes, unless a flag it raises is trapped (02
R41). -/
def Obligations.LaneFlaggedResults : Prop :=
  ∀ (i : Instr) (s : State) (d : Nat) (f : Nat → Word) (fl : Flags),
    (laneFloat s i = some (d, f, fl) ∨ lanePacked s i = some (d, f, fl) ∨ laneConvert s i = some (d, f, fl)
      ∨ laneCross s i = some (d, f, fl)) → s.Clear i → s.Room s 428 → trappedFlags s.co.fmode fl = 0 →
    ∃ t, exec i s = .next t ∧ Completes s t ((s.withLanes d f).withFlags fl) (s.after i) false

/-- 05 R129, 03 R65, 04 R93: a special function completes with its flags, and its values are an outstanding result of
class SF of the strand, unless 15 of them are outstanding. -/
def Obligations.LaneSpecialFunctions : Prop :=
  ∀ (i : Instr) (s : State) (d : BitVec 7) (g : Nat → Word × Flags), laneSpecials s i = some (d, g) → s.Clear i →
    s.Room s 428 → s.co.st.outOf .sf < 15 →
    trappedFlags s.co.fmode (flagsOver s.co.st.mask fun k => (g k).2) = 0 →
    ∃ t, exec i s = .next t ∧
      Completes s t ((s.withFlags (flagsOver s.co.st.mask fun k => (g k).2)).setSt fun st =>
        { st with outst := st.outst ++ [{ cls := .sf, count := s.co.st.icnt,
                                          dests := [.v d.toNat s.co.st.mask ((List.range 96).map fun k => (g k).1)] }] })
        (s.after i) false

/-- 04 R94-R98, R101, 09 R208-R210: a uniform instruction writes its destination codes, and completes, when R90 and R92
allow the values; `WRLANE` writes one active lane and nothing else, or nothing when the lane is not active. -/
def Obligations.UniformResults : Prop :=
  (∀ (i : Instr) (s : State) (ws : List (Nat × Word)), uniform s i = some ws → s.Clear i →
    s.Room (s.writeUs ws) 96 →
    (∀ w ∈ ws, s.writeCause w.1 w.2 = none) →
    ∃ t, exec i s = .next t ∧ Completes s t (s.writeUs ws) (s.after i) false)
  ∧ ∀ (o : UForm) (s : State), s.Clear (.wrlane o) → s.Room s 428 →
    ∃ t, exec (.wrlane o) s = .next t ∧ Completes s t
      (if (s.readU o.b.toNat).toNat < 96 ∧ s.co.st.mask.getLsbD (s.readU o.b.toNat).toNat
        then s.setCo fun c => { c with v := c.v.set (o.d.toNat % 128) ((List.range 96).map fun k =>
          if k = (s.readU o.b.toNat).toNat then s.readU o.a.toNat else c.vlane (o.d.toNat % 128) k) }
        else s) (s.after (.wrlane o)) false

/-! ### Checks at issue, traps and records -/

/-- 03 R75: the checks of R75 come before an instruction's own rules, the first failure first. -/
def Obligations.IssueChecksFirst : Prop :=
  ∀ (i : Instr) (s : State), i.isEvent = false →
    (∀ t, s.decodeChecks i = some (.inl t) → exec i s = .next (s.raise t))
    ∧ ∀ w, s.decodeChecks i = some (.inr w) → exec i s = .next (s.parkSt w)

/-- An operand that the cohort does not have, a field value that is never allowed, or a mode, cohort or launch that forbids the instruction. -/
def operandFault (s : State) (i : Instr) : Prop :=
  s.modeBad i = true ∨ i.badValue = true ∨ ∃ o ∈ i.operands, s.co.operandOk o = false

/-- 03 R75, R31: cause 0x01 for the instruction and its operands, else 0x02 for reserved bits and codes, with the
instruction's words; 03 R65 and R66: then the settle marker parks, a read of a register with an outstanding write
raises 0x05 with its number, and a write of one parks. -/
def Obligations.IssueCauses : Prop :=
  ∀ (i : Instr) (s : State),
    (operandFault s i → s.decodeChecks i = some (.inl (trapOf 0x01 0 (pairOf i.word1 i.word0))))
    ∧ (¬ operandFault s i → i.reservedOk = false →
        s.decodeChecks i = some (.inl (trapOf 0x02 0 (pairOf i.word1 i.word0))))
    ∧ (¬ operandFault s i → i.reservedOk = true → i.word0.getLsbD 30 = true → s.co.st.outst ≠ [] →
        s.decodeChecks i = some (.inr .settle))
    ∧ (¬ operandFault s i → i.reservedOk = true → i.word0.getLsbD 30 = false →
        ∀ u n, (i.operands.flatMap Operand.reads).find? (fun r => s.co.st.pending.contains r) = some (u, n) →
          s.decodeChecks i = some (.inl (trapOf 0x05 0 (BitVec.ofNat 64 (n + if u then 256 else 0)))))
    ∧ (¬ operandFault s i → i.reservedOk = true → i.word0.getLsbD 30 = false →
        (∀ r ∈ i.operands.flatMap Operand.reads, r ∉ s.co.st.pending) →
        (∃ r ∈ i.operands.flatMap Operand.writes, r ∈ s.co.st.pending) →
          s.decodeChecks i = some (.inr .settle))

/-! ### Memory instructions -/

/-- 12 R268-R275, R282, R285, 03 R65, 21 R429: a load whose places are all at hand, answers of other devices included,
completes; the bytes read are an outstanding result of its class, which the registers receive when it lands. -/
def Obligations.LoadResults : Prop :=
  ∀ (i : Instr) (s : State) (m : MemForm) (ans : List (Nat × List Byte)) (ps : List (LaneAcc × Place)),
    loads s i = some m → s.Clear i → s.Reaches m.acc ps → s.Answered ps ans →
    s.co.st.ticket m.cls.index < ticketMax m.cls.index →
    (∀ c w, Dest.u c w ∈ m.dests (m.loaded s ans ps).1 → s.writeCause c w = none) →
    ((m.loaded s ans ps).2.core s.co.core).mse.length ≤ 128 → s.Room (m.loaded s ans ps).2 s.recordRoom →
    s.dbg.recording = false →
    ∃ t, exec i s = .next t ∧ Completes s t
      ((m.loaded s ans ps).2.withResult m.cls s.co.st.icnt (m.dests (m.loaded s ans ps).1)) (s.after i) false

/-- 12 R277-R279, R286, R287, 11 R258, 21 R428, R429: a read-modify-write changes its places, lowest lane first, and the old
bytes are an outstanding result. It is class H when a lane's place lies on another device. -/
def Obligations.ReadModifyWriteResults : Prop :=
  ∀ (i : Instr) (s : State) (m : MemForm) (f : LaneAcc → List Byte → List Byte) (ans : List (Nat × List Byte))
    (ps : List (LaneAcc × Place)),
    rmws s i = some m → m.write = some f → s.Clear i → s.Reaches m.acc ps → fabLaneBusy s ps = false → s.Answered ps ans →
    s.MayRelease (isRel m.acc.order) m.scope → s.co.st.ticket m.cls.index < ticketMax m.cls.index →
    (∀ c w, Dest.u c w ∈ m.dests (m.changed s f ans ps).1 → s.writeCause c w = none) →
    ((m.changed s f ans ps).2.core s.co.core).mse.length ≤ 128 → s.Room (m.changed s f ans ps).2 s.recordRoom →
    s.dbg.recording = false →
    ∃ t, exec i s = .next t ∧ Completes s t
      ((m.changed s f ans ps).2.withResult m.cls s.co.st.icnt (m.dests (m.changed s f ans ps).1)) (s.after i) (anyFabric ps)

/-- 12 R268-R271, R273, R276, R284, R285, 21 R428: a store writes its bytes, and completes. It is class H when it makes an
arrival or writes over the fabric. -/
def Obligations.StoreResults : Prop :=
  ∀ (i : Instr) (s : State) (a : AccSpec) (scope : Nat) (bytes : LaneAcc → List Byte) (dsg : Option DWord)
    (ps : List (LaneAcc × Place)), stores s i = some (a, scope, bytes, dsg) → s.Clear i →
    (∀ d, dsg = some d → dsgFault d 16 = none) → s.Reaches a ps → s.MayRelease (isRel a.order) scope →
    (fabBytes bytes (lastAtPlace ps)).any (fun b => s.fabBusy b.1) = false →
    ((stored s a scope bytes dsg ps).core s.co.core).mse.length ≤ 128 → s.Room (stored s a scope bytes dsg ps) s.recordRoom →
    ∃ t, exec i s = .next t ∧ Completes s t (stored s a scope bytes dsg ps) (s.after i)
      (dsg.isSome || anyFabric (lastAtPlace ps))

/-- 12 R271, R273, 11 R253: what a store that has its places leaves of memory, byte by byte. A scratchpad byte outside the
bytes stored, of any core, is unchanged. So is a byte of device memory at its home outside the words stored, unless the store
is a release and the core's own dirty word is written back there. A byte that is not stored in a word that is keeps the value
that its owner held. The store meets no update-only copy and writes no records back. -/
def Obligations.StoreFrame : Prop :=
  ∀ (i : Instr) (s t : State) (a : AccSpec) (scope : Nat) (bytes : LaneAcc → List Byte) (dsg : Option DWord)
    (ps : List (LaneAcc × Place)), stores s i = some (a, scope, bytes, dsg) → s.Clear i →
    (∀ d, dsg = some d → dsgFault d 16 = none) → s.Reaches a ps → s.MayRelease (isRel a.order) scope →
    (fabBytes bytes (lastAtPlace ps)).any (fun b => s.fabBusy b.1) = false →
    ((stored s a scope bytes dsg ps).core s.co.core).mse.length ≤ 128 → s.Room (stored s a scope bytes dsg ps) s.recordRoom →
    s.co.wheyt + s.recordRoom ≤ s.co.wheyWb + 1024 → s.memoryOk → s.co.core < s.cores.length →
    (∀ k, ∀ u ∈ (s.core k).upd, ∀ q ∈ ps, ∀ pas, q.2 = .mem pas → ∀ b ∈ pas, b / 128 ≠ u.line) →
    exec i s = .next t →
    (∀ k off, (∀ q ∈ ps, ∀ offs, q.2 = .sp k offs → off ∉ offs) → (t.core k).spByte off = (s.core k).spByte off)
    ∧ (∀ pa, (∀ q ∈ ps, ∀ pas, q.2 = .mem pas → ∀ b ∈ pas, b / 4 ≠ pa / 4) →
        t.homeByte pa = s.homeByte pa
        ∨ isRel a.order = true ∧ ∃ w ∈ (s.core s.co.core).l1, w.wa = pa / 4 ∧ w.owned = true ∧ w.dirty = true
            ∧ t.homeByte pa = w.val.extractLsb' (8 * (pa % 4)) 8)
    ∧ ∀ pa, (∃ q ∈ ps, ∃ pas, q.2 = .mem pas ∧ ∃ b ∈ pas, b / 4 = pa / 4) → (∀ q ∈ ps, ∀ pas, q.2 = .mem pas → pa ∉ pas) →
        t.ownByte s.co.core pa = ((s.orderL1 a.order scope).recall (some s.co.core) (pa / 4)).ownByte s.co.core pa

/-! ### Words and instructions -/

/-- 03 R60, R64, R67-R74: decoding the words of a well-formed instruction gives it back, whatever follows them. -/
def Obligations.DecodeEncode : Prop :=
  ∀ (i : Instr) (ws : List Word), i.wellFormed = true → decode (encode i ++ ws) = .ok i

/-- 03 R60, R67-R75: what decodes is no event and has no reserved bit set, its words are those that stand there, and the
length that the first word tells is its length. -/
def Obligations.EncodeDecode : Prop :=
  ∀ (i : Instr) (ws : List Word), decode ws = .ok i →
    i.isEvent = false ∧ i.reservedOk = true ∧ encode i = ws.take i.length ∧ slotLength (wordAt ws 0) = i.length

/-- 03 R67-R75, the worked encodings: the words that the spec writes out for `UMOVI s10, 3`; `IADD v4, v4, v9`; `FMUL v5,
v5, v6` with the settle marker; `UADDI s10, -1`; `BRNZ s10` to 3 words back; `EXIT`; `NOP`; `IADD v7, v7, 1000`; and
`LD.acq.di v2, [s4 + v3<<2 + 16]` decode to these instructions. -/
def Obligations.DecodeWords : Prop :=
  decode [0x910A0003] = .ok (.umovi { s := false, d := 10, imm := 3 })
  ∧ decode [0x00420409] = .ok (.iadd { s := false, d := 4, a := 4, b := 9, lit := 0 })
  ∧ decode [0x4A828506] = .ok (.fmul { s := true, d := 5, a := 5, b := 6, lit := 0 })
  ∧ decode [0x900AFFFF] = .ok (.uaddi { s := false, d := 10, imm := 0xFFFF })
  ∧ decode [0x9A0AFFFD] = .ok (.brnz { s := false, reg := 10, off := 0xFFFD })
  ∧ decode [0xA1000000] = .ok (.exit { s := false, d := 0, a := 0, b := 0 })
  ∧ decode [0x97000000] = .ok (.nop { s := false, d := 0, a := 0, b := 0 })
  ∧ decode [0x004387FF, 0x000003E8] = .ok (.iadd { s := false, d := 7, a := 7, b := 255, lit := 1000 })
  ∧ decode [0x18010384, 0x66400010] = .ok (.ld { s := false, d := 2, a := 3, b := 132, scope := 3, order := 1, xs := 2,
                                                 size := 2, sx := false, disp := 16 })

/-- 03 R72: a lane opcode without an instruction. -/
def Claims.unassignedLane (op : Nat) : Prop :=
  op = 0 ∨ (0x23 ≤ op ∧ op ≤ 0x27) ∨ op = 0x3E ∨ op = 0x3F ∨ op = 0x4F ∨ (0x55 ≤ op ∧ op ≤ 0x57) ∨ op = 0x5E ∨ op = 0x5F
    ∨ (0x6A ≤ op ∧ op ≤ 0x6F) ∨ (0x76 ≤ op ∧ op ≤ 0x7F) ∨ 0x83 ≤ op

/-- 03 R72, R74: the unassigned lane opcodes, and the extended opcodes from 0x16 on, decode to no instruction whatever the
other bits hold; issuing one enters the trap of cause 0x01 with the first word, and for an extended opcode the extension
word, in `%tinfo`. -/
def Obligations.UnassignedOpcodes : Prop :=
  (∀ (w : Word) (rest : List Word), w.getLsbD 31 = false → Claims.unassignedLane (w.extractLsb' 22 8).toNat →
    decode (w :: rest) = .error (.unassigned w 0))
  ∧ (∀ (w e : Word) (rest : List Word), w.getLsbD 31 = true → (w.extractLsb' 24 6).toNat = 0x3F →
      0x16 ≤ (e.extractLsb' 24 8).toNat → decode (w :: e :: rest) = .error (.unassigned w e))
  ∧ ∀ (w e : Word) (s : State), s.CanTrap → s.co.debug = false → s.co.tm = false →
      ∃ u, exec (.illegalInstruction w e) s = .next u ∧ Entered s u (trapOf 0x01 0 (pairOf e w))

/-! ### Steps -/

/-- 01 R21, 03 R62, R63, 08 R189: when the agenda gives a slot its turn, the strand that arbitration takes issues the
instruction that the pinned version of its line decodes to: the step is `exec` of it, then the end of a buffer instruction
or of a single step, the closing actions of ended cohorts, and the clocks. Its cohort walks back no records, is not asked to
halt or to leave its core, runs no program buffer and has no report. -/
def Obligations.StepRunsDecoded : Prop :=
  ∀ (s q t : State) (core half : Nat) (vector : Bool) (rest : List Move) (k : Cand) (ws : List Word) (i : Instr),
    s.power.tripped = false → s.agenda = .issue core half vector :: rest →
    firstCand (State.candidates exec { s with agenda := rest } core half vector) = some k →
    q = ((({ s with agenda := rest } : State).passOver k
      (State.candidates exec { s with agenda := rest } core half vector)).focus k.uid k.strand) →
    (q.co.dir = false ∨ q.co.tm = true) → q.co.debug = false → q.co.haltReq = none → q.co.st.late = none →
    q.co.st.reports = [] → q.co.preempt = none →
    q.pinned q.co.launch (lineOf q.pcAddr) = some ws →
    (q.entering = true → lineCheck ws q.pcAddr false true = .ok) →
    decode (slotWords ws (slotOf q.pcAddr)) = .ok i → exec i q = .next t →
    step s = .next t.afterBuffer.afterStep.settle

/-- 22 R446: the machine goes on from every state until the thermal trip cuts the power, and no instruction and no event
stops it. -/
def Obligations.EveryStepSafe : Prop :=
  (∀ (i : Instr) (s : State), ∃ t, exec i s = .next t)
  ∧ (∀ s : State, s.power.tripped = false → SafeStep s)
  ∧ ∀ s : State, s.power.tripped = true → step s = .fault .poweredOff

/-- 10 R226, R228: every step keeps device memory and every scratchpad in canonical form. -/
def Obligations.MemoryInvariant : Prop :=
  ∀ s t : State, s.memoryOk → step s = .next t → t.memoryOk

/-- Memory is in canonical form after reset. -/
def Obligations.ResetMemoryOk : Prop := State.reset.memoryOk

/-- 10 R239, 11 R255, 20 R406, 21 R423, R427, 22 R438, R440, R447: what the spec says of the state after reset: each slice's
QUOTA 8, WINDOW 1,024 and LEASE 4,096; each link up, with ACTIVE 0xFF, BAD 0, WPOL 0 and THRESH 64 in each direction; the
trace select registers, the fabric windows, STAGE, ERR, APBASE, the mailbox words and the telemetry word 0; nothing
resident. -/
def Obligations.ResetValues : Prop :=
  (∀ k < 96, (State.reset.slice k).quota = 8 ∧ (State.reset.slice k).window = 1024 ∧ (State.reset.slice k).lease = 4096)
  ∧ State.reset.fabric.links.length = 128
  ∧ (∀ l ∈ State.reset.fabric.links, l.rx.active = 0xFF ∧ l.rx.bad = 0 ∧ l.rx.wpol = 0 ∧ l.rx.thresh = 64
      ∧ l.tx.active = 0xFF ∧ l.tx.bad = 0 ∧ l.tx.wpol = 0 ∧ l.tx.thresh = 64)
  ∧ (∀ l ∈ State.reset.fabric.links, l.down = false)
  ∧ (∀ k < 192, (State.reset.core k).trace.sel0 = 0 ∧ (State.reset.core k).trace.sel1 = 0)
  ∧ State.reset.fabric.windows = List.replicate 256 ⟨0, 0⟩
  ∧ (State.reset.host.stage = 0 ∧ State.reset.host.err = 0 ∧ State.reset.host.apbase = 0)
  ∧ (State.reset.host.mail.len = 0 ∧ State.reset.host.mail.status = 0 ∧ State.reset.host.mail.rlen = 0
    ∧ State.reset.host.mail.disc = 0)
  ∧ State.reset.power.telemetry = 0
  ∧ State.reset.cohorts = [] ∧ State.reset.blocks = [] ∧ State.reset.launches = []

/-! ### Traps and records -/

/-- 01 R29: a cause raised outside trap and debug mode enters the cohort's trap: the trap registers and the history save
area's base are written, `%dir.TM` is set, and the strand goes to the handler. Raised in trap mode, or in a cohort without a
handler, it halts the cohort and reports to the firmware, and changes nothing else. `%cause` holds the code in bits 7:0, the
sub-code in 11:8, LATE, WALK and PRESS in bits 12, 13 and 14, and nothing else. -/
def Obligations.TrapEntry : Prop :=
  (∀ (s : State) (t : Trap), s.CanTrap → s.co.debug = false → s.co.tm = false → Entered s (s.raise t) t)
  ∧ (∀ (s : State) (t : Trap), s.co.debug = false → s.co.tm = true ∨ s.co.handler = 0 →
    s.raise t = { s with co := { s.co with halt := some .trap }
                         fw := s.fw ++ [.halted s.co.uid t.code t.sub s.co.st.id t.info] })
  ∧ ∀ t : Trap, t.code < 256 → t.sub < 16 →
    (t.word.extractLsb' 0 8).toNat = t.code ∧ (t.word.extractLsb' 8 4).toNat = t.sub ∧ t.word.getLsbD 12 = t.late
    ∧ t.word.getLsbD 13 = t.walk ∧ t.word.getLsbD 14 = t.press ∧ t.word.extractLsb' 15 17 = 0

/-- 01 R12, R14, R18, R86, R121: what an instruction pushes when its successor is no marked target. A class-D lane
instruction (`IAND`) with an active lane pushes the old values of its lanes; an `IADD` of v d and another register into v d
is class I and pushes nothing; `UMOV` into an s register pushes the old value; in trap and debug mode nothing is pushed. -/
def Obligations.RecordsPushed : Prop :=
  (∀ (o : LForm) (s : State), s.Clear (.iand o) → s.Room s 428 → s.co.special = false →
    s.markedTarget (s.after (.iand o)) = false → s.co.st.mask ≠ 0 →
    ∃ t, exec (.iand o) s = .next t
      ∧ t.co.whey = ⟨s.co.st.id, s.co.st.icnt.low, .lane o.d.toNat s.co.st.mask
          ((lanesOf s.co.st.mask).map (s.co.vlane o.d.toNat))⟩ :: s.co.whey)
  ∧ (∀ (o : LForm) (s : State), s.Clear (.iadd o) → s.Room s 428 → o.a = o.d → o.b.toNat ≠ o.d.toNat →
      s.markedTarget (s.after (.iadd o)) = false →
      ∃ t, exec (.iadd o) s = .next t ∧ t.co.whey = s.co.whey)
  ∧ (∀ (o : UForm) (s : State), s.Clear (.umov o) → s.Room s 428 → s.co.special = false → 3 ≤ o.d.toNat → o.d.toNat < 192 →
      o.d ≠ o.a → s.markedTarget (s.after (.umov o)) = false →
      ∃ t, exec (.umov o) s = .next t
        ∧ t.co.whey = ⟨s.co.st.id, s.co.st.icnt.low, .uni o.d.toNat (wordAt s.co.s o.d.toNat)⟩ :: s.co.whey)
  ∧ ∀ (o : LForm) (s : State), s.Clear (.iand o) → s.Room s 428 → s.co.special = true →
      ∃ t, exec (.iand o) s = .next t ∧ t.co.whey = s.co.whey

/-- 01 R19: arriving at a marked target writes the address arrived from into `%cfr` and pushes a come-from record, or counts
the run of the one on top up, when that names the same strand and predecessor. -/
def Obligations.ComeFrom : Prop :=
  ∀ (o : UbForm) (s : State), s.decodeChecks (.br o) = none → s.co.special = false → s.Room s 428 →
    s.checkArrival (s.pcAddr + 4 * o.off.signExtend 64) false false = .ok →
    ∃ t, exec (.br o) s = .next t ∧ t.co.st.cfr = s.pcAddr.low
      ∧ t.co.whey = match s.co.whey with
        | ⟨id, n, .come run p⟩ :: rest =>
          if id = s.co.st.id ∧ p = s.pcAddr ∧ run < 0xFFFF then ⟨id, n, .come (run + 1) p⟩ :: rest
          else ⟨s.co.st.id, s.co.st.icnt.low, .come 1 s.pcAddr⟩ :: s.co.whey
        | w => ⟨s.co.st.id, s.co.st.icnt.low, .come 1 s.pcAddr⟩ :: w

/-- 01 R17: when an instruction's records do not fit below LIM it does not complete: it raises cause 0x0D with the bytes it
needed, here for `IAND` with active lanes and a successor that is no marked target. -/
def Obligations.RegionFull : Prop :=
  ∀ (o : LForm) (s : State), s.Clear (.iand o) → s.co.special = false → s.co.st.mask ≠ 0 →
    s.markedTarget (s.after (.iand o)) = false → s.co.lim < s.co.wheyt + 4 * (5 + laneCount s.co.st.mask) →
    exec (.iand o) s = .next (s.raise (trapOf 0x0D 0 (BitVec.ofNat 64 (4 * (5 + laneCount s.co.st.mask)))))

/-- 02 R41: a floating-point instruction that raises a flag whose trap is enabled does not complete: it raises cause 0x1E with
those flags, once its records have room. -/
def Obligations.TrappedFlag : Prop :=
  ∀ (i : Instr) (s : State) (d : Nat) (f : Nat → Word) (fl : Flags),
    (laneFloat s i = some (d, f, fl) ∨ lanePacked s i = some (d, f, fl) ∨ laneConvert s i = some (d, f, fl)
      ∨ laneCross s i = some (d, f, fl)) → s.Clear i → s.Room s 428 →
    trappedFlags s.co.fmode fl ≠ 0 →
    exec i s = .next (s.raise (trapOf 0x1E 0 ((trappedFlags s.co.fmode fl).setWidth 64)))

/-- 04 R90, R91, R93, 01 R10, 07 R162: what the read-only control registers read. -/
def Obligations.ControlReads : Prop :=
  ∀ s : State,
    (s.readU 192 = s.co.st.icnt.low ∧ s.readU 193 = s.co.st.icnt.high ∧ s.readU 194 = s.co.st.floor.low
      ∧ s.readU 195 = s.co.st.floor.high)
    ∧ ((s.readU 196).getLsbD 0 = s.co.dir ∧ (s.readU 196).getLsbD 1 = s.co.tm ∧ (s.readU 196).extractLsb' 2 30 = 0)
    ∧ (s.readU 197 = s.co.st.cfr ∧ pairOf (s.readU 199) (s.readU 198) = s.co.wheyBase)
    ∧ (s.co.wheyt < 2 ^ 32 → (s.readU 200).toNat = recBytes s.co.whey)
    ∧ (s.co.szl ≤ 26 → 64 * (s.co.stack.length - 32) ≤ 2 ^ s.co.szl →
        ((s.readU 201).extractLsb' 27 5).toNat = s.co.szl
        ∧ ((s.readU 201).extractLsb' 0 27).toNat = 2 ^ s.co.szl - 64 * (s.co.stack.length - 32))
    ∧ (s.co.st.id < 4 → s.co.sibs.length < 4 →
        ((s.readU 207).extractLsb' 0 4).toNat = s.co.st.id ∧ ((s.readU 207).extractLsb' 4 28).toNat = 1 + s.co.sibs.length)
    ∧ pairOf (s.readU 220) (s.readU 219) = BitVec.ofNat 64 s.time
    ∧ (s.readU 221 = s.co.cause ∧ pairOf (s.readU 223) (s.readU 222) = s.co.tinfo ∧ s.readU 224 = s.co.tpc)
    ∧ ∀ c < 3, s.readU c = maskWord s.co.st.mask c

namespace Sys2Proof.Claims

/-- 04 R102-R105, 09 R204: a transfer that is taken: the address it goes to, whether it is a call, and the state with its own
effect: the link of a call, the trace packet. -/
def jumps (s : State) : Instr → Option (DWord × Bool × State)
  | .br o => some (s.pcAddr + 4 * o.off.signExtend 64, false, s)
  | .brz o =>
    if s.readU o.reg.toNat = 0 then some (s.pcAddr + 4 * o.off.signExtend 64, false, s.trace 2 65537 []) else none
  | .brnz o =>
    if s.readU o.reg.toNat = 0 then none else some (s.pcAddr + 4 * o.off.signExtend 64, false, s.trace 2 65537 [])
  | .call o => some (s.pcAddr + 4 * o.off.signExtend 64, true, s.setCo fun c => { c with link := seqNext s.pcAddr 1 })
  | .ret _ => some (s.co.link, false, s.trace 3 0 [s.co.link.low, s.co.link.high])
  | .jmpr o => some (s.readU2 o.a.toNat, false, s.trace 3 0 [(s.readU2 o.a.toNat).low, (s.readU2 o.a.toNat).high])
  | .brl o => allTake o false
  | .brlz o => allTake o true
  | _ => none
where
  /-- A branch on lanes that every active lane takes. -/
  allTake (o : UcForm) (zero : Bool) : Option (DWord × Bool × State) :=
    if s.co.st.mask ≠ 0 ∧ ∀ k ∈ lanesOf s.co.st.mask, (s.co.vlane (o.reg.toNat % 128) k == 0) = zero then
      some (s.pcAddr + 4 * o.off.signExtend 64, false, s.trace 2 65537 [])
    else none

/-- 04 R102, R106-R109, R111, R112, R115, 09 R204, R206, R207, 19 R388, 20 R403, 12 R294: control instructions that go on in
sequence. -/
def steps (s : State) : Instr → Option Claim
  | .brz o => if s.readU o.reg.toNat = 0 then none else some { base := s, post := s.trace 2 65536 [] }
  | .brnz o => if s.readU o.reg.toNat = 0 then some { base := s, post := s.trace 2 65536 [] } else none
  | .brl o => noneTake o false
  | .brlz o => noneTake o true
  | .commit _ => some { base := s, post := s, hard := true }
  | .rewind o =>
    let target := s.readU2 o.a.toNat
    if s.co.tm then
      some { base := s, need := s.co.st.floor ≤ target ∧ target ≤ s.co.st.icnt
             post := s.setCo fun c => { c with dir := true, walk := some ⟨target, c.st.id, .plain⟩ } }
    else some { base := s, need := target = s.co.st.icnt ∧ s.co.st.floor ≤ target ∧ s.landed = true, post := s }
  | .hpush o => some { base := s, need := s.co.hbase + 4 * s.co.hsave.length + 4 ≤ s.co.lim
                       post := s.setCo fun c => { c with hsave := s.readU o.a.toNat :: c.hsave } }
  | .hpop o => match s.co.hsave with
    | [] => none
    | w :: rest =>
      let t := s.setCo fun c => { c with hsave := rest }
      some { base := s, need := t.writeCause o.d.toNat w = none, post := t.writeU o.d.toNat w }
  | .waitc o => some { base := s, need := ∀ k < 6, o.a.getLsbD k → s.co.st.ticket k ≤ o.b.toNat, post := s }
  | .regang _ => if (s.co.innermost s.co.st.id).isSome then none
      else some { base := s, post := s.setCo fun c => { c with removed := c.exm }, hard := s.co.pendingLanes != 0 }
  | .exit _ => if s.co.st.mask = 0 then some { base := s, post := s }
      else if exitEmpties s then none
      else some { base := s, room := 128
                  post := s.setCo fun c => { c with
                    exm := c.exm ||| c.st.mask, st := { c.st with held := c.st.held &&& ~~~c.st.mask, mask := 0 } } }
  | .fence o => some { base := s, need := s.MayRelease (isRel (o.b.extractLsb' 3 3).toNat) (o.b.extractLsb' 0 3).toNat
                       post := s.orderL1 (o.b.extractLsb' 3 3).toNat (o.b.extractLsb' 0 3).toNat }
  | .snap o => some { base := s, post := s.trigger 1 (o.ext.setWidth 16 |>.setWidth 32) }
  | .tmark o => some { base := s, post := s.trace 8 (o.ext.setWidth 16).toNat [s.readU o.a.toNat] }
  | .dbrk _ => some { base := s, need := s.host.debugOpen = false ∨ s.dbg.breaks.contains s.co.launch = false, post := s }
  | .yield o => if s.leaving then none
      else some { base := s, post := s
                  need := (s.readU o.a.toNat).toNat % 8 = 0 ∧ (s.readU o.a.toNat).toNat ≤ s.co.nregs
                    ∧ (s.readU o.b.toNat).toNat % 128 = 0 ∧ (s.readU o.b.toNat).toNat ≤ (s.blockRange s.co.block).2 }
  | _ => none
where
  /-- A branch on lanes that no active lane takes. -/
  noneTake (o : UcForm) (zero : Bool) : Option Claim :=
    if ∀ k ∈ lanesOf s.co.st.mask, (s.co.vlane (o.reg.toNat % 128) k == 0) = !zero then
      some { base := s, post := s.trace 2 65536 [] }
    else none

end Sys2Proof.Claims

/-! ### Control -/

/-- 04 R102-R105, 09 R204: a transfer that is taken goes to its target, when that passes the checks of an arrival. -/
def Obligations.JumpResults : Prop :=
  ∀ (i : Instr) (s : State) (va : DWord) (call : Bool) (post : State), jumps s i = some (va, call, post) →
    s.decodeChecks i = none → s.checkArrival va false call = .ok → s.Room post 64 →
    ∃ t, exec i s = .next t ∧ Completes s t post va false

/-- Control instructions that go on in sequence: each rule is named at `Claims.steps`. -/
def Obligations.ControlResults : Prop :=
  ∀ (i : Instr) (s : State) (c : Claim), steps s i = some c → c.need → s.Clear i → s.Room c.post c.room →
    ∃ t, exec i s = .next t ∧ Completes c.base t c.post (s.after i) c.hard

/-- 01 R22, 04 R107: `COMMIT` empties the whey; every live strand's floor is its count, the committing instruction counted. -/
def Obligations.CommitEmpties : Prop :=
  ∀ (o : UForm) (s : State), s.Clear (.commit o) → s.Room s 64 → s.co.special = false →
    ∃ t, exec (.commit o) s = .next t ∧ t.co.whey = [] ∧ t.co.wheyt = 0 ∧ t.co.st.icnt = s.co.st.icnt + 1
      ∧ ∀ x ∈ t.co.strands, x.floor = x.icnt

/-- 07 R160, R161, R163, 01 R18, 09 R204: a `BRL` or `BRLZ` that some active lanes take and others do not, while fewer than
four strands are live: the strand keeps the taken lanes and goes to the target, a child of the lowest free id gets the others
and goes to the successor, an entry stands on the reconvergence stack, and a Divergence record on the whey. -/
def Obligations.BranchSplits : Prop :=
  ∀ (i : Instr) (o : UcForm) (zero : Bool) (s : State) (x : Nat), (i = .brl o ∧ zero = false ∨ i = .brlz o ∧ zero = true) →
    let tk := laneSetOf fun k => s.co.st.mask.getLsbD k && ((s.co.vlane (o.reg.toNat % 128) k == 0) == zero)
    let nt := s.co.st.mask &&& ~~~tk
    let va := s.pcAddr + 4 * o.off.signExtend 64
    let succ := seqNext s.pcAddr 1
    let post := (s.setCo fun c => { c with
      whey := ⟨c.st.id, c.st.icnt.low, .div c.st.id x false false tk nt s.pcAddr⟩ :: c.whey
      stack := { parent := c.st.id, cha := c.st.id, chb := x, ser := false, join := none, second := false, arra := false
                 arrb := false, pmask := c.st.mask, dmask := 0, dstart := 0 } :: c.stack
      sibs := { c.st with id := x, pc := succ.setWidth 56, icnt := c.st.icnt + 1, mask := nt, held := nt, outst := [], park := none
                          passed := 0, fabErr := none, reports := [], copies := [], late := none } :: c.sibs
      st := { c.st with pc := va.setWidth 56, icnt := c.st.icnt + 1, mask := tk, park := none
                        held := tk ||| (c.st.held &&& ~~~c.st.mask) } }).trace 4 x []
    s.decodeChecks i = none → s.co.special = false → tk ≠ 0 → nt ≠ 0 → s.co.freeId = some x → s.co.stack.length < 32 →
    s.checkArrival va false false = .ok → s.checkArrival succ true false = .ok → s.Room post 40 →
    ∃ t, exec i s = .next t ∧ Leaves s t post false

/-- 07 R164, R165, 09 R206: a `REGANG` at which both children of the strand's innermost entry have arrived merges them: the
result has the parent's id, the larger count, one more for the `REGANG`, the union of the held sets, and the parent's mask
less the lanes that exited; the entry and the children are gone, and pending lanes are removed. -/
def Obligations.RegangMerges : Prop :=
  ∀ (o : UForm) (s : State) (e : Entry) (p q : Strand), s.decodeChecks (.regang o) = none →
    s.co.innermost s.co.st.id = some e → e.ser = false → e.join = none ∨ e.join = some s.pcAddr →
    (e.mark s.co.st.id true).arra = true → (e.mark s.co.st.id true).arrb = true → s.co.children e = [p, q] →
    s.checkArrival (seqNext s.pcAddr 1) true false = .ok → s.Room s 128 →
    let top := if p.icnt < q.icnt then q.icnt else p.icnt
    ∃ t, exec (.regang o) s = .next t ∧ t.co.st.id = e.parent ∧ t.co.st.icnt = top + 1
      ∧ t.co.st.held = p.held ||| q.held ∧ t.co.st.mask = e.pmask &&& ~~~s.co.exm
      ∧ t.co.st.pc = (seqNext s.pcAddr 1).setWidth 56 ∧ t.co.st.park = none ∧ t.co.removed = s.co.exm
      ∧ t.co.stack = dropFirst (·.names s.co.st.id) s.co.stack
      ∧ t.co.sibs.map (·.id) = (s.co.sibs.map (·.id)).filter (fun k => !e.names k)
      ∧ (s.co.pendingLanes ≠ 0 → t.co.whey = [])
      ∧ (s.co.pendingLanes = 0 → t.co.whey = ⟨e.parent, top.low, .rejoin e.parent
          [⟨p.id, p.mask, p.held, p.icnt.low⟩, ⟨q.id, q.mask, q.held, q.icnt.low⟩] s.pcAddr⟩ :: s.co.whey)
      ∧ t.co.v = s.co.v ∧ t.co.s = s.co.s ∧ t.co.exm = s.co.exm ∧ t.others = s.others

/-- 07 R158, R166, 09 R207: an `EXIT` that empties the running set of the cohort's only strand, which no entry names, ends
the cohort: its lanes have exited. -/
def Obligations.ExitEnds : Prop :=
  ∀ (o : UForm) (s : State), s.decodeChecks (.exit o) = none → s.co.st.mask ≠ 0 → s.co.st.held &&& ~~~s.co.st.mask = 0 →
    s.co.innermost s.co.st.id = none → s.co.sibs = [] → s.Room s 128 →
    ∃ t, exec (.exit o) s = .next t ∧ t.co.ending = true ∧ t.co.st.mask = 0 ∧ t.co.st.held = 0
      ∧ t.co.exm = s.co.exm ||| s.co.st.mask ∧ t.co.st.icnt = s.co.st.icnt + 1

/-- 04 R113, R110, 01 R24: `TRAP`, and a `REWINDT` to the strand's own count, complete and then enter the trap: cause 0x06
with the immediate, or with 0xFFFFFFFF. -/
def Obligations.TrapInstructions : Prop :=
  (∀ (o : UiForm) (s : State), s.Clear (.trap o) → s.CanTrap → s.co.special = false →
    s.markedTarget (s.after (.trap o)) = false → s.co.wheyt ≤ s.co.wheyWb + 1024 → s.co.wheyt ≤ s.co.lim →
    ∃ t u, Completes s t s (s.after (.trap o)) false ∧ exec (.trap o) s = .next u
      ∧ Entered t u (trapOf 0x06 0 (o.imm.setWidth 64)))
  ∧ ∀ (o : UxForm) (s : State), s.Clear (.rewindt o) → s.CanTrap → s.co.special = false →
    s.readU2 o.a.toNat = s.co.st.icnt → s.co.st.floor ≤ s.co.st.icnt → s.landed = true →
    s.markedTarget (s.after (.rewindt o)) = false → s.co.wheyt ≤ s.co.wheyWb + 1024 → s.co.wheyt ≤ s.co.lim →
    ∃ t u, Completes s t s (s.after (.rewindt o)) false ∧ exec (.rewindt o) s = .next u
      ∧ Entered t u (trapOf 0x06 0 0xFFFFFFFF)

/-- 01 R23, R24, 04 R108-R110: `REWIND` and `REWINDT` outside trap mode to a count from the floor to below the strand's own
turn the cohort round: `%dir.DIR` is set and the walk's target stands; nothing is executed and nothing counts. A target below
the floor raises cause 0x0E SUB 0, one above the count SUB 1. -/
def Obligations.WalkTargets : Prop :=
  ∀ (i : Instr) (kind : WalkKind) (target : DWord) (s : State),
    ((∃ o, i = .rewind o ∧ target = s.readU2 o.a.toNat ∧ kind = .plain)
      ∨ ∃ o, i = .rewindt o ∧ target = s.readU2 o.a.toNat ∧ kind = .trap) →
    s.decodeChecks i = none → s.co.tm = false →
    (s.co.debug = false → s.co.traced = false → s.co.st.floor ≤ target → target < s.co.st.icnt → s.landed = true →
      exec i s = .next (s.setCo fun c =>
        { c with dir := true, walk := some ⟨target, c.st.id, kind⟩, st := { c.st with park := none } }))
    ∧ (target < s.co.st.floor → target ≠ s.co.st.icnt → exec i s = .next (s.raise (trapOf 0x0E 0 target)))
    ∧ (s.co.st.floor ≤ target → s.co.st.icnt < target → exec i s = .next (s.raise (trapOf 0x0E 1 target)))

/-- 01 R30, 04 R114: `TRET` leaves trap mode at the address of `%tpc` in the code window, keeping count, mask and direction;
when `%tpc` was written the whey is committed and the address must be a marked target. -/
def Obligations.TrapReturns : Prop :=
  ∀ (o : UxForm) (s : State), s.decodeChecks (.tret o) = none → s.co.traced = false →
    let va := pairOf ((s.co.st.pc.extractLsb' 32 24).setWidth 32) s.co.tpc
    s.checkArrival va (!s.co.tpcWritten) false = .ok →
    exec (.tret o) s = .next (s.setCo fun c =>
      let c := if c.tpcWritten then c.commit else c
      { c with tm := false, hbase := 0, hsave := [], walk := c.walk.map fun w => { w with kind := .plain }
               st := { c.st with pc := va.setWidth 56, park := none } })

/-- 20 R403, R398: a `DBRK` whose launch has breakpoints enabled in an open session completes, and then halts its cohort
with source 1 and the immediate as TAG. -/
def Obligations.BreakHalts : Prop :=
  ∀ (o : UxForm) (s : State), s.Clear (.dbrk o) → s.Room s 64 → s.co.traced = false → s.host.debugOpen = true →
    s.dbg.breaks.contains s.co.launch = true →
    ∃ t, Completes s t s (s.after (.dbrk o)) false
      ∧ exec (.dbrk o) s = .next { t with
          co := { t.co with halt := some (.debug 1 ((o.ext.setWidth 16).setWidth 32) t.co.st.id), haltReq := none, stepping := none }
          dbg := { t.dbg with records := t.dbg.records ++ [.halt 1 ((o.ext.setWidth 16).setWidth 32) t.co.core t.co.blockIdx
            t.co.cid t.co.st.id (t.co.st.pc.setWidth 64) t.co.st.icnt] } }

/-- 19 R388, R389: a `YIELD` while a request is pending, with nothing of the cohort under way outside it, saves the cohort:
its grants and requests for leave go, KEEPS is offered to the block, and it completes. -/
def Obligations.YieldSaves : Prop :=
  ∀ (o : UxForm) (s : State), s.Clear (.yield o) → s.leaving = true → s.cohortQuiet = true →
    (s.readU o.a.toNat).toNat % 8 = 0 → (s.readU o.a.toNat).toNat ≤ s.co.nregs → (s.readU o.b.toNat).toNat % 128 = 0 →
    (s.readU o.b.toNat).toNat ≤ (s.blockRange s.co.block).2 →
    (s.modBlock s.co.block Block.forceAll).forcedLeft s.co.block = 0 → s.co.wheyt ≤ s.co.wheyWb →
    ∃ t, exec (.yield o) s = .next t
      ∧ Completes s t ((s.modBlock s.co.block Block.forceAll).save (s.readU o.a.toNat).toNat o.ext.toNat (s.readU o.b.toNat).toNat)
        (s.after (.yield o)) false

namespace Sys2Proof.Claims

/-- 09 R219-R223: register-mapped queues. -/
def queues (s : State) : Instr → Option Claim
  | .qpush o =>
    let n := o.a.toNat % 8
    some { base := s, hard := true
           need := s.linkBar n = none ∧ s.queueFree n ≠ 0 ∧ s.MayRelease true (queueScope n)
           post := (s.releaseAt s.co.core (queueScope n)).queuePut n
             { words := (List.range 96).map fun k => if s.co.st.mask.getLsbD k then wordAt (s.laneSrc o.b o.lit) k else 0
               valid := s.co.st.mask } }
  | .qpop o =>
    let n := o.a.toNat % 8
    match s.queueEntries n with
    | [] => none
    | e :: _ =>
      let t := (s.queueDrop n).acquireAt s.co.core (queueScope n)
      let t := if e.valid &&& ~~~s.co.st.mask = 0 then t else t.setCo fun c => { c with qdrop := c.qdrop ||| (1#8 <<< n) }
      some { base := s, hard := true, need := s.co.st.ticket 2 < 15
             post := t.withResult .qr s.co.st.icnt [.v o.d.toNat s.co.st.mask e.words] }
  | .qpeek o =>
    let n := o.a.toNat % 8
    match s.queueEntries n with
    | [] => none
    | e :: _ =>
      some { base := s, need := s.co.st.ticket 2 < 15, room := s.recordRoom
             post := (s.acquireAt s.co.core (queueScope n)).withResult .qr s.co.st.icnt [.v o.d.toNat s.co.st.mask e.words] }
  | .qstat o =>
    let n := o.ext.toNat % 8
    some { base := s, post := s.withResult .qr s.co.st.icnt [.u o.d.toNat (s.qstat n)]
           need := s.co.st.ticket 2 < 15 ∧ s.writeCause o.d.toNat (s.qstat n) = none ∧ (s.core s.co.core).mse.length ≤ 128 }
  | _ => none

/-- 12 R283, R287-R293, R295, R296, 16 R356: barriers, wait queues and waits, given the place of their object. -/
def objects (s : State) (p : Place) : Instr → Option Claim
  | .bar o => match s.barScope o.scopeN o.level with
    | none => none
    | some scope => match s.co.st.park with
      | some (.barrier _ _ (some st)) =>
        some { base := s, hard := true, need := s.dbg.recording = false
               post := (s.acquireAt s.co.core scope).writeU o.d.toNat st }
      | some (.barrier _ _ none) | some (.barW _ _) => none
      | _ =>
        if o.barW then
          let r := s.objUpdate s.co.core (fun b => b) p
          let ob := BarObj.ofBytes r.1
          let tok := s.readU o.b.toNat
          some { base := s, hard := true
                 need := s.Object (s.readU2 o.a.toNat) 16 .read p ∧ tok.extractLsb' 1 31 = 0 ∧ ob.phase ≠ tok.getLsbD 0
                   ∧ s.dbg.recording = false
                 post := (r.2.acquireAt s.co.core scope).writeU o.d.toNat (boolWord ob.phase ||| (boolWord ob.ovr <<< 1)) }
        else match s.arriveAt scope p with
          | .ok (t, _, some st) =>
            some { base := s, hard := true
                   need := s.Object (s.readU2 o.a.toNat) 16 .write p ∧ s.MayRelease true scope ∧ s.dbg.recording = false
                   post := (t.acquireAt s.co.core scope).writeU o.d.toNat st }
          | _ => none
  | .bara o => match s.barScope o.scopeN o.level with
    | none => none
    | some scope => match s.arriveAt scope p with
      | .ok (t, ph, _) =>
        some { base := s, hard := true, need := s.Object (s.readU2 o.a.toNat) 16 .write p ∧ s.MayRelease true scope
               post := t.writeU o.d.toNat (boolWord ph) }
      | .error _ => none
  | .bari o =>
    let c := s.readU o.d.toNat
    let e := s.readU o.b.toNat
    some { base := s
           need := s.Object (s.readU2 o.a.toNat) 16 .write p ∧ c.extractLsb' 16 16 = 0 ∧ e.extractLsb' 24 8 = 0
             ∧ s.MayRelease o.bit20 o.scopeN
           post := ((if o.bit20 then s.releaseAt s.co.core o.scopeN else s).objUpdate s.co.core
             (fun _ => bytesOf 4 (c.toNat * 2 ^ 16) ++ bytesOf 4 e.toNat ++ bytesOf 4 0 ++ bytesOf 4 0) p).2 }
  | .waitq o =>
    let go (u : State) (dsg : DWord) (t : Word) (need : Prop) : Claim :=
      let r := u.objUpdate s.co.core (fun b => b) p
      { base := s, hard := true, post := (r.2.acquireAt s.co.core o.scopeN).writeU o.d.toNat t
        need := need ∧ u.Object dsg 8 .write p ∧ 1 ≤ ((waitqWords r.1).2 - t).toNat ∧ ((waitqWords r.1).2 - t).toNat ≤ 2 ^ 31 }
    match s.co.st.park with
    | some (.waitq g t) => some (go s g t True)
    | _ =>
      let dsg := s.readU2 o.a.toNat
      let r := s.objUpdate s.co.core (fun b => waitqBytes ((waitqWords b).1 + 1) (waitqWords b).2) p
      let t := (waitqWords r.1).1
      some (go r.2 dsg t (s.Object dsg 8 .write p ∧ s.writeCause o.d.toNat t = none))
  | .wake o =>
    let w := waitqWords (s.objUpdate s.co.core (fun b => b) p).1
    let n := s.readU o.b.toNat
    let k := if w.1 - w.2 < n then w.1 - w.2 else n
    some { base := s, hard := true
           need := s.Object (s.readU2 o.a.toNat) 8 .write p ∧ s.MayRelease true o.scopeN ∧ s.writeCause o.d.toNat k = none
           post := (((s.releaseAt s.co.core o.scopeN).objUpdate s.co.core (fun _ => waitqBytes w.1 (w.2 + k)) p).2).writeU
             o.d.toNat k }
  | .rflush _ => match s.co.st.park with
    | some (.resource (.flush n)) => some { base := s, hard := true, need := n = 0, post := s }
    | _ =>
      let t := s.modBlock s.co.block Block.forceAll
      some { base := s, hard := true, need := t.forcedLeft s.co.block = 0, post := t }
  | .twait o =>
    let va := match s.co.st.park with
      | some (.task e) => e
      | _ => s.readU2 o.a.toNat
    match p with
    | .mem _ =>
      let r := (s.acquireAt s.co.core 4).objUpdate s.co.core (fun b => b) p
      let st : Word := ((wordOf r.1).extractLsb' 29 3).setWidth 32
      some { base := s, post := r.2.writeU o.d.toNat st
             need := s.Reaches { sp := false, order := 1, n := 4, align := 4, acc := .read, rmw := true, need := [], fabOk := false,
                                 lanes := [⟨127, va.toNat⟩] } [(⟨127, va.toNat⟩, p)]
               ∧ st ≠ 1 ∧ s.writeCause o.d.toNat st = none }
    | _ => none
  | .waitk o =>
    let scope := (o.d.extractLsb' 0 3).toNat
    let c := (s.readU o.b.toNat).toNat
    let at' := match s.co.st.park with
      | some (.chunk a b) => (a, b)
      | _ => (s.readU2 o.a.toNat + BitVec.ofNat 64 (c / 8), c % 8)
    let r := (s.acquireAt s.co.core scope).objUpdate s.co.core (fun b => b) p
    some { base := s, post := r.2
           need := s.Reaches { sp := false, order := 1, n := 1, align := 1, acc := .read, rmw := true, need := [], fabOk := false,
                               lanes := [⟨127, at'.1.toNat⟩] } [(⟨127, at'.1.toNat⟩, p)]
             ∧ (r.1.headD 0).getLsbD at'.2 = true ∧ s.dbg.recording = false }
  | _ => none

/-- 09 R211-R216, 08 R176, R177: tasks and posts. A strand that goes on posting, or joining, has committed at its own count;
one that issues for the first time commits first. -/
def tasks (s : State) : Instr → Option Claim
  | .spawn o => match s.co.st.park with
    | some (.post q es) => some { base := s, need := (s.postAll q es).1 = [], post := (s.postAll q es).2 }
    | _ => match s.launch? s.co.launch with
      | none => none
      | some l =>
        let child := s.branchTarget ((o.ext.extractLsb' 0 24).signExtend 64)
        let n := laneCount s.co.st.mask
        let allowed := l.record.ten = true ∧ child.extractLsb' 32 32 = s.pcAddr.extractLsb' 32 32
        if n = 0 then some { base := s, need := allowed, post := s, hard := true }
        else match s.openQueue l.record.taskq with
          | .ok (some d, u) =>
            let u' := (u.releaseAt u.co.core 5).setResv l.record.taskq (d.resv + BitVec.ofNat 64 n)
            let r := u'.spawnAll l child (o.a.toNat % 128) d.resv.toNat (lanesOf u'.co.st.mask)
            let r' := (r.2.setCo Cohort.commit).postAll l.record.taskq r.1
            some { base := s.setCo Cohort.commit, post := r'.2
                   need := allowed ∧ u.postCheck d d.resv.toNat n true = .ok () ∧ u.arenaRoom (64 * n) = true
                     ∧ s.MayRelease true 5 ∧ r'.1 = [] }
          | _ => none
  | .tjoin _ =>
    let j := joining
    let t := j.2.2.joinLanes s.co.st.id s.co.st.mask
    some { base := j.1, post := t.acquireAt s.co.core 4
           need := j.2.1 ∧ t.co.joined s.co.st.mask = true ∧ t.ownPresses s.co.st.id = [] }
  | .tend _ =>
    let j := joining
    let t := j.2.2.joinLanes s.co.st.id s.co.st.mask
    let u := t.endTasks s.co.st.id s.co.st.mask
    if s.co.st.mask ≠ 0 ∧ exitEmpties s then none
    else some { base := j.1
                post := u.setCo fun c => { c with
                  exm := c.exm ||| s.co.st.mask, st := { c.st with held := c.st.held &&& ~~~s.co.st.mask, mask := 0, park := none } }
                need := s.co.task.isSome = true ∧ j.2.1 ∧ t.co.joined s.co.st.mask = true ∧ u.ownPresses s.co.st.id = [] }
  | .tclaim o =>
    let r := (lanesOf s.co.st.mask).foldl (fun (acc : List (Nat × Word) × State) i =>
      ((acc.1 ++ [(i, boolWord (acc.2.claimLane i).1)]), (acc.2.claimLane i).2)) ([], s)
    let d := o.d.toNat % 128
    let vals := writeLanes (s.co.vreg d) r.1
    some { base := s, hard := true
           post := r.2.setCo fun c => { c with v := c.v.set d (blendLanes s.co.st.mask (c.vreg d) vals) } }
  | .qpost o => match s.co.st.park with
    | some (.post q es) =>
      some { base := s, need := (s.postAll q es).1 = []
             post := (s.postAll q es).2.writeU o.d.toNat (BitVec.ofNat 32 ((es.head?.map (·.ticket)).getD 0)) }
    | _ =>
      let q := (s.readU o.a.toNat).toNat
      let va := s.readU2 o.b.toNat
      if 4095 < q then none
      else match s.openQueue q with
        | .ok (some d, u) =>
          let acc : AccSpec := { sp := false, order := 0, n := entrySize d.kind - 4, align := 1, acc := .read, rmw := false
                                 need := [], fabOk := false, lanes := [⟨127, va.toNat⟩] }
          let place := u.devPlace .read va.toNat acc.n
          match place with
          | .ok p =>
            let r := u.readPlaces [] [(⟨127, va.toNat⟩, p)]
            let image := (r.1.map (·.2)).headD []
            let label := s.branchTarget ((o.ext.extractLsb' 0 24).signExtend 64)
            let bytes := if o.ext.getLsbD 31 then bytes8 label ++ image.drop 8 else image
            let w := ((r.2.releaseAt s.co.core 5).setResv q (d.resv + 1)).setCo Cohort.commit
            let x := w.postAll q [⟨d.resv.toNat, bytes⟩]
            some { base := s.setCo Cohort.commit, post := x.2.writeU o.d.toNat d.resv.low
                   need := u.Reaches acc [(⟨127, va.toNat⟩, p)] ∧ s.writeCause o.d.toNat d.resv.low = none
                     ∧ u.postCheck d d.resv.toNat 1 false = .ok () ∧ s.MayRelease true 5 ∧ x.1 = [] }
          | _ => none
        | _ => none
  | _ => none
where
  /-- How a join begins (09 R213): what it commits, what it needs, and the state in which it looks at its lanes. -/
  joining : State × Prop × State :=
    if s.co.st.park == some .join then (s, lowestStopped (s.ownPresses s.co.st.id) = none, s)
    else (s.setCo Cohort.commit, s.MayRelease true 4,
      ((s.releaseAt s.co.core 4).setCo Cohort.commit).resumePresses s.co.st.id)

end Sys2Proof.Claims

/-! ### Queues, objects, tasks -/

/-- 09 R219-R223: a push, pop, peek or status read of a queue that neither is full or empty nor leads past the mesh edge
completes. -/
def Obligations.QueueResults : Prop :=
  ∀ (i : Instr) (s : State) (c : Claim), queues s i = some c → c.need → s.Clear i → s.Room c.post c.room →
    ∃ t, exec i s = .next t ∧ Completes c.base t c.post (s.after i) c.hard

/-- 09 R220: a queue instruction with the no-wait bit raises cause 0x15 at a full queue and 0x14 at an empty one, with the
queue's number; without it the strand waits under park code 14. -/
def Obligations.QueueFullOrEmpty : Prop :=
  (∀ (o : LForm) (s : State), s.Clear (.qpush o) → s.linkBar (o.a.toNat % 8) = none → s.queueFree (o.a.toNat % 8) = 0 →
    exec (.qpush o) s = .next (if o.a.getLsbD 3 then s.raise (trapOf 0x15 0 (BitVec.ofNat 64 (o.a.toNat % 8)))
      else s.parkSt (.queue (o.a.toNat % 8))))
  ∧ ∀ (i : Instr) (o : LForm) (s : State), i = .qpop o ∨ i = .qpeek o → s.Clear i → s.queueEntries (o.a.toNat % 8) = [] →
    exec i s = .next (if o.a.getLsbD 3 then s.raise (trapOf 0x14 0 (BitVec.ofNat 64 (o.a.toNat % 8)))
      else s.parkSt (.queue (o.a.toNat % 8)))

/-- 12 R288, R289: a cohort arrival at a well-formed barrier object counts CARR up, and the store arrival SARR; when both
equal what is expected, the phase completes: PHASE turns over, CARR, SARR and OVR become 0, and the status is the new PHASE
with OVR in bit 1. One cohort arrival too many raises SUB 0, an object that is malformed SUB 1; a store arrival sets OVR
then. The fields stand in the object's bytes as R288 lays them out. -/
def Obligations.BarrierArrival : Prop :=
  ∀ o : BarObj,
    (o.bad = true ∨ (o.cexp = 0 ∧ o.sexp = 0) → o.cohortArrive = .error 1)
    ∧ (o.bad = false → ¬ (o.cexp = 0 ∧ o.sexp = 0) → o.carr = o.cexp → o.cohortArrive = .error 0)
    ∧ (o.bad = false → ¬ (o.cexp = 0 ∧ o.sexp = 0) → o.carr ≠ o.cexp → ¬ (o.carr + 1 = o.cexp ∧ o.sarr = o.sexp) →
        o.cohortArrive = .ok ({ o with carr := o.carr + 1 }, none))
    ∧ (o.bad = false → o.carr + 1 = o.cexp → o.sarr = o.sexp →
        ∃ st, o.cohortArrive = .ok ({ o with phase := !o.phase, carr := 0, sarr := 0, ovr := false }, some st)
          ∧ st.getLsbD 0 = !o.phase ∧ st.getLsbD 1 = o.ovr ∧ st.extractLsb' 2 30 = 0)
    ∧ (o.bad = false → ¬ (o.cexp = 0 ∧ o.sexp = 0) → o.sarr ≠ o.sexp → ¬ (o.carr = o.cexp ∧ o.sarr + 1 = o.sexp) →
        o.storeArrive = ({ o with sarr := o.sarr + 1 }, none))
    ∧ (o.bad = false → o.carr = o.cexp → o.sarr + 1 = o.sexp →
        ∃ st, o.storeArrive = ({ o with phase := !o.phase, carr := 0, sarr := 0, ovr := false }, some st)
          ∧ st.getLsbD 0 = !o.phase ∧ st.getLsbD 1 = o.ovr ∧ st.extractLsb' 2 30 = 0)
    ∧ (o.bad = true ∨ (o.cexp = 0 ∧ o.sexp = 0) ∨ o.sarr = o.sexp → o.storeArrive = ({ o with ovr := true }, none))
    ∧ (o.cexp < 2 ^ 16 → o.carr < 2 ^ 16 → o.sexp < 2 ^ 24 → o.sarr < 2 ^ 24 → o.bad = false → BarObj.ofBytes o.bytes = o)

/-- 12 R291-R293, R295, R296, 16 R356: each completes when its object has its place and what it waits for has come. -/
def Obligations.ObjectResults : Prop :=
  ∀ (i : Instr) (s : State) (p : Place) (c : Claim), objects s p i = some c → c.need → s.Clear i → s.Room c.post c.room →
    ∃ t, exec i s = .next t ∧ Completes c.base t c.post (s.after i) c.hard

/-- 09 R212-R216: each completes when its entries can be posted, or its lanes have joined. -/
def Obligations.TaskResults : Prop :=
  ∀ (i : Instr) (s : State) (c : Claim), tasks s i = some c → c.need → s.Clear i → c.base.Room c.post c.room →
    ∃ t, exec i s = .next t ∧ Completes c.base t c.post (s.after i) c.hard

namespace Sys2Proof.Claims

/-- A copy's command (16 R344-R346). -/
def copyCmd (s : State) : Instr → Option CopyCmd
  | .copy o => some { lay := s.layWords o.a.toNat, org := (spanNat o.b.toNat 5).map s.readU, spm := (s.readU o.d.toNat).toNat
                      out := o.out, acq := o.acq, rel := o.rel, scope := o.scopeN, dsg := s.dsgOf o.arv o.dsg, idx := none }
  | .gather o => some { lay := s.layWords o.a.toNat, org := (spanNat o.b.toNat 5).map s.readU, spm := (s.readU o.d.toNat).toNat
                        out := false, acq := o.bit20, rel := o.bit19, scope := o.scopeN, dsg := s.dsgOf o.bit18 o.gdsg
                        idx := some (s.readU o.idx).toNat }
  | _ => none

/-- What starting a copy leaves (15 R311, R320, 16 R340): its lines are absent, the command stands in its core's engine,
the strand counts it, and leave of class 3 is used when it moves more than 1 MiB. -/
def copyStarted (s t : State) (c : CopyCmd) : State :=
  let y := Layout.ofWords c.lay
  let base := (s.blockRange s.co.block).1
  let n := 4 * y.w.getD 1 1
  let lines := if c.out then [] else y.lines c.spm base
  let cp : Copy :=
    { id := t.fresh, layout := c.lay, origin := c.org, spm := c.spm, block := s.co.block, acq := c.acq, rel := c.rel
      scope := c.scope, dsg := c.dsg, cohort := s.co.uid, strand := s.co.st.id, lines := lines, stage := 0, due := 0, fab := []
      kind := match c.idx with
        | some a => .gather (wordsOf (y.w.getD 1 1) (s.spRead s.co.core ((spanNat a n).map (base + ·))))
        | none => if c.out then .out else .inn }
  let u := (t.useGrant (decide (1048576 < y.bytes)) 3 2 t.fresh).modCore s.co.core fun k =>
    { k.setLines false lines with copies := k.copies ++ [cp] }
  { u.setSt fun st => { st with copies := st.copies ++ [(t.fresh, false)] } with fresh := t.fresh + 1 }

/-- Leave of a class is to hand: it is not needed, or the cohort holds an unused grant of it, or a grant that it may upgrade
(08 R193). -/
def leave (s : State) (need : Bool) (cls : Nat) : State := if need then (s.askLeave cls).2 else s

/-- `COPY` and `GATHER` (15 R311-R320, 16 R340-R346). -/
def copies (s : State) (i : Instr) : Option Claim :=
  match copyCmd s i with
  | none => none
  | some c =>
    let y := Layout.ofWords c.lay
    let need := decide (1048576 < y.bytes)
    let t := leave s need 3
    some { base := s, hard := true, post := copyStarted s t c
           need := copyFault s c = none
             ∧ s.linesReady 0 (match c.idx with | some a => s.ownLines a (4 * y.w.getD 1 1) | none => []) = true
             ∧ s.spPoison s.co.core (match c.idx with
                 | some a => (spanNat a (4 * y.w.getD 1 1)).map ((s.blockRange s.co.block).1 + ·)
                 | none => []) = none
             ∧ (need = true → (s.askLeave 3).1 = true) ∧ slotCount (t.core s.co.core) < 64 ∧ t.co.st.cpCount < 63 }

/-- The matrix pair, leave and layouts (15 R312-R318, R322-R329, 16 R342, R347-R353, R357, R358). -/
def engines (s : State) : Instr → Option Claim
  | .laychk o => some { base := s, post := s
                        need := layFault (s.layWords o.a.toNat) = none ∧ layAlign (s.layWords o.a.toNat) = none }
  | .leave o =>
    if o.ext = 5 then some { base := s, post := s.dropGrants s.co.uid (·.use == 0), hard := true }
    else some { base := s, post := (s.askLeave o.ext.toNat).2, hard := true, need := (s.askLeave o.ext.toNat).1 = true }
  | .znew o =>
    some { base := s, hard := true, need := s.pairFault = none
           post := ((s.closeChain o.d.toNat).setCo fun c => { c with z := c.z.set o.d.toNat .zero }).gcTiles (s.co.core / 2) }
  | .zclr o => match s.co.tile o.d.toNat with
    | .zero => some { base := s, hard := true, need := s.pairFault = none, post := s.closeChain o.d.toNat }
    | .pair _ =>
      let p := s.co.core / 2
      let k := (s.pair p).next
      let u := (s.closeChain o.d.toNat).modPair p fun q => { q with
        next := k + 1, tiles := q.tiles ++ [{ id := k, vals := some (List.replicate 96 (List.replicate 64 0)), checked := true }] }
      some { base := s, hard := true, need := s.pairFault = none
             post := (u.setCo fun c => { c with z := c.z.set o.d.toNat (.pair k) }).gcTiles p }
  | .zrd o =>
    let d := o.d.toNat % 128
    let m := s.co.st.mask
    if m = 0 then some { base := s, need := s.pairFault = none, post := s }
    else
      some { base := s, need := s.pairFault = none ∧ s.co.st.ticket 3 < 15, room := s.recordRoom
             post := s.withResult .zr s.co.st.icnt (match s.co.tile o.a.toNat with
               | .zero => (List.range 8).map fun j => .v (d + j) m (List.replicate 96 0)
               | .pair k => [.tile d o.ext.toNat m (s.co.core / 2) k]) }
  | .zst o =>
    let dst := (s.readU o.d.toNat).toNat
    let pitch := 16 * o.pitch16
    let row := 64 * zstSize o.ofmt
    let base := (s.blockRange s.co.block).1
    let lines := dedup ((List.range 96).flatMap fun i => (spanNat (base + dst + i * pitch) row).map (· / 128))
    let cp : Copy :=
      { id := s.fresh, layout := [], origin := [], spm := dst, block := s.co.block, acq := false, rel := o.bit18
        scope := o.zscope, dsg := s.dsgOf o.bit19 o.b.toNat, cohort := s.co.uid, strand := s.co.st.id, lines := lines
        stage := 0, due := 0, fab := []
        kind := .zst (s.co.core / 2) (s.co.tile o.a.toNat).id o.ofmt pitch (fmodeRm s.co.fmode) (fmodeFtz s.co.fmode) }
    some { base := s, hard := true
           post := { (s.modCore s.co.core fun k => { k.setLines false lines with copies := k.copies ++ [cp] }) with
                     fresh := s.fresh + 1 }
           need := s.pairFault = none ∧ dst ≤ 0x1FFFFF ∧ dst % 16 = 0 ∧ row ≤ pitch
             ∧ (∀ i < 96, ∀ a ∈ spanNat (dst + i * pitch) row, a ≤ 0x1FFFFF ∧ a < (s.blockRange s.co.block).2)
             ∧ ∀ d, s.dsgOf o.bit19 o.b.toNat = some d → dsgFault d 16 = none }
  | .mma o => match s.followerBlock with
    | none => none
    | some fol =>
      let fb := (spanNat o.b.toNat 4).map s.readU
      let b := FmtBlock.ofWords fb
      let d := o.d.toNat
      let p := s.co.core / 2
      let need := !s.co.chainOpen d
      let t := leave s need (mmaClass b.afmt)
      let src := (t.co.tile d).id
      let k := (t.pair p).next
      let rows := (List.range 96).map fun i =>
        if t.co.st.mask.getLsbD i then (spanNat (o.a.toNat % 128) 16).map fun r => t.co.vlane r i else []
      let cmd : MmaCmd :=
        { cohort := s.co.uid, strand := s.co.st.id, count := s.co.st.icnt, tile := d, src := src, dst := k, fb := fb
          rows := s.co.st.mask, a := rows, acq := o.acq, scope := o.scopeN, leader := s.co.block, follower := fol.uid, miss := 0
          redo := false }
      let u := ((t.gcTiles p).useGrant need (mmaClass b.afmt) 1 d).modPair p fun q => { q with
        queue := q.queue ++ [cmd], next := k + 1, tiles := q.tiles ++ [{ id := k, vals := none, checked := false }] }
      some { base := s, hard := true, post := u.setCo fun c => { c with z := c.z.set d (.pair k) }
             need := s.pairFault = none ∧ fmtBad fb = none ∧ mmaRange b (s.blockRange s.co.block).2 fol.p = none
               ∧ (need = true → (s.askLeave (mmaClass b.afmt)).1 = true) ∧ (t.pair p).queue.length < 8
               ∧ ((t.gcTiles p).pair p).tiles.length < 16 ∧ (src = none → (t.mappedTiles p).length < 12) }
  | _ => none

end Sys2Proof.Claims

/-! ### Engines -/

/-- 15 R311-R329, 16 R340-R353, R357, R358: an engine instruction whose operands pass their checks, with leave to hand and
room in its engine, completes; the engine does its work later. -/
def Obligations.EngineResults : Prop :=
  ∀ (i : Instr) (s : State) (c : Claim), copies s i = some c ∨ engines s i = some c → c.need → s.Clear i →
    s.Room c.post c.room → ∃ t, exec i s = .next t ∧ Completes c.base t c.post (s.after i) c.hard

/-- 15 R333, 16 R354, R355, R357: a `COLL` whose plan header and rank entry can be read and are valid, for a rank of this die
that has not joined, joins its plan with leave of class 4. -/
def Obligations.CollResults : Prop :=
  ∀ (o : UeForm) (s : State) (p q : Place),
    let va := s.readU2 o.a.toNat
    let rk := (s.readU o.b.toNat).toNat
    let spec (a : DWord) (n align : Nat) : AccSpec :=
      { sp := false, order := 0, n := n, align := align, acc := .read, rmw := false, need := [], fabOk := false
        lanes := [⟨127, a.toNat⟩] }
    let a := va + BitVec.ofNat 64 (64 + 32 * rk)
    let r := s.readPlaces [] [(⟨127, va.toNat⟩, p)]
    let header := wordsOf 16 ((r.1.map (·.2)).headD [])
    let x := r.2.readPlaces [] [(⟨127, a.toNat⟩, q)]
    let e := RankEntry.ofBytes ((x.1.map (·.2)).headD [])
    let post := (((x.2.askLeave 4).2.useGrant true 4 3 va.toNat).joinPlan va header rk).settlePlan va
    s.Clear (.coll o) → s.Reaches (spec va 64 64) [(⟨127, va.toNat⟩, p)] → headerFault header = none →
    rk < (Header.ofWords header).npart → r.2.Reaches (spec a 32 1) [(⟨127, a.toNat⟩, q)] → e.device = s.fabric.device →
    e.die = dieOf s.co.core → (s.plans.any fun p => p.addr == va && p.joined.any (·.rank == rk)) = false →
    (x.2.askLeave 4).1 = true → (post.core s.co.core).mse.length ≤ 128 → s.Room post 64 →
    ∃ t, exec (.coll o) s = .next t ∧ Completes s t post (s.after (.coll o)) true

/-- 12 R280, 10 R238-R241: an `ACC` whose addends all have their place, are held or in the eddy tile at once, completes; one
that awaited answers completes when the last has come. -/
def Obligations.AccumulateResults : Prop :=
  (∀ (o : LmForm) (s : State) (ps : List (LaneAcc × Place)),
    let t := s.accLanes o.aop (fun x => BitVec.ofNat 64 (laneNum s.co o.d.toNat (sizeRegs o.sizeN) x.lane)) ps
    s.Clear (.acc o) → s.co.st.park ≠ some (.resource .eddy) → s.Reaches (lmSpec s o false (disp16 o) .write false .write) ps →
    fabLaneBusy s ps = false → (t.core s.co.core).mse.length ≤ 128 → t.accPending s.co.uid s.co.st.id = false → s.Room t 64 →
    ∃ u, exec (.acc o) s = .next u
      ∧ Completes s u t (s.after (.acc o)) (o.aop == 2 || s.co.diverged || anyFabric ps))
  ∧ ∀ (o : LmForm) (s : State), s.Clear (.acc o) → s.co.st.park = some (.resource .eddy) →
    s.accPending s.co.uid s.co.st.id = false → s.Room s 64 →
    ∃ u, exec (.acc o) s = .next u
      ∧ Completes s u s (s.after (.acc o)) (o.aop == 2 || s.co.diverged
        || (lmSpec s o false (disp16 o) .write false .write).lanes.any fun x => isFabric x.addr)

/-- 10 R236, R238: an addend to a line that the core holds update-only combines with the partial sum of its word and
operation there, and changes nothing else. -/
def Obligations.AccumulateHeld : Prop :=
  ∀ (s : State) (pa op : Nat) (x : DWord) (u : UpdLine) (p : PSum) (us vs : List UpdLine) (ps qs : List PSum),
    s.co.core < s.cores.length → (s.core s.co.core).upd = us ++ u :: vs → (∀ w ∈ us, w.line ≠ pa / 128) → u.line = pa / 128 →
    u.sums = ps ++ p :: qs → (∀ r ∈ ps, ¬ (r.pa = pa ∧ r.op = op)) → p.pa = pa → p.op = op →
    s.accOne pa op x = s.modCore s.co.core fun c =>
      { c with upd := us ++ { u with sums := ps ++ { p with val := accCombine op p.val x } :: qs } :: vs }

/-- 12 R281: `PFETCH` completes whatever its addresses; it changes no register, no memory and no scratchpad: only miss-status
entries, lines being filled into the RDC and their packets. -/
def Obligations.PrefetchResults : Prop :=
  ∀ (o : LmForm) (s : State), s.Clear (.pfetch o) → s.Room s 64 →
    ∃ t post, exec (.pfetch o) s = .next t ∧ Completes s t post (s.after (.pfetch o)) false
      ∧ post = { s with cores := post.cores, dies := post.dies, packets := post.packets }
      ∧ (∀ k, (post.core k) = { s.core k with mse := (post.core k).mse })
      ∧ (∀ d, (post.die d).tlb = (s.die d).tlb ∧ (post.die d).walks = (s.die d).walks)
      ∧ ∀ k, k ≠ s.co.core → post.core k = s.core k

namespace Sys2Proof.Claims

/-! ### Events: when they are due, and what they leave -/

/-- An event that leaves exactly one state. -/
def gives (need : Prop) (t : State) : Option Due := some { need := need, post := (· = t) }

/-- No strand of a state waits as a test says. -/
def noneWaits (t : State) (p : Cohort → Wait → Prop) : Prop :=
  ∀ c ∈ t.cohorts, ∀ x ∈ c.strands, ∀ w, x.park = some w → ¬ p c w

/-- A strand waits for the walk of a page by a die. -/
def walksOn (die page : Nat) (_ : Cohort) (w : Wait) : Prop := ∃ v, w = .walking die v ∧ v.toNat / 2 ^ 16 = page

/-- The mismatches of a cohort with one more at a count (01 R26). -/
def bumped (count : DWord) (l : List (DWord × Nat)) : List (DWord × Nat) :=
  if l.any (·.1 == count) then modifyFirst (·.1 == count) (fun m => (m.1, m.2 + 1)) l else l ++ [(count, 1)]

/-- Entries of an eddy tile that are 65,536 cycles old (10 R242). -/
def tooOld (cycle : Nat) (e : Option EddyEnt) : Bool := e.any fun e => e.born + 65536 ≤ cycle

/-- The moves around the cores (01 R25-R27, 03 R62-R65, 10 R236-R245, 11 R253-R257, 12 R451, 15 R332, 16 R343, 20 R404). -/
def coreEvents (s : State) : Instr → Option Due
  | .stallCycle co => do
    let c ← s.cohort? co
    let k ← c.stallCode
    gives (c.halt = none ∧ c.saved = none)
      (s.modCohort co fun c => { c with stalls := c.stalls.set k (min (c.stalls.getD k 0 + 1) 0xFFFFFFFF) })
  | .resultLanding co st k => do
    let t ← s.strand? co st
    let o ← t.outst[k]?
    let u := o.dests.foldl State.land (s.focus co st)
    gives (∀ d ∈ o.dests, s.destReady d = true)
      ((u.setSt fun t => { t with outst := t.outst.eraseIdx k }).gcTiles (u.co.core / 2))
  | .checkMismatch co st count => do
    let c ← s.cohort? co
    let t ← c.strand? st
    gives (c.atBoundary = true ∧ c.special = false ∧ t.checked ≤ count ∧ count < t.icnt ∧ t.floor ≤ count)
      ((s.focus co st).setCo fun c =>
        { c with mism := bumped count c.mism, dir := true, walk := some ⟨count, st, .device⟩ })
  | .lateFault co => do
    let c ← s.cohort? co
    let t ← c.strands.find? (·.late.isSome)
    let ev ← t.late
    some { need := c.atBoundary = true ∧ c.debug = false ∧ c.tm = false ∧ (s.focus co t.id).CanTrap
           post := fun u => ∃ v, Entered (s.focus co t.id) v { trapOf ev.code ev.sub ev.info with late := true }
             ∧ u = v.setSt fun st => { st with late := none } }
  | .pageWalk die va =>
    let page := va.toNat / 2 ^ 16
    match s.pageWalk va.toNat with
    | some e => some
        { need := page ∈ (s.die die).walks
          post := fun t => page ∉ (t.die die).walks ∧ (t.die die).tlb.head? = some e ∧ noneWaits t (walksOn die page)
            ∧ t.mem = s.mem }
    | none => if s.invalid.contains page then some
        { need := page ∈ (s.die die).walks
          post := fun t => page ∉ (t.die die).walks ∧ noneWaits t (walksOn die page) ∧ t.fw = s.fw ∧ t.mem = s.mem }
      else some
        { need := page ∈ (s.die die).walks
          post := fun t => page ∉ (t.die die).walks ∧ FwRec.page die (BitVec.ofNat 64 (page * 2 ^ 16)) ∈ t.fw
            ∧ noneWaits t (walksOn die page)
            ∧ (∀ c ∈ s.cohorts, ∀ x ∈ c.strands, ∀ w, x.park = some w → walksOn die page c w →
                ∃ d ∈ t.cohorts, d.uid = c.uid ∧ ∃ y ∈ d.strands, y = { x with park := some (.page va) })
            ∧ t.mem = s.mem }
  | .codeFill launch line => match s.xlateLine (lineOf line).toNat with
    | .ok pa => some
        { need := (s.launch? launch).isSome = true ∧ s.pinned launch (lineOf line) = none
          post := fun t =>
            t.pinned launch (lineOf line) = some (wordsOf 32 ((spanNat pa 128).map (s.bringHome (spanNat pa 128)).homeByte))
            ∧ noneWaits t (fun c w => c.launch = launch ∧ w = .fill (lineOf line))
            ∧ t.mem = (s.bringHome (spanNat pa 128)).mem }
    | _ => none
  | .lineFill core line => do
    let m ← (s.core core).mse.find? (·.line == line)
    some { need := True
           post := fun t => (t.core core).mse = dropFirst (·.line == line) (s.core core).mse
             ∧ (m.read = true → ∀ wa, wa / 32 = line → t.poisoned (4 * wa) = false →
                 ((t.core core).l1Find wa).isSome = true) }
  | .storeAck co st => do
    let c ← s.cohort? co
    let t ← c.strand? st
    let u ← t.unacked.find? (·.tid.isNone)
    let v := s.modCohort co fun c => c.modStrand st fun t =>
      { t with unacked := t.unacked.filter (·.id != u.id)
               horizon := max t.horizon (if u.remote then s.completion u.line else 0) }
    let v := if u.remote then v.rdcAck c.core u.line else v
    gives True { v with arrivals := v.arrivals.map fun a => { a with after := a.after.filter (· != u.id) } }
  | .horizonPassed co st => do
    let c ← s.cohort? co
    gives (∀ x ∈ c.strands, x.id = st → x.horizon < s.time)
      (s.modCohort co fun c => c.modStrand st fun t => { t with horizon := 0 })
  | .rdcFill die line =>
    let v := s.takeBack line
    let k := sliceOf (128 * line)
    let e := s.time + (v.slice k).lease
    some { need := (∃ l ∈ (s.die die).rdc, l.line = line ∧ l.words = none) ∧ s.slices.length = 96
           post := fun t => t.mem = v.mem ∧ (∃ x, (t.slice k).lx.find? (·.1 == line) = some (line, x) ∧ e ≤ x)
             ∧ (t.die die).rdc = modifyFirst (fun l => l.line == line && l.words.isNone)
                 (fun l => { l with words := some ((spanNat (32 * line) 32).map v.homeWord), expiry := e }) (v.die die).rdc }
  | .l1WritebackTimer core => some
      { need := s.memoryOk ∧ ((s.core core).l1.map (·.wa)).Nodup
        post := fun t => (∀ w ∈ (t.core core).l1, w.owned = true → w.dirty = false)
          ∧ ∀ w ∈ (s.core core).l1, w.owned = true → w.dirty = true → t.homeWord w.wa = w.val }
  | .updateOnlyRequest slice => match (s.slice slice).requests with
    | [] => none
    | r :: rest =>
      let v := s.modSlice slice fun sl => { (sl.roll s.cycle) with requests := rest }
      let n := ((v.slice slice).grants.find? (·.1 == r.line)).elim 0 (·.2)
      let held := (s.core r.core).upd.any (·.line == r.line)
      if held || (decide (n < (v.slice slice).quota) && !rest.any (·.line == r.line)) then
        let v := v.modSlice slice fun sl => { sl with grants := (r.line, n + 1) :: sl.grants.filter (·.1 != r.line) }
        let v := ((spanNat (32 * r.line) 32).foldl (fun s wa => s.recall none wa) (v.logHome 0 r.line r.core)).modCore r.core
          fun c => { c with l1 := c.l1.filter (·.wa / 32 != r.line)
                            upd := if held then c.upd else c.upd ++ [{ line := r.line, sums := [] }] }
        gives True (r.adds.foldl (fun s a => s.accLocal r.core a.pa a.op a.val) v)
      else
        gives True (r.adds.foldl (fun s a => s.modBlock a.block fun b => b.refuse a s.cycle) (v.logHome 1 r.line r.core))
  | .accWindowRollover slice =>
    gives ((s.slice slice).windowAt ≠ s.cycle / (s.slice slice).window * (s.slice slice).window)
      (s.modSlice slice fun sl => { sl with windowAt := s.cycle / sl.window * sl.window, grants := [] })
  | .eddyAgeExpiry block =>
    gives True (s.modBlock block fun b =>
      { b with forced := b.forced ++ ((b.eddy.filter (tooOld s.cycle)).filterMap id).foldr insertAge []
               eddy := b.eddy.map fun e => if tooOld s.cycle e then none else e })
  | .forcedDelivery block => do
    let b ← s.block? block
    let e ← b.forced.head?
    let v := ((s.accAtHome e.addr e.op e.addend).logHome 2 (e.addr / 128) 0).forgetLine b.core (e.addr / 128)
    gives True ((v.modBlock block fun b => { b with forced := b.forced.drop 1 }).mapParks fun c _ w => match w with
      | .resource (.flush n) => if c.block == block then .resource (.flush (n - 1)) else w
      | w => w)
  | .storeArrival k => do
    let a ← s.arrivals[k]?
    let gone : State := { s with arrivals := s.arrivals.eraseIdx k }
    gives (a.after = []) (match s.arrivalPlace a with
      | .at p => gone.storeArrivalAt a.core p
      | .wait t => t
      | .drop c => gone.report a.cohort a.strand c a.dsg
      | .fabric => gone.fabArrival a)
  | .linkEntryArrival k => do
    let e ← s.flying[k]?
    gives (∀ x ∈ s.flying.take k, ¬ (x.cluster = e.cluster ∧ x.queue = e.queue))
      { s with flying := s.flying.eraseIdx k, ends := s.ends ++ [e] }
  | .reportDelivery co => do
    let c ← s.cohort? co
    let t ← c.strands.find? Strand.takesReport
    let f := s.focus co t.id
    let r ← f.co.st.reports.head?
    some { need := c.atBoundary = true ∧ c.special = false ∧ f.CanTrap
           post := fun u => ∃ v, Entered f v (trapOf 0x1B r.sub r.addr)
             ∧ u = v.setSt fun st => { st with reports := f.co.st.reports.drop 1 } }
  | _ => none

/-! ### Engines and leave -/

/-- A copy moves units between device memory of this device and scratchpad, with no release beyond the package (15
R314-R320). -/
def plainCopy (s : State) (core : Nat) (cp : Copy) (us : List CopyUnit) (n : Nat) (out : Bool) : Prop :=
  cp.stage = 0 ∧ cp.fab = [] ∧ (∀ u ∈ us, ∀ va, u.va = some va → isFabric va = false) ∧ s.fabDenied out n us = none
    ∧ (out = true → s.outPoison core us = none)
    ∧ (out = true → (cp.rel && decide (4 ≤ cp.scope)) = false
        ∧ ∀ u ∈ us, u.va.isSome = true → ∀ o ∈ u.offs, (s.core core).present (o / 128) = true)

/-- What a command of a copy engine moves: direction, indexes of a `GATHER`. -/
def copyWay (cp : Copy) : Bool × Option (List Word) :=
  match cp.kind with
  | .out => (true, none)
  | .gather l => (false, some l)
  | _ => (false, none)

/-- The moves of the engines, and leave (08 R192, R193, 15 R320-R329, R336, 16 R349, R353, R358, 22 R446). -/
def engineEvents (s : State) : Instr → Option Due
  | .copyCompletion core k => do
    let cp ← s.copyAt core k
    (match s.lookCopy core cp with
    | .goes t => gives (cp.moves = true) t
    | .fails .. => none)
  | .copyFault core k => do
    let cp ← s.copyAt core k
    (match s.lookCopy core cp with
    | .fails t c va => gives (cp.moves = true) ((t.endCopy core cp).report cp.cohort cp.strand c va)
    | .goes _ => none)
  | .mmaExecute p => match (s.pair p).queue with
    | [] => none
    | m :: rest =>
      if m.redo then
        gives True (s.modPair p fun q => { q with
          queue := rest, checks := q.checks ++ [{ m with redo := false }], idle := s.cycle })
      else (s.tileVals p m.src).bind fun src =>
        let v := if m.acq then s.acquireAt (2 * p) m.scope else s
        gives (s.mmaLines p m = true)
          (v.modPair p fun q => { q with
            queue := rest, checks := q.checks ++ [m], idle := s.cycle
            tiles := modifyFirst (·.id == m.dst) (fun t => { t with vals := some (v.mmaResult p m src) }) q.tiles })
  | .mmaCheck p agree => match (s.pair p).checks with
    | [] => none
    | m :: rest =>
      if agree then
        gives True ((s.modPair p fun q => { q with
          checks := rest, tiles := modifyFirst (·.id == m.dst) (fun t => { t with checked := true }) q.tiles }).gcTiles p)
      else if m.miss < 2 then
        let ds := derived [m.dst] rest
        gives True (s.modPair p fun q => { q with
          checks := rest.filter (fun d => !ds.contains d)
          queue := ({ m with miss := m.miss + 1, redo := true } : MmaCmd) :: ds.map (fun d => { d with redo := true }) ++ q.queue })
      else some
        { need := (s.cohort? m.cohort).isSome = true
          post := fun t => (∃ c, t.cohort? m.cohort = some c ∧ c.halt = some .check)
            ∧ t.fw = s.fw ++ [.check m.cohort m.count.low] ∧ t.mem = s.mem }
  | .zstEngine core k => do
    let cp ← s.copyAt core k
    (match cp.kind with
    | .zst p z ofmt pitch rm ftz =>
      let v := (s.tileVals p z).getD []
      let base := (s.blockRange cp.block).1
      let ps := (List.range 96).flatMap fun i =>
        let bs := (List.range 64).flatMap fun n => zstBytes ofmt rm ftz (tileElem' v i n)
        (spanNat (base + cp.spm + i * pitch) bs.length).zip bs
      gives (s.tileReady p z = true) (((s.spWrite core ps).finishCopy core cp).gcTiles p)
    | _ => none)
  | .collChunk va c r => do
    let p ← s.plans.find? (·.addr == va)
    let j ← p.joined.find? (·.rank == r)
    let h := Header.ofWords p.header
    let need := c < h.chunks ∧ c ∉ j.bits ∧ s.allJoined p = true ∧ ((s.planDevices p).length ≤ 1 ∨ h.scope = 5)
    let marked (t : State) : Option Due :=
      match t.setChunkBit (s.rankEntry va r).bits c with
      | .ok v => gives need ((v.modPlan va fun p =>
          { p with joined := modifyFirst (·.rank == r) (fun j => { j with bits := c :: j.bits }) p.joined }).settlePlan va)
      | .miss a => gives need (t.absent j.die a)
      | .fault _ _ => none
    (match s.chunkFor p c r j.die with
    | .write t parts => match t.writeParts (s.rankEntry va r).dst parts with
      | .ok u => marked u
      | .miss a => gives need (t.absent j.die a)
      | .fault _ _ => none
    | .nothing t => marked t
    | .wait t => gives need t
    | .fault _ _ => none)
  | .leaveGrant die => do
    let r ← firstRequest (s.die die).waiting
    let c ← s.cohort? r.cohort
    let g : Grant := { cls := r.cls, watts := leaveCost r.cls, die := dieOf c.core, use := 0, tile := 0, since := s.cycle }
    gives (s.power.thr = false ∧ (s.die die).granted + r.watts ≤ s.sluiceCap die)
      (((s.modDie die fun d => { d with
          waiting := dropFirst (fun q => q.cohort == r.cohort && q.strand == r.strand) d.waiting }).modCohort r.cohort
        fun c => { c with grants := c.grants ++ [g] }).modDie (dieOf c.core) fun d =>
          { d with granted := d.granted + leaveCost r.cls })
  | .sluiceLend die =>
    let q := (s.sluiceCap die - (s.die die).granted - (s.die die).borrowed) / 3
    if (s.die die).waiting = [] then some
      { need := die < 4 ∧ s.dies.length = 4
        post := fun t => t.die die = { s.die die with lent := (s.die die).lent + 3 * q }
          ∧ ∀ e < 4, e ≠ die → t.die e = { s.die e with borrowed := (s.die e).borrowed + q } }
    else gives (die < 4) (s.reclaim die)
  | .leaveChainRelease co tile => do
    let c ← s.cohort? co
    gives ((s.pair (c.core / 2)).queue = [] ∧ (s.pair (c.core / 2)).idle + 2048 ≤ s.cycle)
      (s.dropGrants co fun g => g.use == 1 && g.tile == tile)
  | .leaveUnusedExpiry co =>
    gives True (s.dropGrants co fun g => g.use == 0 && decide (g.since + 16384 ≤ s.cycle))
  | _ => none

/-! ### Launches, tasks and pre-emption -/

/-- A launch as its record is accepted or refused (08 R182, R183). -/
def freshLaunch (s : State) (queue : Nat) (d : Desc) (bs : List Byte) (status : Nat) : Launch :=
  { uid := s.fresh, queue := queue, seq := d.head.low, addr := BitVec.ofNat 64 (d.slot d.head.toNat)
    record := LaunchRec.ofBytes bs, phase := 0, status := status, blocks := (LaunchRec.ofBytes bs).share, placed := 0, ended := 0
    accepted := s.time, pins := [], slots := [], tasks := [], queued := [], closed := [], presses := [], peers := []
    unwritten := none }

/-- The task arena starts over when no launch with tasks is active. -/
def arenaFor (s : State) (bs : List Byte) : State :=
  if (LaunchRec.ofBytes bs).ten && !(s.launches.any fun l => l.phase < 2 && l.record.ten) then
    match s.host.regions with
    | some g => { s with setup := { s.setup with arenaNext := g.arena.toNat } }
    | none => s
  else s

/-- Cores that a launch had reserved are free again. -/
def unreserved (s : State) (launch : Nat) : State :=
  { s with cores := s.cores.map fun (k : Core) => (if k.reserved == some launch then { k with reserved := none } else k : Core) }

/-- Launches, tasks and pre-emption (08 R183-R188, R195-R201, 09 R218, 10 R245, 19 R384-R393, 21 R432). -/
def launchEvents (s : State) : Instr → Option Due
  | .launchRecord q => match s.openQueue q with
    | .ok (some d, t) => do
      let bs ← t.published d d.head
      (match t.judgeRecord bs q d.head.low with
      | .ok status =>
        let u := (arenaFor t bs).setHead q (d.head + 1)
        let l := freshLaunch (arenaFor t bs) q d bs status
        let v : State := { u with launches := u.launches ++ [l], fresh := u.fresh + 1 }
        gives (d.kind = 0) (if status = 0 then v else v.closeLaunch l status)
      | _ => none)
    | _ => none
  | .blockPlacement launch => do
    let l ← s.launch? launch
    let spots ← s.spotsFor l
    let t := spots.foldl (fun s sp => s.startBlock l sp) s
    gives (s.waitsForPlace l = true ∧ s.returnsFirst l = false ∧ (∀ x ∈ s.before l, s.spotsFor x = none)
        ∧ ¬ (l.phase = 0 ∧ l.record.deps.any s.depFailed = true))
      (unreserved (t.modLaunch launch fun l => { l with phase := 1, placed := l.placed + spots.length }) launch)
  | .launchCompletion launch => do
    let l ← s.launch? launch
    let finish (left : Option Nat) (s : State) : State := s.modLaunch l.uid fun l =>
      { l with phase := 2, status := 0, pins := [], tasks := [], queued := [], closed := [], presses := [], unwritten := left }
    gives (l.phase = 1 ∧ l.status = 0 ∧ l.unwritten = none ∧ l.ended = l.blocks ∧ s.tasksLeft l = false ∧ l.presses = []
          ∧ (∀ c ∈ s.cohorts, c.launch ≠ launch) ∧ ∀ b ∈ s.blocks, b.launch = launch → 3 ≤ b.phase)
      (match s.planStore l.record.done.toNat (doneBytes 0 l.seq s.time) with
      | .ok t => finish none t
      | .miss va => (finish (some s.time) s).absent (l.queue % 4) va
      | .fault _ _ => (finish none s).toFw (.done l.seq 0 l.record.done))
  | .taskGather launch => do
    let l ← s.launch? launch
    (match s.openQueue l.record.taskq with
    | .ok (some d, t) => do
      let run := t.gatherRun l d (d.resv - d.head).toNat ⟨[], 0, t.setup.arenaNext⟩
      let f ← run.tasks.head?
      let m ← (List.range l.record.tslots).find? fun m => !l.slots.contains m
      let sp ← placeOne (t.rooms launch) (l.record.need true) (2 ^ 31 + m)
      gives (l.phase = 1 ∧ l.status = 0 ∧ l.record.ten = true
          ∧ t.arenaRoom (run.next - t.setup.arenaNext
              + viewBlockSize (t.tilesAt (t.declFor l.record (dwordAt f.bytes 0)).1)) = true)
        ((t.consumeTasks l d run).startTasks l run m sp.1)
    | _ => none)
  | .press entry => do
    let l ← s.launches.find? fun l => l.presses.any fun p => p.entry == entry && p.stopped.isNone
    let p ← l.presses.find? fun p => p.entry == entry && p.stopped.isNone
    let x ← (s.tasksOf l.uid).find? (·.entry == p.entry)
    (match (s.setTaskSt l.uid entry 4).pressFrom p.pidx (((s.setTaskSt l.uid entry 4).pressPlan l.uid x).drop p.pidx) with
    | .done t =>
      let u := (t.setTaskSt l.uid entry 5).modLaunch l.uid fun l => { l with presses := dropFirst (·.entry == entry) l.presses }
      gives True (if x.left = 0 then u else (u.setTaskSt l.uid x.left 3).addDue l.uid x.left p.cohort p.strand p.lane)
    | _ => none)
  | .preemptRequest launch => do
    let l ← s.launch? launch
    let b ← s.victim l (s.absentBlock launch)
    gives (((s.absentBlock launch).isSome = true ∨ s.waitsForPlace l = true) ∧ l.accepted + 20000 ≤ s.time
        ∧ (s.without ((s.blocks.filter (·.phase = 1)).map (·.uid))).hasRoom l (s.absentBlock launch) = false)
      (s.askToLeave (s.unitBlocks b))
  | .preemptTrap co => do
    let c ← s.cohort? co
    let t ← c.aboutToIssue
    some { need := c.takesPreempt = true ∧ (s.focus co t.id).CanTrap
           post := fun u => ∃ v, Entered (s.focus co t.id) v (trapOf 0x17 0 0) ∧ u = v.setCo fun c => { c with preempt := none } }
  | .forcedSave co => do
    let c ← s.cohort? co
    let b ← s.block? c.block
    let t0 ← b.t0
    let t := (s.focus co c.st.id).modBlock c.block Block.forceAll
    (match t.wheyFlush 0 with
    | .ok u => gives (c.saved = none ∧ t0 + 20000 ≤ s.time ∧ (s.focus co c.st.id).cohortQuiet = true ∧ t.forcedLeft c.block = 0)
        (u.save c.nregs 15 (u.blockRange c.block).2)
    | _ => none)
  | .blockLeave block => do
    let b ← s.block? block
    gives (b.phase = 1 ∧ ∀ x ∈ s.unitBlocks b, s.mayGo x = true) ((s.unitBlocks b).foldl (fun s b => s.leaveCore b) s)
  | .blockRestore block => do
    let b ← s.block? block
    let l ← s.launch? b.launch
    let spots ← s.restoreSpots b
    gives (b.phase = 2 ∧ ∀ x ∈ s.before l, s.spotsFor x = none)
      (unreserved (spots.foldl (fun s x => match s.block? x.1 with
        | some b => s.returnBlock b x.2
        | none => s) s) l.uid)
  | .placementReport launch device none => do
    let l ← s.launch? launch
    gives (l.record.topDomain = 8 ∧ l.phase ≠ 2 ∧ s.gated launch = true)
      (s.modLaunch launch fun l => { l with peers := insertAsc device l.peers })
  | .placementReport launch _ (some st) => do
    let l ← s.launch? launch
    let t : State :=
      { s with co := if s.co.launch == launch && s.co.uid != 0 then Cohort.reset else s.co
               others := s.others.filter fun c => c.launch != launch
               blocks := s.blocks.filter fun b => b.launch != launch }
    gives (l.record.topDomain = 8 ∧ l.phase ≠ 2 ∧ s.gated launch = true)
      (t.closeLaunch { l with status := st.toNat } st.toNat)
  | .firmwareAbort launch => do
    let l ← s.launch? launch
    some { need := l.phase ≠ 2
           post := fun t => (∃ l', t.launch? launch = some l' ∧ l'.status = 0x0A ∧ l'.presses = [])
             ∧ (∀ c ∈ t.cohorts, c.launch = launch → c.ending = true ∧ c.halt = none) ∧ t.mem = s.mem }
  | .firmwareResume co => do
    let c ← s.cohort? co
    gives (c.halt = some .check) (s.modCohort co fun c => { c with halt := none, mism := [] })
  | .firmwarePressResume entry =>
    gives True { s with
      fw := s.fw.filter (· != .press entry)
      launches := s.launches.map fun l => { l with presses := l.presses.map fun p =>
        if p.entry == entry && p.strand == 9 then { p with stopped := none } else p } }
  | .firmwareDeclareInvalid va =>
    let page := va.toNat / 2 ^ 16
    some { need := s.pageWalk va.toNat = none
           post := fun t => page ∈ t.invalid ∧ noneWaits t (fun _ w => ∃ v, w = .page v ∧ v.toNat / 2 ^ 16 = page)
             ∧ t.mem = s.mem }
  | _ => none

end Sys2Proof.Claims

/-! ### Events -/

/-- 01 R25-R27, 03 R62, R63, R65, 08 R191, 10 R236-R245, 11 R253-R257, 12 R295, R451, 15 R332, 16 R343, 20 R404: each move of
the agents around the cores, when it is due, leaves what its rule says. -/
def Obligations.CoreEvents : Prop :=
  ∀ (i : Instr) (s : State) (d : Due), coreEvents s i = some d → d.need → ∃ t, exec i s = .next t ∧ d.post t

/-- 08 R192, R193, 15 R320-R329, R335, R336, 16 R349, R353, R358, 22 R446: each move of the engines and the sluices likewise;
15 R314-R321: a look at a copy within this device moves all its units in order and completes it, waits for an absent page, or
stops at a fault. -/
def Obligations.EngineEvents : Prop :=
  (∀ (i : Instr) (s : State) (d : Due), engineEvents s i = some d → d.need → ∃ t, exec i s = .next t ∧ d.post t)
  ∧ ∀ (s : State) (core : Nat) (cp : Copy),
      let y := Layout.ofWords cp.layout
      let out := (copyWay cp).1
      let us := y.units out cp.origin (copyWay cp).2 cp.spm (s.blockRange cp.block).1
      cp.moves = true → plainCopy s core cp us y.esize out →
      s.lookCopy core cp = match if out then s.moveOut core y.esize us else s.moveIn core y.esize cp.fab us with
        | .ok t => .goes (t.finishCopy core cp)
        | .miss va => .goes (s.absent (dieOf core) va)
        | .stop t c va => .fails t c (BitVec.ofNat 64 va)

/-- 08 R183-R188, R195-R201, 09 R218, 10 R245, 19 R384-R393, 21 R432: each move of the launch and task controllers, of
pre-emption and of the firmware likewise. -/
def Obligations.LaunchEvents : Prop :=
  ∀ (i : Instr) (s : State) (d : Due), launchEvents s i = some d → d.need → ∃ t, exec i s = .next t ∧ d.post t

namespace Sys2Proof.Claims

/-! ### Debug, trace and snapshots -/

/-- A halt of the focused cohort that the agent caused, and its record (20 R398). -/
def haltedNow (s t : State) : Prop :=
  t.co = { s.co with halt := some (.debug 0 0 s.co.st.id), haltReq := none, stepping := none, sinceSync := t.co.sinceSync }
    ∧ t.dbg = { s.dbg with records := s.dbg.records ++
        [.halt 0 0 s.co.core s.co.blockIdx s.co.cid s.co.st.id (s.co.st.pc.setWidth 64) s.co.st.icnt] }

/-- The halted cohort in focus goes on, with a packet for its trace (20 R402). -/
def goesOn (s : State) (id co : Nat) : State := ((s.focus co id).setCo fun c => { c with halt := none }).trace 12 16 []

/-- A snapshot trigger (20 R409): every armed bank that has latched nothing latches, another counts it up to 255. -/
def triggered (s : State) (source : Nat) : State :=
  { s with blocks := s.blocks.map fun b =>
      if b.armed = false then b
      else match b.latched with
        | some _ => { b with lost := min 255 (b.lost + 1) }
        | none => { b with latched := some { time := s.time, source := source, tag := 0
                                             cohorts := (s.cohorts.filter (·.block == b.uid)).map Cohort.snap } } }

/-- The debug agent's moves, the trace unit's and the snapshot triggers (20 R398-R409). -/
def debugEvents (s : State) : Instr → Option Due
  | .haltRequest co => do
    let c ← s.cohort? co
    (if c.saved.isNone && !(c.dir && !c.tm) && c.strands.all (·.park.isSome) then
      some { need := c.halt = none ∧ c.ending = false ∧ s.host.debugOpen = true, post := haltedNow (s.focus co c.lowest) }
    else gives (c.halt = none ∧ c.ending = false ∧ s.host.debugOpen = true)
      (s.modCohort co fun c => { c with haltReq := some 0 }))
  | .programBuffer co words => do
    let c ← s.cohort? co
    let id ← c.haltedStrand
    let f := s.focus co id
    gives (s.dbg.buffer = none ∧ s.host.debugOpen = true ∧ words ≠ [] ∧ words.length ≤ 16 ∧ c.saved = none)
      { f with co := { f.co with debug := true, st := { f.co.st with park := none } }
               dbg := { f.dbg with buffer := some (co, words), held := f.co.st.park } }
  | .dargWrite value => gives (s.host.debugOpen = true) { s with dbg := { s.dbg with darg := value } }
  | .resume co => do
    let id ← s.resumable co
    gives True (goesOn s id co)
  | .singleStep co => do
    let id ← s.resumable co
    gives True ((goesOn s id co).setCo fun c => { c with stepping := some id })
  | .resumeAtPc co pc => do
    let id ← s.resumable co
    let f := (s.focus co id).filledFor pc
    gives (f.checkArrival pc false false = .ok)
      ((((f.setCo Cohort.commit).setSt fun t => { t with pc := pc.setWidth 56, park := none }).setCo fun c =>
        { c with halt := none }).trace 12 16 [])
  | .traceTimePacket core =>
    gives (s.streamActive core = true)
      (s.tracePut core (BitVec.ofNat 32 (9 * 2 ^ 28 + 2 * 2 ^ 22) :: dwordWords (BitVec.ofNat 64 s.time)))
  | .traceSummary co => do
    let c ← s.cohort? co
    let t := (c.strand? 0).getD ((c.strand? c.lowest).getD c.st)
    gives (c.traced = false ∧ s.streamActive c.core = true)
      (s.tracePut c.core ([BitVec.ofNat 32 (10 * 2 ^ 28 + 4 * 2 ^ 22), c.blockIdx,
        BitVec.ofNat 32 (c.cid * 2 ^ 12 + s.queueOf c.launch)] ++ dwordWords t.icnt))
  | .traceRoomReturn core =>
    let t := s.modCore core fun c => { c with trace := { c.trace with words := [], lost := 0 } }
    let n := (s.core core).trace.lost
    let u := t.tracePut core [BitVec.ofNat 32 (11 * 2 ^ 28 + n % 2 ^ 22)]
    if n = 0 then gives True t
    else match s.tracedOn core with
      | none => gives True u
      | some c => gives True ((u.tracePut core (BitVec.ofNat 32 (2 ^ 28 + c.st.id * 2 ^ 26 + 4 * 2 ^ 22) ::
          (dwordWords (c.st.pc.setWidth 64) ++ dwordWords c.st.icnt))).modCohort c.uid fun c => { c with sinceSync := 0 })
  | .snapshotAgentTrigger => gives True (triggered s 0)
  | .snapshotInput => gives True (triggered s 3)
  | .snapshotArm block => gives True (s.modBlock block fun b => { b with armed := true, latched := none, lost := 0 })
  | _ => none

/-! ### Crossbar and links -/

/-- A link that is up changes. -/
def onLink (s : State) (k : Nat) (need : Link → Prop) (f : Link → Link) : Option Due := do
  let l ← s.upLink k
  gives (need l) { s with fabric := { s.fabric with links := s.fabric.links.set k (f l) } }

/-- A control flit takes the next SEQ of a direction and stays in its replay buffer (21 R422). -/
def sentOn (d : LinkDir) (c : Ctl) : LinkDir :=
  { d with seq := d.seq + 1, replay := d.replay ++ [d.seq], flits := d.flits + 1, sent := c :: d.sent }

/-- A transmitter announces a mask, which holds from the SEQ after the announcement (21 R424). -/
def announced (d : LinkDir) (mask : Byte) : LinkDir :=
  { sentOn d (.wchg mask) with active := mask, relit := d.relit &&& ~~~mask, pending := some (mask, d.seq + 1), wants := none }

/-- The moves of the crossbar and the links (21 R415, R420-R425, 22 R444). -/
def linkEvents (s : State) : Instr → Option Due
  | .crossbarPacket ch true => gives True { s with packets := dropFirst (·.channel == ch) s.packets }
  | .crossbarPacket _ false => gives True s
  | .flitReceive k f =>
    if f.tagGood && f.fecGood then
      (s.upLink k).bind fun l =>
        if f.seq = l.rx.ack + 1 then
          onLink s k (fun _ => True) fun l =>
            let known := l.tx.replay.contains f.ack
            { l with rx := { l.rx with ack := f.seq, flits := l.rx.flits + 1
                                       discarded := l.rx.discarded + if 3 ≤ f.kind then 1 else 0 }
                     tx := { l.tx with
                       credits := l.tx.credits + f.cred, fails := if known then 0 else l.tx.fails
                       replay := if known then (l.tx.replay.dropWhile (· != f.ack)).drop 1 else l.tx.replay } }
        else onLink s k (fun _ => True) fun l => { l with tx := sentOn l.tx (.nak (l.rx.ack + 1)) }
    else onLink s k (fun _ => True) fun l => { l with tx := sentOn l.tx (.nak (l.rx.ack + 1)) }
  | .nak k seq =>
    (s.upLink k).bind fun l =>
      let n := if l.tx.replay.head? = some seq then l.tx.fails + 1 else 1
      let l' : Link := { l with tx := { l.tx with replay := l.tx.replay.dropWhile (· != seq), fails := n } }
      let t : State := { s with fabric := { s.fabric with links := s.fabric.links.set k l' } }
      gives (seq ∈ l.tx.replay) (if n ≤ 16 then t else t.linkDown k)
  | .wreq k mask =>
    if mask = 0 then (s.upLink k).bind fun _ => gives True (s.linkDown k)
    else onLink s k (fun _ => True) fun l =>
      if l.tx.pending.isSome then { l with tx := { l.tx with wants := some mask } }
      else { l with tx := announced { l.tx with bad := ~~~mask } (widthMask l.tx.width mask) }
  | .wchg k mask => onLink s k (fun _ => True) fun l =>
      { l with rx := { l.rx with active := mask, training := l.rx.bad &&& ~~~mask }, tx := sentOn l.tx (.wack (l.rx.ack + 1)) }
  | .wack k seq => onLink s k (fun l => ∃ m, l.tx.pending = some (m, seq)) fun l =>
      match l.tx.wants with
      | none => { l with tx := { l.tx with pending := none, training := l.tx.bad } }
      | some m => { l with tx := announced { l.tx with pending := none, training := l.tx.bad, bad := ~~~m }
                                   (widthMask l.tx.width m) }
  | .retrainWindow k wave count => (s.upLink k).bind fun l =>
      let bad := l.rx.bad ||| (1#8 <<< wave)
      if bad = 0xFF then
        gives (wave < 8 ∧ l.rx.thresh < count ∧ l.rx.bad.getLsbD wave = false)
          (State.linkDown { s with fabric := { s.fabric with
            links := s.fabric.links.set k { l with rx := { l.rx with bad := bad } } } } k)
      else onLink s k (fun l => wave < 8 ∧ l.rx.thresh < count ∧ l.rx.bad.getLsbD wave = false) fun l =>
        { l with rx := { l.rx with bad := bad }, tx := sentOn l.tx (.wreq (~~~bad)) }
  | .trainingComplete k wave count =>
    onLink s k (fun l => wave < 8 ∧ l.rx.training.getLsbD wave = true ∧ count ≤ l.rx.thresh / 4) fun l =>
      let bad := l.rx.bad &&& ~~~(1#8 <<< wave)
      { l with rx := { l.rx with bad := bad, training := l.rx.training &&& ~~~(1#8 <<< wave) }
               tx := sentOn l.tx (.wreq (~~~bad)) }
  | .widthPolicy k sense =>
    onLink s k (fun l => widthMask (l.tx.wanted sense) (~~~l.tx.bad) = l.tx.active ∨ l.tx.pending = none
        ∧ widthMask (l.tx.wanted sense) (~~~l.tx.bad) &&& ~~~l.tx.active &&& ~~~l.tx.relit = 0) fun l =>
      let m := widthMask (l.tx.wanted sense) (~~~l.tx.bad)
      if m = l.tx.active then { l with tx := { l.tx with width := l.tx.wanted sense } }
      else { l with tx := announced { l.tx with width := l.tx.wanted sense } m }
  | .linkRekey k => onLink s k (fun l => 2 ^ 40 ≤ l.tx.flits ∨ 2 ^ 40 ≤ l.rx.flits) fun l =>
      { l with key := l.key + 1, tx := { sentOn l.tx .rekey with flits := 0 }, rx := { l.rx with flits := 0 } }
  | .relight k wave => onLink s k (fun l => wave < 8 ∧ l.tx.active.getLsbD wave = false ∧ l.tx.bad.getLsbD wave = false) fun l =>
      { l with tx := { l.tx with relit := l.tx.relit ||| (1#8 <<< wave) } }
  | _ => none

/-! ### Messages of other devices -/

/-- A message that is new is performed once and answered: good when its addresses translate and, where it reads, hold no
poison (21 R426-R430). An absent page keeps it waiting. -/
def performed (s : State) (h : FabHead) (vas : List Nat) (acc : Acc) (reads : Bool)
    (f : List Nat → State × List Byte × List Nat) : Option Due :=
  match s.ingress vas acc with
  | .ok pas =>
    let r := f pas
    gives ((h.src, h.tid) ∉ s.fabric.performed)
      (if reads && pas.any s.poisoned then s.answerMsg h false [] 0
        else r.1.answerMsg h true r.2.1 (r.1.writeDue r.2.2))
  | .fault _ _ => gives ((h.src, h.tid) ∉ s.fabric.performed) (s.answerMsg h false [] 0)
  | .miss va => gives ((h.src, h.tid) ∉ s.fabric.performed) (s.absent 0 va)

/-- Masked bytes of a write message with their addresses. -/
def maskedBytes (h : FabHead) (mask : List Bool) (data : List Byte) : List (Nat × Byte) :=
  ((List.range data.length).filter fun k => mask.getD k false).map fun k => (h.va.toNat + k, data.getD k 0)

/-- Lines of bytes. -/
def linesOf (pas : List Nat) : List Nat := dedup (pas.map (· / 128))

/-- The messages of other devices, and their answers to this one's (12 R277-R280, R289, 21 R420, R426-R434). -/
def fabricEvents (s : State) : Instr → Option Due
  | .read h n =>
    if 0 < n ∧ n ≤ 128 then performed s h (spanNat h.va.toNat n) .read false fun pas =>
      (s.bringHome pas, pas.map (s.bringHome pas).homeByte, [])
    else gives ((h.src, h.tid) ∉ s.fabric.performed) (s.answerMsg h false [] 0)
  | .write h mask data => performed s h ((maskedBytes h mask data).map (·.1)) .write false fun pas =>
      (((s.homeStore (pas.zip ((maskedBytes h mask data).map (·.2)))).heal pas).logFabric h data false, [], linesOf pas)
  | .readModifyWrite h op =>
    performed s h (spanNat h.va.toNat (fabOpSize op)) .write true fun pas =>
      let t := s.bringHome pas
      let old := pas.map t.homeByte
      (((t.homeStore (pas.zip (fabOpBytes op old))).heal pas).logFabric h old false, old, linesOf pas)
  | .accumulate h op x =>
    if h.va.toNat % accBytes op = 0 then
      performed s h (spanNat h.va.toNat (accBytes op)) .write true fun pas =>
        (((s.takeBack (pas.headD 0 / 128)).accAtHome (pas.headD 0) op x).logFabric h (bytes8 x) false, [], linesOf pas)
    else gives ((h.src, h.tid) ∉ s.fabric.performed) (s.answerMsg h false [] 0)
  | .arrive h dsg =>
    if dsg.getLsbD 63 = false ∧ dsg.toNat % 16 = 0 then
      performed s h (spanNat dsg.toNat 16) .write true fun pas =>
        let t := s.bringHome pas
        let o := BarObj.ofBytes (pas.map t.homeByte)
        let u := (t.homeStore (pas.zip (if o.bad then setOvr (pas.map t.homeByte) else o.storeArrive.1.bytes))).logFabric h [] true
        (match o.storeArrive.2 with
          | some st => u.releaseWaiters (some (false, 0, pas.headD 0)) st
          | none => u, [], linesOf pas)
    else gives ((h.src, h.tid) ∉ s.fabric.performed) (s.answerMsg h false [] 0)
  | .response tid good data => do
    let m ← s.fabric.out.find? fun m => m.tid == tid && (m.kind == 1 || m.kind == 3)
    let fit := (List.range m.size).map fun k => data.getD k 0
    let t := s.logInput .fabric m.cohort m.strand 0 (m.va :: fit.map (·.setWidth 64))
    gives True (({ t with fabric := { t.fabric with out := t.fabric.out.filter (·.tid != tid) } } : State).giveAnswer tid good
      (if good then fit else []))
  | .writeAcknowledgement tid good => do
    let m ← s.fabric.out.find? fun m => m.tid == tid && (m.kind != 1 && m.kind != 3)
    let t : State := { s with fabric := { s.fabric with out := s.fabric.out.filter (·.tid != tid) } }
    (if m.cohort = 0 then gives True (t.giveAnswer tid good [])
    else
      let u := t.modCohort m.cohort fun c => c.mapStrands fun t =>
        if t.unacked.any (·.tid == some tid) then
          { t with unacked := t.unacked.filter (·.tid != some tid)
                   fabErr := if good then t.fabErr else some (t.fabErr.getD m.va) }
        else t
      let ids := (s.cohort? m.cohort).elim [] fun c => c.unackOf tid
      some { need := True
             post := fun v => v = { u with arrivals := v.arrivals }
               ∧ v.arrivals = s.arrivals.map fun a => { a with after := a.after.filter fun x => !ids.contains x } })
  | .reductionPiece h piece =>
    gives ((h.src, h.tid) ∉ s.fabric.performed) ((s.takePiece piece).answerMsg h true [] 0)
  | .chunkBit h plan rank chunk =>
    if (s.plans.any fun p => p.addr == plan && p.joined.any (·.rank == rank)) = false then
      gives ((h.src, h.tid) ∉ s.fabric.performed) (s.answerMsg h true [] 0)
    else match s.setChunkBit (s.rankEntry plan rank).bits chunk with
      | .ok t => gives ((h.src, h.tid) ∉ s.fabric.performed)
          (((t.modPlan plan fun p => { p with
            joined := modifyFirst (·.rank == rank) (fun j => { j with bits := chunk :: j.bits }) p.joined }).settlePlan
            plan).answerMsg h true [] 0)
      | .miss va => gives ((h.src, h.tid) ∉ s.fabric.performed) (s.absent 0 va)
      | .fault _ _ => gives ((h.src, h.tid) ∉ s.fabric.performed) (s.answerMsg h false [] 0)
  | _ => none

/-! ### The host port -/

/-- A mailbox request is answered: the response in BUF, RLEN, STATUS (22 R440). -/
def answered (s : State) (status : Word) (resp : List Byte) : State :=
  { s with host := { s.host with mail := { s.host.mail with
      buf := resp ++ s.host.mail.buf.drop resp.length, rlen := BitVec.ofNat 32 resp.length, status := status } } }

/-- A request that is in service, with the mailbox open to it: in an open session, else refused where it needs one. -/
def served (s : State) (recovery session : Bool) (t : State) : Option Due :=
  some { need := s.host.mail.status = 0xFFFFFFFF ∧ (s.host.stage = 4 ∨ recovery = true ∧ s.host.stage = 15)
         post := fun u => u = if session = true ∧ s.host.session = false then answered s 2 [] else t }

/-- A host read of a doorbell page: the bytes, or all ones. -/
def rung (s : State) (r : Option (List Byte × State)) (f : List Byte → State → State) (k : Nat) : State :=
  match r with
  | none => { s with host := { s.host with answer := some (List.replicate 8 0xFF), aborted := false } }
  | some (bs, t) =>
    let u := f bs t
    { u with host := { u.host with answer := some (bytes8 (dwordAt bs k)), aborted := false } }

/-- What the host, the mailbox and the management port ask (10 R239, R244, R245, 11 R255, R264, 20 R405-R411, 21 R423, R427, 22
R437-R448). -/
def hostEvents (s : State) : Instr → Option Due
  | .hostWrite off data =>
    let dropped : State := { s with host := { s.host with droppedWrites := s.host.droppedWrites + 1 } }
    if s.host.session = false then gives True dropped
    else if off + data.length ≤ 2 ^ 36 then
      let vas := spanNat (s.host.apbase.toNat + off) data.length
      match s.ingress vas .write with
      | .ok pas => gives True (((s.homeStore (pas.zip data)).heal pas).logInput .hostWrite 0 0 0
          (BitVec.ofNat 64 (vas.headD 0) :: data.map (·.setWidth 64)))
      | _ => gives True dropped
    else gives True dropped
  | .hostRead off n =>
    let aborted : State := { s with host := { s.host with answer := none, aborted := true } }
    if s.host.session = false then gives True aborted
    else if off + n ≤ 2 ^ 36 then
      match s.ingress (spanNat (s.host.apbase.toNat + off) n) .read with
      | .ok pas =>
        let t := s.bringHome pas
        gives True { t with host := { t.host with answer := some (pas.map t.homeByte), aborted := false } }
      | _ => gives True aborted
    else gives True aborted
  | .doorbellTicket q => gives True (rung s (s.doorbell q) (fun bs t => t.setResv q (dwordAt bs 16 + 1)) 16)
  | .doorbellHead q => gives True (rung s (s.doorbell q) (fun _ t => t) 24)
  | .apbaseWrite x => gives True { s with host := { s.host with apbase := x &&& 0x00FFFFF000000000 } }
  | .registerWrite reg x => match reg with
    | .linkWpol k => (s.fabric.links[k]?).bind fun l =>
      let l' : Link := { l with tx := { l.tx with wpol := x.toNat / 2 ^ 10 % 4 } }
      gives True { s with fabric := { s.fabric with links := s.fabric.links.set k l' } }
    | .linkThresh k => (s.fabric.links[k]?).bind fun l =>
      let l' : Link := { l with rx := { l.rx with thresh := x.toNat % 2 ^ 24 } }
      gives True { s with fabric := { s.fabric with links := s.fabric.links.set k l' } }
    | .window w word => (s.fabric.windows[w]?).bind fun old =>
      gives True { s with fabric := { s.fabric with windows := s.fabric.windows.set w (old.write word x) } }
    | .traceSelect core word => gives True (s.modCore core fun c =>
        if word = 0 then { c with trace := { c.trace with sel0 := x &&& 0xE001FFFF } }
        else { c with trace := { c.trace with sel1 := x } })
    | .route d k =>
      let rest := s.fabric.routes.filter (· != (d, k))
      gives True { s with fabric := { s.fabric with routes := if x = 0 then rest else rest ++ [(d, k)] } }
    | .breakpoints launch =>
      let rest := s.dbg.breaks.filter (· != launch)
      gives (s.host.debugOpen = true) { s with dbg := { s.dbg with breaks := if x = 0 then rest else launch :: rest } }
    | .deviceId => gives True { s with fabric := { s.fabric with device := (x.extractLsb' 0 16).toNat } }
    | .groupSize => gives True { s with fabric := { s.fabric with gsize := x.toNat } }
    | .groupRank => gives True { s with fabric := { s.fabric with grank := x.toNat } }
    | .recording => gives True { s with dbg := { s.dbg with recording := decide (x ≠ 0) && s.host.regions.isSome } }
    | .mailboxLen =>
      let m := s.host.mail
      let m' : Mailbox :=
        if m.status = 0xFFFFFFFF then { m with disc := if m.disc = 0xFFFFFFFF then m.disc else m.disc + 1 }
        else { m with len := x, rlen := 0, status := if 0 < x.toNat ∧ x.toNat ≤ 16368 then 0xFFFFFFFF else 1 }
      gives True { s with host := { s.host with mail := m' } }
    | .mailboxBuf word =>
      let m := s.host.mail
      if m.status = 0xFFFFFFFF then
        let m' : Mailbox := { m with disc := if m.disc = 0xFFFFFFFF then m.disc else m.disc + 1 }
        gives True { s with host := { s.host with mail := m' } }
      else if 4092 ≤ word then gives True s
      else some
        { need := True
          post := fun t => t = { s with host := { s.host with mail := { s.host.mail with buf := t.host.mail.buf } } }
            ∧ (t.host.mail.buf.drop (4 * word)).take 4 = bytesOf 4 x.toNat
            ∧ ∀ k, k < 4 * word ∨ 4 * word + 4 ≤ k → t.host.mail.buf.getD k 0 = m.buf.getD k 0 }
  | .map r =>
    if mapBad r then served s false true (answered s 1 [])
    else if (mapPages r).any fun o => s.mappedAt (r.va.toNat + o) r.level 4 s.setup.root then
      served s false true (answered s 2 [])
    else
      let here (x : Nat) : Bool := decide (r.va.toNat ≤ x) && decide (x < r.va.toNat + r.size.toNat)
      let t := (mapPages r).foldl (fun s o => s.mapPage (r.va.toNat + o) r.level (mapLeaf r o) 4 s.setup.root) s
      let u : State := { t with invalid := t.invalid.filter fun p => !here (p * 2 ^ 16)
                                fw := t.fw.filter fun x => match x with
                                  | .page _ v => !here v.toNat
                                  | _ => true }
      served s false true (answered (u.wake fun _ w => match w with
        | .page v => here v.toNat
        | _ => false) 0 [])
  | .unmap va size =>
    let ps := s.pagesIn va.toNat size.toNat
    if size ≠ 0 ∧ va.toNat % 2 ^ 16 = 0 ∧ size.toNat % 2 ^ 16 = 0 ∧ va.toNat + size.toNat ≤ 2 ^ 56
        ∧ ps.all (fun t => decide (va.toNat ≤ t.va) && decide (t.va + 2 ^ pageBits t.level ≤ va.toNat + size.toNat)) = true then
      let t := ps.foldl (fun s t => s.unmapPage t.va t.level 4 s.setup.root) s
      let keep (l : List TlbEnt) : List TlbEnt := l.filter fun t => !inRange va.toNat size.toNat t.va
      served s false true (answered { t with
        cores := t.cores.map fun (c : Core) => ({ c with tlb := keep c.tlb } : Core)
        dies := t.dies.map fun (d : Die) => ({ d with tlb := keep d.tlb } : Die) } 0 [])
    else served s false true (answered s 1 [])
  | .setregBaseAllowance w => served s false true
      (if 300 ≤ w ∧ w ≤ 1200 then answered { s with setup := { s.setup with base := w } } 0 [] else answered s 1 [])
  | .setregAccControl k x => served s false true
      (if k < 96 then answered (s.modSlice k fun sl =>
          { sl with window := max 256 (x.toNat / 2 ^ 12 % 2 ^ 16), quota := max 1 (x.toNat % 2 ^ 6) }) 0 []
        else answered s 1 [])
  | .setregLease k x => served s false true
      (if k < 96 then answered (s.modSlice k fun sl => { sl with lease := min 65536 (max 256 (x.toNat % 2 ^ 17)) }) 0 []
        else answered s 1 [])
  | .setregDebugKey digest => served s false true
      (if digest.length = 64 then answered { s with host := { s.host with debugKey := digest } } 0 [] else answered s 1 [])
  | .attest nonce => served s true false
      (if nonce.length = 64 then answered s 0 (s.attestReport nonce) else answered s 1 [])
  | .session ct => served s false false
      (if ct.length = 1568 then
          answered { s with host := { s.host with session := true, ideKey := Config.sessionKey ct } } 0 []
        else answered s 1 [])
  | .debugReq key sig => served s false true
      (if s.host.debugKey ≠ [] ∧ Config.sha3 key = s.host.debugKey ∧ Config.verifies key sig = true then
          answered { s with host := { s.host with debugOpen := true, debugEver := true } } 0 []
        else answered s 2 [])
  | .regions r => served s false true (answered { s with
      host := { s.host with regions := some r }, dbg := { s.dbg with profNext := 0 }
      setup := { s.setup with arenaNext := r.arena.toNat } } 0 [])
  | .stats => served s false false (answered s 0 s.statBytes)
  | .reset => some
      { need := s.host.stage = 4 ∨ s.host.stage = 15,
        post := fun t => t = { State.reset with agenda := s.agenda, turn := s.turn, tick := s.tick } }
  | _ => none

/-- Bring-up, power, temperature and management (22 R439, R446-R448). -/
def powerEvents (s : State) : Instr → Option Due
  | .bringUp b =>
    let failed (err : Nat) (t : State) : State := { t with host := { t.host with stage := 15, err := err } }
    match s.host.stage with
    | 0 => gives True (if b.good then { s with host := { s.host with stage := 1 } } else failed (if b.err = 2 then 2 else 1) s)
    | 1 =>
      let x := 2304 * 10 ^ 9
      gives True (if b.good then { s with
          setup := { s.setup with cxl0 := min b.cxl0 x, cxl1 := min b.cxl1 x }, host := { s.host with stage := 2 } }
        else failed 3 s)
    | 2 =>
      let t : State := { s with
        setup := { s.setup with
          root := b.root.toNat, qtbase := b.qtbase, saveArena := b.saveArena, codeArena := b.codeArena, base := 600
          tables := b.root.toNat + 2048 }
        time := 0, frac := 0 }
      if b.good then some
        { need := True
          post := fun u => (let f : Fabric := { t.fabric with links := u.fabric.links }
              u = { t with fabric := f, host := { t.host with stage := 3 } })
            ∧ ∀ k, u.fabric.links[k]? = (s.fabric.links[k]?).map fun l =>
                if b.deadLinks.contains k then { l with down := true } else { l with key := 1 } }
      else gives True (failed 4 t)
    | 3 => gives True { s with host := { s.host with stage := 4 } }
    | _ => none
  | .powerSample watts temps =>
    let l := (watts :: s.power.samples).take 100
    let thr := decide (2400 * l.length < l.sum) || temps.any (100 < ·)
    some { need := True
           post := fun t => t = { s with power := t.power } ∧ t.power.samples = l ∧ t.power.temps = temps
             ∧ t.power.thr = (thr)
             ∧ t.power.hot = (if temps.any (110 ≤ ·) then s.power.hot + 1 else 0) ∧ t.power.clk = s.power.clk
             ∧ t.power.telemetry = BitVec.ofNat 32 (min (l.sum / l.length) 4095 * 2 ^ 20
                 + min (temps.foldl max 0) 255 * 2 ^ 12 + s.power.clk * 2 ^ 9 + if t.power.thr then 2 ^ 8 else 0) }
  | .clockStepDown => gives (s.power.thr = true ∧ s.power.clk < 4 ∧ s.power.stepAt + 100000 ≤ s.time)
      { s with power := { s.power with clk := s.power.clk + 1, stepAt := s.time } }
  | .clockStepUp => gives (s.power.thr = false ∧ s.power.cool = true ∧ 0 < s.power.clk ∧ s.power.stepAt + 1000000 ≤ s.time)
      { s with power := { s.power with clk := s.power.clk - 1, stepAt := s.time } }
  | .thermalTrip => some
      { need := 1000 ≤ s.power.hot
        post := fun t => t.power.tripped = true ∧ (∀ l ∈ t.fabric.links, l.down = true) ∧ t.cohorts = [] ∧ t.blocks = []
          ∧ t.launches = [] ∧ t.mem = [] ∧ t.host.stage = 0 }
  | .mctpControl message => gives True { s with host := { s.host with mgmt := Config.mctpAnswer message } }
  | .pldmMonitoring sensor =>
    let x := s.power.telemetry.toNat
    gives True { s with host := { s.host with mgmt := bytesOf 4 (match sensor with
      | 0 => x / 2 ^ 20
      | 1 => x / 2 ^ 12 % 2 ^ 8
      | 2 => x / 2 ^ 9 % 2 ^ 3
      | 3 => x / 2 ^ 8 % 2
      | _ => 0) } }
  | .vendorAttest nonce => gives True { s with host := { s.host with mgmt := s.attestReport nonce } }
  | _ => none

end Sys2Proof.Claims

/-- 20 R398-R402, R406-R409: each move of the debug agent, the trace unit and the snapshot triggers, when it is due, leaves
what its rule says. -/
def Obligations.DebugEvents : Prop :=
  ∀ (i : Instr) (s : State) (d : Due), debugEvents s i = some d → d.need → ∃ t, exec i s = .next t ∧ d.post t

/-- 21 R415, R420-R425, 22 R444: each move of the crossbar and the links likewise. -/
def Obligations.LinkEvents : Prop :=
  ∀ (i : Instr) (s : State) (d : Due), linkEvents s i = some d → d.need → ∃ t, exec i s = .next t ∧ d.post t

/-- 12 R277-R280, R289, 21 R420, R426-R434: each message of another device, and each answer, likewise. -/
def Obligations.FabricEvents : Prop :=
  ∀ (i : Instr) (s : State) (d : Due), fabricEvents s i = some d → d.need → ∃ t, exec i s = .next t ∧ d.post t

/-- 10 R239, R244, R245, 11 R255, R264, 22 R437-R448: each access of the host port, each mailbox request, bring-up, power and
management likewise. -/
def Obligations.HostEvents : Prop :=
  ∀ (i : Instr) (s : State) (d : Due), hostEvents s i = some d ∨ powerEvents s i = some d → d.need →
    ∃ t, exec i s = .next t ∧ d.post t

namespace Sys2Proof.Claims

/-- A class-D lane instruction: it writes `f` to the active lanes of register d, and completes; it pushes the old values of
its lanes when it has any, outside trap and debug mode, on top unless its successor is a marked target (01 R11, R19). -/
def WritesLanes (i : Instr) (s : State) (d : Nat) (f : Nat → Word) : Prop :=
  s.Clear i → s.Room s 428 →
    ∃ t, exec i s = .next t ∧ Completes s t (s.withLanes d f) (s.after i) false
      ∧ (s.co.special = false → s.co.st.mask ≠ 0 → s.markedTarget (s.after i) = false →
          t.co.whey = ⟨s.co.st.id, s.co.st.icnt.low, .lane d s.co.st.mask
            ((lanesOf s.co.st.mask).map (s.co.vlane d))⟩ :: s.co.whey)

/-- An instruction does not execute: it raises a cause with its words in `%tinfo` (01 R31). -/
def Raises (i : Instr) (s : State) (cause : Nat) : Prop :=
  exec i s = .next (s.raise (trapOf cause 0 (pairOf i.word1 i.word0)))

/-- OP8 of a lane instruction's first word (03 R67). -/
def op8 (i : Instr) : BitVec 8 := i.word0.extractLsb' 22 8

/-- The conditions of 04 R98 on 32-bit values. -/
def condHolds (c : Nat) (a b : Word) : Bool :=
  [decide (a = b), decide (a ≠ b), decide (a.toInt < b.toInt), decide (a.toInt ≤ b.toInt), decide (b.toInt < a.toInt),
   decide (b.toInt ≤ a.toInt), decide (a.toNat < b.toNat), decide (a.toNat ≤ b.toNat), decide (b.toNat < a.toNat),
   decide (b.toNat ≤ a.toNat), decide (a &&& b ≠ 0), decide (a &&& b = 0)].getD c false

/-- Byte k of what `BPICK` writes (05 R139). -/
def pickedByte (a b c : Word) (k : Nat) : Byte :=
  let ctl := c.extractLsb' (8 * k) 8
  let x : Byte := (b ++ a).extractLsb' (8 * (ctl.extractLsb' 0 3).toNat) 8
  match (ctl.extractLsb' 3 2).toNat with
  | 0 => x
  | 1 => 0x00
  | 2 => 0xFF
  | _ => x.reverse

end Sys2Proof.Claims

/-! ### Rules of single instructions, whole -/

/-- 05 R122: `BFE` and `BFI`, with POS in IMM16 bits 15:11, LEN in 10:5 and SX in 4. LEN of 0 or above 32, or a field that
passes bit 31, raises cause 0x01; a reserved field, cause 0x02. -/
def Obligations.BitFields : Prop :=
  ∀ (o : LqForm) (s : State),
    let pos := (o.imm.extractLsb' 11 5).toNat
    let len := (o.imm.extractLsb' 5 6).toNat
    let m : Word := BitVec.ofNat 32 ((2 ^ len - 1) * 2 ^ pos)
    op8 (.bfe o) = 0x19 ∧ op8 (.bfi o) = 0x1A
    ∧ (len = 0 ∨ 32 < len ∨ 32 < pos + len → Raises (.bfe o) s 0x01 ∧ Raises (.bfi o) s 0x01)
    ∧ (¬ operandFault s (.bfe o) → o.imm.extractLsb' 0 4 ≠ 0 ∨ o.b ≠ 0 → Raises (.bfe o) s 0x02)
    ∧ (¬ operandFault s (.bfi o) → o.imm.extractLsb' 0 5 ≠ 0 → Raises (.bfi o) s 0x02)
    ∧ WritesLanes (.bfe o) s o.d.toNat (fun k =>
        let f := (s.quad o k).1.extractLsb' pos len
        if o.imm.getLsbD 4 then f.signExtend 32 else f.setWidth 32)
    ∧ WritesLanes (.bfi o) s o.d.toNat (fun k =>
        ((s.quad o k).2.1 &&& ~~~m) ||| (((s.quad o k).1 <<< pos) &&& m))

/-- 05 R123: `SEL` writes A where C is not 0, else B; `MOV` writes B; `SWAP` exchanges two registers in the active lanes, and
with D = A it changes no lane of any register. -/
def Obligations.SelectMoveSwap : Prop :=
  (∀ (o : LqForm) (s : State), op8 (.sel o) = 0x1D ∧ (s.Clear (.sel o) → s.Room s 428 →
    ∃ t, exec (.sel o) s = .next t ∧ Completes s t
      (s.withLanes o.d.toNat fun k => if (s.quad o k).2.2.1 ≠ 0 then (s.quad o k).1 else (s.quad o k).2.1)
      (s.after (.sel o)) false))
  ∧ (∀ (o : LForm) (s : State), op8 (.mov o) = 0x1E ∧ (s.Clear (.mov o) → s.Room s 428 →
    ∃ t, exec (.mov o) s = .next t ∧ Completes s t
      (s.withLanes o.d.toNat fun k => wordAt (s.laneSrc o.b o.lit) k) (s.after (.mov o)) false))
  ∧ ∀ (o : LForm) (s : State), op8 (.swap o) = 0x1F ∧ (s.Clear (.swap o) → s.Room s 428 →
    ∃ t, exec (.swap o) s = .next t ∧ Completes s t
      ((s.withLanes o.d.toNat fun k => s.co.vlane o.a.toNat k).withLanes o.a.toNat fun k => s.co.vlane o.d.toNat k)
      (s.after (.swap o)) false
      ∧ (o.d = o.a → ∀ c k, k < 96 → t.co.vlane c k = s.co.vlane c k))

/-- 05 R124, with the conditions of 04 R98: `ICMP` writes 1 where the condition in MOD bits 3:0 holds, else 0; a condition
from 12 on, or a bit of MOD above them, raises cause 0x02. -/
def Obligations.IntegerCompare : Prop :=
  ∀ (o : LqForm) (s : State),
    let cond := (o.mod.extractLsb' 0 4).toNat
    op8 (.icmp o) = 0x20
    ∧ (¬ operandFault s (.icmp o) → 12 ≤ cond ∨ o.mod.extractLsb' 4 4 ≠ 0 → Raises (.icmp o) s 0x02)
    ∧ WritesLanes (.icmp o) s o.d.toNat (fun k => if condHolds cond (s.quad o k).1 (s.quad o k).2.1 then 1 else 0)

/-- 05 R126: `LREAD` writes each active lane's number, slice, index at level 0 (07 R152), or the number of active lanes below
it, as SEL in IMM16 bits 3:0 names; another SEL, or a reserved field, raises cause 0x02. -/
def Obligations.LanePosition : Prop :=
  ∀ (o : LqForm) (s : State),
    let sel := (o.imm.extractLsb' 0 4).toNat
    op8 (.lread o) = 0x22
    ∧ (¬ operandFault s (.lread o) → 4 ≤ sel ∨ o.a ≠ 0 ∨ o.b ≠ 0 ∨ o.c ≠ 0 ∨ o.mod ≠ 0 → Raises (.lread o) s 0x02)
    ∧ (sel = 0 → WritesLanes (.lread o) s o.d.toNat (fun k => BitVec.ofNat 32 k))
    ∧ (sel = 1 → WritesLanes (.lread o) s o.d.toNat (fun k => BitVec.ofNat 32 (k / 4)))
    ∧ (sel = 2 → WritesLanes (.lread o) s o.d.toNat (fun k => BitVec.ofNat 32 (s.lvl0At k)))
    ∧ (sel = 3 → WritesLanes (.lread o) s o.d.toNat (fun k =>
        BitVec.ofNat 32 ((List.range k).filter fun j => s.co.st.mask.getLsbD j).length))

/-- 05 R138: the shuffles, with the segment code in IMM16 bits 2:0. Each active lane takes A of its source lane, when that
lies in its segment and is active in the strand, else C. Codes 5 to 7, and reserved fields, raise cause 0x02. -/
def Obligations.Shuffles : Prop :=
  ∀ (o : LqForm) (s : State),
    let w := [4, 8, 16, 32, 96].getD (o.imm.extractLsb' 0 3).toNat 96
    let base (k : Nat) := k - k % w
    let b (k : Nat) := (s.quad o k).2.1.toNat
    let takes (i : Instr) (src : Nat → Option Nat) : Prop :=
      (¬ operandFault s i → 5 ≤ (o.imm.extractLsb' 0 3).toNat ∨ o.imm.extractLsb' 3 13 ≠ 0 ∨ o.mod ≠ 0 → Raises i s 0x02)
      ∧ WritesLanes i s o.d.toNat (fun k => match src k with
        | some j => if j < base k + w ∧ s.co.st.mask.getLsbD j then s.co.vlane o.a.toNat j else (s.quad o k).2.2.1
        | none => (s.quad o k).2.2.1)
    (op8 (.shfl o) = 0x58 ∧ op8 (.shflx o) = 0x59 ∧ op8 (.shflu o) = 0x5A ∧ op8 (.shfld o) = 0x5B)
    ∧ takes (.shfl o) (fun k => some (base k + b k % w))
    ∧ takes (.shflx o) (fun k => some (base k + ((k - base k) ^^^ (b k % 128))))
    ∧ takes (.shflu o) (fun k => if b k ≤ k - base k then some (k - b k) else none)
    ∧ takes (.shfld o) (fun k => if b k + k < base k + w then some (k + b k) else none)

/-- 05 R139: `BPICK` builds each byte of D from the bytes of A and B, as the control byte of C says; MOD and IMM16 are
reserved. -/
def Obligations.BytePick : Prop :=
  ∀ (o : LqForm) (s : State), op8 (.bpick o) = 0x5C
    ∧ (¬ operandFault s (.bpick o) → o.mod ≠ 0 ∨ o.imm ≠ 0 → Raises (.bpick o) s 0x02)
    ∧ WritesLanes (.bpick o) s o.d.toNat (fun k =>
        let p := pickedByte (s.quad o k).1 (s.quad o k).2.1 (s.quad o k).2.2.1
        p 3 ++ p 2 ++ p 1 ++ p 0)

/-- 04 R99: `NOP` has one word, and the settle marker; it completes and changes nothing, and pushes nothing of its own. With
the marker it waits for the strand's outstanding results. Any other field raises cause 0x02. -/
def Obligations.NoOperation : Prop :=
  ∀ (o : UForm) (s : State),
    (o.d = 0 → o.a = 0 → o.b = 0 → encode (.nop o) = [if o.s then 0xD7000000 else 0x97000000])
    ∧ (o.d ≠ 0 ∨ o.a ≠ 0 ∨ o.b ≠ 0 → Raises (.nop o) s 0x02)
    ∧ (o.d = 0 → o.a = 0 → o.b = 0 → o.s = true → s.co.st.outst ≠ [] → exec (.nop o) s = .next (s.parkSt .settle))
    ∧ (s.Clear (.nop o) → s.Room s 64 →
        ∃ t, exec (.nop o) s = .next t ∧ Completes s t s (s.after (.nop o)) false
          ∧ (s.markedTarget (s.after (.nop o)) = false → t.co.whey = s.co.whey))
end

