-- ==== Sys2Proof/Laws/State.lean ====
section
/-! SUPPORT. One lemma per field per update of the state: what each update changes, and that it leaves every other field. -/

namespace Sys2Proof.Machine

/-! ### `setCo` -/

@[simp] theorem State.setCo_co (s : State) (f : Cohort → Cohort) : (s.setCo f).co = f s.co := rfl
@[simp] theorem State.setCo_others (s : State) (f : Cohort → Cohort) : (s.setCo f).others = s.others := rfl
@[simp] theorem State.setCo_blocks (s : State) (f : Cohort → Cohort) : (s.setCo f).blocks = s.blocks := rfl
@[simp] theorem State.setCo_launches (s : State) (f : Cohort → Cohort) : (s.setCo f).launches = s.launches := rfl
@[simp] theorem State.setCo_cores (s : State) (f : Cohort → Cohort) : (s.setCo f).cores = s.cores := rfl
@[simp] theorem State.setCo_pairs (s : State) (f : Cohort → Cohort) : (s.setCo f).pairs = s.pairs := rfl
@[simp] theorem State.setCo_slices (s : State) (f : Cohort → Cohort) : (s.setCo f).slices = s.slices := rfl
@[simp] theorem State.setCo_dies (s : State) (f : Cohort → Cohort) : (s.setCo f).dies = s.dies := rfl
@[simp] theorem State.setCo_mem (s : State) (f : Cohort → Cohort) : (s.setCo f).mem = s.mem := rfl
@[simp] theorem State.setCo_poison (s : State) (f : Cohort → Cohort) : (s.setCo f).poison = s.poison := rfl
@[simp] theorem State.setCo_ends (s : State) (f : Cohort → Cohort) : (s.setCo f).ends = s.ends := rfl
@[simp] theorem State.setCo_flying (s : State) (f : Cohort → Cohort) : (s.setCo f).flying = s.flying := rfl
@[simp] theorem State.setCo_arrivals (s : State) (f : Cohort → Cohort) : (s.setCo f).arrivals = s.arrivals := rfl
@[simp] theorem State.setCo_plans (s : State) (f : Cohort → Cohort) : (s.setCo f).plans = s.plans := rfl
@[simp] theorem State.setCo_packets (s : State) (f : Cohort → Cohort) : (s.setCo f).packets = s.packets := rfl
@[simp] theorem State.setCo_fabric (s : State) (f : Cohort → Cohort) : (s.setCo f).fabric = s.fabric := rfl
@[simp] theorem State.setCo_host (s : State) (f : Cohort → Cohort) : (s.setCo f).host = s.host := rfl
@[simp] theorem State.setCo_power (s : State) (f : Cohort → Cohort) : (s.setCo f).power = s.power := rfl
@[simp] theorem State.setCo_setup (s : State) (f : Cohort → Cohort) : (s.setCo f).setup = s.setup := rfl
@[simp] theorem State.setCo_dbg (s : State) (f : Cohort → Cohort) : (s.setCo f).dbg = s.dbg := rfl
@[simp] theorem State.setCo_fw (s : State) (f : Cohort → Cohort) : (s.setCo f).fw = s.fw := rfl
@[simp] theorem State.setCo_dead (s : State) (f : Cohort → Cohort) : (s.setCo f).dead = s.dead := rfl
@[simp] theorem State.setCo_descs (s : State) (f : Cohort → Cohort) : (s.setCo f).descs = s.descs := rfl
@[simp] theorem State.setCo_invalid (s : State) (f : Cohort → Cohort) : (s.setCo f).invalid = s.invalid := rfl
@[simp] theorem State.setCo_cycle (s : State) (f : Cohort → Cohort) : (s.setCo f).cycle = s.cycle := rfl
@[simp] theorem State.setCo_time (s : State) (f : Cohort → Cohort) : (s.setCo f).time = s.time := rfl
@[simp] theorem State.setCo_frac (s : State) (f : Cohort → Cohort) : (s.setCo f).frac = s.frac := rfl
@[simp] theorem State.setCo_fresh (s : State) (f : Cohort → Cohort) : (s.setCo f).fresh = s.fresh := rfl
@[simp] theorem State.setCo_agenda (s : State) (f : Cohort → Cohort) : (s.setCo f).agenda = s.agenda := rfl
@[simp] theorem State.setCo_turn (s : State) (f : Cohort → Cohort) : (s.setCo f).turn = s.turn := rfl
@[simp] theorem State.setCo_tick (s : State) (f : Cohort → Cohort) : (s.setCo f).tick = s.tick := rfl

/-! ### `setSt` -/

@[simp] theorem State.setSt_co (s : State) (f : Strand → Strand) : (s.setSt f).co = { s.co with st := f s.co.st } := rfl
@[simp] theorem State.setSt_others (s : State) (f : Strand → Strand) : (s.setSt f).others = s.others := rfl
@[simp] theorem State.setSt_blocks (s : State) (f : Strand → Strand) : (s.setSt f).blocks = s.blocks := rfl
@[simp] theorem State.setSt_launches (s : State) (f : Strand → Strand) : (s.setSt f).launches = s.launches := rfl
@[simp] theorem State.setSt_cores (s : State) (f : Strand → Strand) : (s.setSt f).cores = s.cores := rfl
@[simp] theorem State.setSt_pairs (s : State) (f : Strand → Strand) : (s.setSt f).pairs = s.pairs := rfl
@[simp] theorem State.setSt_slices (s : State) (f : Strand → Strand) : (s.setSt f).slices = s.slices := rfl
@[simp] theorem State.setSt_dies (s : State) (f : Strand → Strand) : (s.setSt f).dies = s.dies := rfl
@[simp] theorem State.setSt_mem (s : State) (f : Strand → Strand) : (s.setSt f).mem = s.mem := rfl
@[simp] theorem State.setSt_poison (s : State) (f : Strand → Strand) : (s.setSt f).poison = s.poison := rfl
@[simp] theorem State.setSt_ends (s : State) (f : Strand → Strand) : (s.setSt f).ends = s.ends := rfl
@[simp] theorem State.setSt_flying (s : State) (f : Strand → Strand) : (s.setSt f).flying = s.flying := rfl
@[simp] theorem State.setSt_arrivals (s : State) (f : Strand → Strand) : (s.setSt f).arrivals = s.arrivals := rfl
@[simp] theorem State.setSt_plans (s : State) (f : Strand → Strand) : (s.setSt f).plans = s.plans := rfl
@[simp] theorem State.setSt_packets (s : State) (f : Strand → Strand) : (s.setSt f).packets = s.packets := rfl
@[simp] theorem State.setSt_fabric (s : State) (f : Strand → Strand) : (s.setSt f).fabric = s.fabric := rfl
@[simp] theorem State.setSt_host (s : State) (f : Strand → Strand) : (s.setSt f).host = s.host := rfl
@[simp] theorem State.setSt_power (s : State) (f : Strand → Strand) : (s.setSt f).power = s.power := rfl
@[simp] theorem State.setSt_setup (s : State) (f : Strand → Strand) : (s.setSt f).setup = s.setup := rfl
@[simp] theorem State.setSt_dbg (s : State) (f : Strand → Strand) : (s.setSt f).dbg = s.dbg := rfl
@[simp] theorem State.setSt_fw (s : State) (f : Strand → Strand) : (s.setSt f).fw = s.fw := rfl
@[simp] theorem State.setSt_dead (s : State) (f : Strand → Strand) : (s.setSt f).dead = s.dead := rfl
@[simp] theorem State.setSt_descs (s : State) (f : Strand → Strand) : (s.setSt f).descs = s.descs := rfl
@[simp] theorem State.setSt_invalid (s : State) (f : Strand → Strand) : (s.setSt f).invalid = s.invalid := rfl
@[simp] theorem State.setSt_cycle (s : State) (f : Strand → Strand) : (s.setSt f).cycle = s.cycle := rfl
@[simp] theorem State.setSt_time (s : State) (f : Strand → Strand) : (s.setSt f).time = s.time := rfl
@[simp] theorem State.setSt_frac (s : State) (f : Strand → Strand) : (s.setSt f).frac = s.frac := rfl
@[simp] theorem State.setSt_fresh (s : State) (f : Strand → Strand) : (s.setSt f).fresh = s.fresh := rfl
@[simp] theorem State.setSt_agenda (s : State) (f : Strand → Strand) : (s.setSt f).agenda = s.agenda := rfl
@[simp] theorem State.setSt_turn (s : State) (f : Strand → Strand) : (s.setSt f).turn = s.turn := rfl
@[simp] theorem State.setSt_tick (s : State) (f : Strand → Strand) : (s.setSt f).tick = s.tick := rfl

/-! ### `modCore` -/

@[simp] theorem State.modCore_cores (s : State) (k : Nat) (f : Core → Core) : (s.modCore k f).cores = modifyAt f s.cores k := rfl
@[simp] theorem State.modCore_co (s : State) (k : Nat) (f : Core → Core) : (s.modCore k f).co = s.co := rfl
@[simp] theorem State.modCore_others (s : State) (k : Nat) (f : Core → Core) : (s.modCore k f).others = s.others := rfl
@[simp] theorem State.modCore_blocks (s : State) (k : Nat) (f : Core → Core) : (s.modCore k f).blocks = s.blocks := rfl
@[simp] theorem State.modCore_launches (s : State) (k : Nat) (f : Core → Core) : (s.modCore k f).launches = s.launches := rfl
@[simp] theorem State.modCore_pairs (s : State) (k : Nat) (f : Core → Core) : (s.modCore k f).pairs = s.pairs := rfl
@[simp] theorem State.modCore_slices (s : State) (k : Nat) (f : Core → Core) : (s.modCore k f).slices = s.slices := rfl
@[simp] theorem State.modCore_dies (s : State) (k : Nat) (f : Core → Core) : (s.modCore k f).dies = s.dies := rfl
@[simp] theorem State.modCore_mem (s : State) (k : Nat) (f : Core → Core) : (s.modCore k f).mem = s.mem := rfl
@[simp] theorem State.modCore_poison (s : State) (k : Nat) (f : Core → Core) : (s.modCore k f).poison = s.poison := rfl
@[simp] theorem State.modCore_ends (s : State) (k : Nat) (f : Core → Core) : (s.modCore k f).ends = s.ends := rfl
@[simp] theorem State.modCore_flying (s : State) (k : Nat) (f : Core → Core) : (s.modCore k f).flying = s.flying := rfl
@[simp] theorem State.modCore_arrivals (s : State) (k : Nat) (f : Core → Core) : (s.modCore k f).arrivals = s.arrivals := rfl
@[simp] theorem State.modCore_plans (s : State) (k : Nat) (f : Core → Core) : (s.modCore k f).plans = s.plans := rfl
@[simp] theorem State.modCore_packets (s : State) (k : Nat) (f : Core → Core) : (s.modCore k f).packets = s.packets := rfl
@[simp] theorem State.modCore_fabric (s : State) (k : Nat) (f : Core → Core) : (s.modCore k f).fabric = s.fabric := rfl
@[simp] theorem State.modCore_host (s : State) (k : Nat) (f : Core → Core) : (s.modCore k f).host = s.host := rfl
@[simp] theorem State.modCore_power (s : State) (k : Nat) (f : Core → Core) : (s.modCore k f).power = s.power := rfl
@[simp] theorem State.modCore_setup (s : State) (k : Nat) (f : Core → Core) : (s.modCore k f).setup = s.setup := rfl
@[simp] theorem State.modCore_dbg (s : State) (k : Nat) (f : Core → Core) : (s.modCore k f).dbg = s.dbg := rfl
@[simp] theorem State.modCore_fw (s : State) (k : Nat) (f : Core → Core) : (s.modCore k f).fw = s.fw := rfl
@[simp] theorem State.modCore_dead (s : State) (k : Nat) (f : Core → Core) : (s.modCore k f).dead = s.dead := rfl
@[simp] theorem State.modCore_descs (s : State) (k : Nat) (f : Core → Core) : (s.modCore k f).descs = s.descs := rfl
@[simp] theorem State.modCore_invalid (s : State) (k : Nat) (f : Core → Core) : (s.modCore k f).invalid = s.invalid := rfl
@[simp] theorem State.modCore_cycle (s : State) (k : Nat) (f : Core → Core) : (s.modCore k f).cycle = s.cycle := rfl
@[simp] theorem State.modCore_time (s : State) (k : Nat) (f : Core → Core) : (s.modCore k f).time = s.time := rfl
@[simp] theorem State.modCore_frac (s : State) (k : Nat) (f : Core → Core) : (s.modCore k f).frac = s.frac := rfl
@[simp] theorem State.modCore_fresh (s : State) (k : Nat) (f : Core → Core) : (s.modCore k f).fresh = s.fresh := rfl
@[simp] theorem State.modCore_agenda (s : State) (k : Nat) (f : Core → Core) : (s.modCore k f).agenda = s.agenda := rfl
@[simp] theorem State.modCore_turn (s : State) (k : Nat) (f : Core → Core) : (s.modCore k f).turn = s.turn := rfl
@[simp] theorem State.modCore_tick (s : State) (k : Nat) (f : Core → Core) : (s.modCore k f).tick = s.tick := rfl

/-! ### `modDie` -/

@[simp] theorem State.modDie_dies (s : State) (k : Nat) (f : Die → Die) : (s.modDie k f).dies = modifyAt f s.dies k := rfl
@[simp] theorem State.modDie_co (s : State) (k : Nat) (f : Die → Die) : (s.modDie k f).co = s.co := rfl
@[simp] theorem State.modDie_others (s : State) (k : Nat) (f : Die → Die) : (s.modDie k f).others = s.others := rfl
@[simp] theorem State.modDie_blocks (s : State) (k : Nat) (f : Die → Die) : (s.modDie k f).blocks = s.blocks := rfl
@[simp] theorem State.modDie_launches (s : State) (k : Nat) (f : Die → Die) : (s.modDie k f).launches = s.launches := rfl
@[simp] theorem State.modDie_cores (s : State) (k : Nat) (f : Die → Die) : (s.modDie k f).cores = s.cores := rfl
@[simp] theorem State.modDie_pairs (s : State) (k : Nat) (f : Die → Die) : (s.modDie k f).pairs = s.pairs := rfl
@[simp] theorem State.modDie_slices (s : State) (k : Nat) (f : Die → Die) : (s.modDie k f).slices = s.slices := rfl
@[simp] theorem State.modDie_mem (s : State) (k : Nat) (f : Die → Die) : (s.modDie k f).mem = s.mem := rfl
@[simp] theorem State.modDie_poison (s : State) (k : Nat) (f : Die → Die) : (s.modDie k f).poison = s.poison := rfl
@[simp] theorem State.modDie_ends (s : State) (k : Nat) (f : Die → Die) : (s.modDie k f).ends = s.ends := rfl
@[simp] theorem State.modDie_flying (s : State) (k : Nat) (f : Die → Die) : (s.modDie k f).flying = s.flying := rfl
@[simp] theorem State.modDie_arrivals (s : State) (k : Nat) (f : Die → Die) : (s.modDie k f).arrivals = s.arrivals := rfl
@[simp] theorem State.modDie_plans (s : State) (k : Nat) (f : Die → Die) : (s.modDie k f).plans = s.plans := rfl
@[simp] theorem State.modDie_packets (s : State) (k : Nat) (f : Die → Die) : (s.modDie k f).packets = s.packets := rfl
@[simp] theorem State.modDie_fabric (s : State) (k : Nat) (f : Die → Die) : (s.modDie k f).fabric = s.fabric := rfl
@[simp] theorem State.modDie_host (s : State) (k : Nat) (f : Die → Die) : (s.modDie k f).host = s.host := rfl
@[simp] theorem State.modDie_power (s : State) (k : Nat) (f : Die → Die) : (s.modDie k f).power = s.power := rfl
@[simp] theorem State.modDie_setup (s : State) (k : Nat) (f : Die → Die) : (s.modDie k f).setup = s.setup := rfl
@[simp] theorem State.modDie_dbg (s : State) (k : Nat) (f : Die → Die) : (s.modDie k f).dbg = s.dbg := rfl
@[simp] theorem State.modDie_fw (s : State) (k : Nat) (f : Die → Die) : (s.modDie k f).fw = s.fw := rfl
@[simp] theorem State.modDie_dead (s : State) (k : Nat) (f : Die → Die) : (s.modDie k f).dead = s.dead := rfl
@[simp] theorem State.modDie_descs (s : State) (k : Nat) (f : Die → Die) : (s.modDie k f).descs = s.descs := rfl
@[simp] theorem State.modDie_invalid (s : State) (k : Nat) (f : Die → Die) : (s.modDie k f).invalid = s.invalid := rfl
@[simp] theorem State.modDie_cycle (s : State) (k : Nat) (f : Die → Die) : (s.modDie k f).cycle = s.cycle := rfl
@[simp] theorem State.modDie_time (s : State) (k : Nat) (f : Die → Die) : (s.modDie k f).time = s.time := rfl
@[simp] theorem State.modDie_frac (s : State) (k : Nat) (f : Die → Die) : (s.modDie k f).frac = s.frac := rfl
@[simp] theorem State.modDie_fresh (s : State) (k : Nat) (f : Die → Die) : (s.modDie k f).fresh = s.fresh := rfl
@[simp] theorem State.modDie_agenda (s : State) (k : Nat) (f : Die → Die) : (s.modDie k f).agenda = s.agenda := rfl
@[simp] theorem State.modDie_turn (s : State) (k : Nat) (f : Die → Die) : (s.modDie k f).turn = s.turn := rfl
@[simp] theorem State.modDie_tick (s : State) (k : Nat) (f : Die → Die) : (s.modDie k f).tick = s.tick := rfl

/-! ### `modSlice` -/

@[simp] theorem State.modSlice_slices (s : State) (k : Nat) (f : Slice → Slice) : (s.modSlice k f).slices = modifyAt f s.slices k := rfl
@[simp] theorem State.modSlice_co (s : State) (k : Nat) (f : Slice → Slice) : (s.modSlice k f).co = s.co := rfl
@[simp] theorem State.modSlice_others (s : State) (k : Nat) (f : Slice → Slice) : (s.modSlice k f).others = s.others := rfl
@[simp] theorem State.modSlice_blocks (s : State) (k : Nat) (f : Slice → Slice) : (s.modSlice k f).blocks = s.blocks := rfl
@[simp] theorem State.modSlice_launches (s : State) (k : Nat) (f : Slice → Slice) : (s.modSlice k f).launches = s.launches := rfl
@[simp] theorem State.modSlice_cores (s : State) (k : Nat) (f : Slice → Slice) : (s.modSlice k f).cores = s.cores := rfl
@[simp] theorem State.modSlice_pairs (s : State) (k : Nat) (f : Slice → Slice) : (s.modSlice k f).pairs = s.pairs := rfl
@[simp] theorem State.modSlice_dies (s : State) (k : Nat) (f : Slice → Slice) : (s.modSlice k f).dies = s.dies := rfl
@[simp] theorem State.modSlice_mem (s : State) (k : Nat) (f : Slice → Slice) : (s.modSlice k f).mem = s.mem := rfl
@[simp] theorem State.modSlice_poison (s : State) (k : Nat) (f : Slice → Slice) : (s.modSlice k f).poison = s.poison := rfl
@[simp] theorem State.modSlice_ends (s : State) (k : Nat) (f : Slice → Slice) : (s.modSlice k f).ends = s.ends := rfl
@[simp] theorem State.modSlice_flying (s : State) (k : Nat) (f : Slice → Slice) : (s.modSlice k f).flying = s.flying := rfl
@[simp] theorem State.modSlice_arrivals (s : State) (k : Nat) (f : Slice → Slice) : (s.modSlice k f).arrivals = s.arrivals := rfl
@[simp] theorem State.modSlice_plans (s : State) (k : Nat) (f : Slice → Slice) : (s.modSlice k f).plans = s.plans := rfl
@[simp] theorem State.modSlice_packets (s : State) (k : Nat) (f : Slice → Slice) : (s.modSlice k f).packets = s.packets := rfl
@[simp] theorem State.modSlice_fabric (s : State) (k : Nat) (f : Slice → Slice) : (s.modSlice k f).fabric = s.fabric := rfl
@[simp] theorem State.modSlice_host (s : State) (k : Nat) (f : Slice → Slice) : (s.modSlice k f).host = s.host := rfl
@[simp] theorem State.modSlice_power (s : State) (k : Nat) (f : Slice → Slice) : (s.modSlice k f).power = s.power := rfl
@[simp] theorem State.modSlice_setup (s : State) (k : Nat) (f : Slice → Slice) : (s.modSlice k f).setup = s.setup := rfl
@[simp] theorem State.modSlice_dbg (s : State) (k : Nat) (f : Slice → Slice) : (s.modSlice k f).dbg = s.dbg := rfl
@[simp] theorem State.modSlice_fw (s : State) (k : Nat) (f : Slice → Slice) : (s.modSlice k f).fw = s.fw := rfl
@[simp] theorem State.modSlice_dead (s : State) (k : Nat) (f : Slice → Slice) : (s.modSlice k f).dead = s.dead := rfl
@[simp] theorem State.modSlice_descs (s : State) (k : Nat) (f : Slice → Slice) : (s.modSlice k f).descs = s.descs := rfl
@[simp] theorem State.modSlice_invalid (s : State) (k : Nat) (f : Slice → Slice) : (s.modSlice k f).invalid = s.invalid := rfl
@[simp] theorem State.modSlice_cycle (s : State) (k : Nat) (f : Slice → Slice) : (s.modSlice k f).cycle = s.cycle := rfl
@[simp] theorem State.modSlice_time (s : State) (k : Nat) (f : Slice → Slice) : (s.modSlice k f).time = s.time := rfl
@[simp] theorem State.modSlice_frac (s : State) (k : Nat) (f : Slice → Slice) : (s.modSlice k f).frac = s.frac := rfl
@[simp] theorem State.modSlice_fresh (s : State) (k : Nat) (f : Slice → Slice) : (s.modSlice k f).fresh = s.fresh := rfl
@[simp] theorem State.modSlice_agenda (s : State) (k : Nat) (f : Slice → Slice) : (s.modSlice k f).agenda = s.agenda := rfl
@[simp] theorem State.modSlice_turn (s : State) (k : Nat) (f : Slice → Slice) : (s.modSlice k f).turn = s.turn := rfl
@[simp] theorem State.modSlice_tick (s : State) (k : Nat) (f : Slice → Slice) : (s.modSlice k f).tick = s.tick := rfl

/-! ### `modPair` -/

@[simp] theorem State.modPair_pairs (s : State) (k : Nat) (f : Pair → Pair) : (s.modPair k f).pairs = modifyAt f s.pairs k := rfl
@[simp] theorem State.modPair_co (s : State) (k : Nat) (f : Pair → Pair) : (s.modPair k f).co = s.co := rfl
@[simp] theorem State.modPair_others (s : State) (k : Nat) (f : Pair → Pair) : (s.modPair k f).others = s.others := rfl
@[simp] theorem State.modPair_blocks (s : State) (k : Nat) (f : Pair → Pair) : (s.modPair k f).blocks = s.blocks := rfl
@[simp] theorem State.modPair_launches (s : State) (k : Nat) (f : Pair → Pair) : (s.modPair k f).launches = s.launches := rfl
@[simp] theorem State.modPair_cores (s : State) (k : Nat) (f : Pair → Pair) : (s.modPair k f).cores = s.cores := rfl
@[simp] theorem State.modPair_slices (s : State) (k : Nat) (f : Pair → Pair) : (s.modPair k f).slices = s.slices := rfl
@[simp] theorem State.modPair_dies (s : State) (k : Nat) (f : Pair → Pair) : (s.modPair k f).dies = s.dies := rfl
@[simp] theorem State.modPair_mem (s : State) (k : Nat) (f : Pair → Pair) : (s.modPair k f).mem = s.mem := rfl
@[simp] theorem State.modPair_poison (s : State) (k : Nat) (f : Pair → Pair) : (s.modPair k f).poison = s.poison := rfl
@[simp] theorem State.modPair_ends (s : State) (k : Nat) (f : Pair → Pair) : (s.modPair k f).ends = s.ends := rfl
@[simp] theorem State.modPair_flying (s : State) (k : Nat) (f : Pair → Pair) : (s.modPair k f).flying = s.flying := rfl
@[simp] theorem State.modPair_arrivals (s : State) (k : Nat) (f : Pair → Pair) : (s.modPair k f).arrivals = s.arrivals := rfl
@[simp] theorem State.modPair_plans (s : State) (k : Nat) (f : Pair → Pair) : (s.modPair k f).plans = s.plans := rfl
@[simp] theorem State.modPair_packets (s : State) (k : Nat) (f : Pair → Pair) : (s.modPair k f).packets = s.packets := rfl
@[simp] theorem State.modPair_fabric (s : State) (k : Nat) (f : Pair → Pair) : (s.modPair k f).fabric = s.fabric := rfl
@[simp] theorem State.modPair_host (s : State) (k : Nat) (f : Pair → Pair) : (s.modPair k f).host = s.host := rfl
@[simp] theorem State.modPair_power (s : State) (k : Nat) (f : Pair → Pair) : (s.modPair k f).power = s.power := rfl
@[simp] theorem State.modPair_setup (s : State) (k : Nat) (f : Pair → Pair) : (s.modPair k f).setup = s.setup := rfl
@[simp] theorem State.modPair_dbg (s : State) (k : Nat) (f : Pair → Pair) : (s.modPair k f).dbg = s.dbg := rfl
@[simp] theorem State.modPair_fw (s : State) (k : Nat) (f : Pair → Pair) : (s.modPair k f).fw = s.fw := rfl
@[simp] theorem State.modPair_dead (s : State) (k : Nat) (f : Pair → Pair) : (s.modPair k f).dead = s.dead := rfl
@[simp] theorem State.modPair_descs (s : State) (k : Nat) (f : Pair → Pair) : (s.modPair k f).descs = s.descs := rfl
@[simp] theorem State.modPair_invalid (s : State) (k : Nat) (f : Pair → Pair) : (s.modPair k f).invalid = s.invalid := rfl
@[simp] theorem State.modPair_cycle (s : State) (k : Nat) (f : Pair → Pair) : (s.modPair k f).cycle = s.cycle := rfl
@[simp] theorem State.modPair_time (s : State) (k : Nat) (f : Pair → Pair) : (s.modPair k f).time = s.time := rfl
@[simp] theorem State.modPair_frac (s : State) (k : Nat) (f : Pair → Pair) : (s.modPair k f).frac = s.frac := rfl
@[simp] theorem State.modPair_fresh (s : State) (k : Nat) (f : Pair → Pair) : (s.modPair k f).fresh = s.fresh := rfl
@[simp] theorem State.modPair_agenda (s : State) (k : Nat) (f : Pair → Pair) : (s.modPair k f).agenda = s.agenda := rfl
@[simp] theorem State.modPair_turn (s : State) (k : Nat) (f : Pair → Pair) : (s.modPair k f).turn = s.turn := rfl
@[simp] theorem State.modPair_tick (s : State) (k : Nat) (f : Pair → Pair) : (s.modPair k f).tick = s.tick := rfl

/-! ### `modBlock` -/

@[simp] theorem State.modBlock_blocks (s : State) (k : Nat) (f : Block → Block) : (s.modBlock k f).blocks = modifyFirst (·.uid == k) f s.blocks := rfl
@[simp] theorem State.modBlock_co (s : State) (k : Nat) (f : Block → Block) : (s.modBlock k f).co = s.co := rfl
@[simp] theorem State.modBlock_others (s : State) (k : Nat) (f : Block → Block) : (s.modBlock k f).others = s.others := rfl
@[simp] theorem State.modBlock_launches (s : State) (k : Nat) (f : Block → Block) : (s.modBlock k f).launches = s.launches := rfl
@[simp] theorem State.modBlock_cores (s : State) (k : Nat) (f : Block → Block) : (s.modBlock k f).cores = s.cores := rfl
@[simp] theorem State.modBlock_pairs (s : State) (k : Nat) (f : Block → Block) : (s.modBlock k f).pairs = s.pairs := rfl
@[simp] theorem State.modBlock_slices (s : State) (k : Nat) (f : Block → Block) : (s.modBlock k f).slices = s.slices := rfl
@[simp] theorem State.modBlock_dies (s : State) (k : Nat) (f : Block → Block) : (s.modBlock k f).dies = s.dies := rfl
@[simp] theorem State.modBlock_mem (s : State) (k : Nat) (f : Block → Block) : (s.modBlock k f).mem = s.mem := rfl
@[simp] theorem State.modBlock_poison (s : State) (k : Nat) (f : Block → Block) : (s.modBlock k f).poison = s.poison := rfl
@[simp] theorem State.modBlock_ends (s : State) (k : Nat) (f : Block → Block) : (s.modBlock k f).ends = s.ends := rfl
@[simp] theorem State.modBlock_flying (s : State) (k : Nat) (f : Block → Block) : (s.modBlock k f).flying = s.flying := rfl
@[simp] theorem State.modBlock_arrivals (s : State) (k : Nat) (f : Block → Block) : (s.modBlock k f).arrivals = s.arrivals := rfl
@[simp] theorem State.modBlock_plans (s : State) (k : Nat) (f : Block → Block) : (s.modBlock k f).plans = s.plans := rfl
@[simp] theorem State.modBlock_packets (s : State) (k : Nat) (f : Block → Block) : (s.modBlock k f).packets = s.packets := rfl
@[simp] theorem State.modBlock_fabric (s : State) (k : Nat) (f : Block → Block) : (s.modBlock k f).fabric = s.fabric := rfl
@[simp] theorem State.modBlock_host (s : State) (k : Nat) (f : Block → Block) : (s.modBlock k f).host = s.host := rfl
@[simp] theorem State.modBlock_power (s : State) (k : Nat) (f : Block → Block) : (s.modBlock k f).power = s.power := rfl
@[simp] theorem State.modBlock_setup (s : State) (k : Nat) (f : Block → Block) : (s.modBlock k f).setup = s.setup := rfl
@[simp] theorem State.modBlock_dbg (s : State) (k : Nat) (f : Block → Block) : (s.modBlock k f).dbg = s.dbg := rfl
@[simp] theorem State.modBlock_fw (s : State) (k : Nat) (f : Block → Block) : (s.modBlock k f).fw = s.fw := rfl
@[simp] theorem State.modBlock_dead (s : State) (k : Nat) (f : Block → Block) : (s.modBlock k f).dead = s.dead := rfl
@[simp] theorem State.modBlock_descs (s : State) (k : Nat) (f : Block → Block) : (s.modBlock k f).descs = s.descs := rfl
@[simp] theorem State.modBlock_invalid (s : State) (k : Nat) (f : Block → Block) : (s.modBlock k f).invalid = s.invalid := rfl
@[simp] theorem State.modBlock_cycle (s : State) (k : Nat) (f : Block → Block) : (s.modBlock k f).cycle = s.cycle := rfl
@[simp] theorem State.modBlock_time (s : State) (k : Nat) (f : Block → Block) : (s.modBlock k f).time = s.time := rfl
@[simp] theorem State.modBlock_frac (s : State) (k : Nat) (f : Block → Block) : (s.modBlock k f).frac = s.frac := rfl
@[simp] theorem State.modBlock_fresh (s : State) (k : Nat) (f : Block → Block) : (s.modBlock k f).fresh = s.fresh := rfl
@[simp] theorem State.modBlock_agenda (s : State) (k : Nat) (f : Block → Block) : (s.modBlock k f).agenda = s.agenda := rfl
@[simp] theorem State.modBlock_turn (s : State) (k : Nat) (f : Block → Block) : (s.modBlock k f).turn = s.turn := rfl
@[simp] theorem State.modBlock_tick (s : State) (k : Nat) (f : Block → Block) : (s.modBlock k f).tick = s.tick := rfl

/-! ### `modLaunch` -/

@[simp] theorem State.modLaunch_launches (s : State) (k : Nat) (f : Launch → Launch) : (s.modLaunch k f).launches = modifyFirst (·.uid == k) f s.launches := rfl
@[simp] theorem State.modLaunch_co (s : State) (k : Nat) (f : Launch → Launch) : (s.modLaunch k f).co = s.co := rfl
@[simp] theorem State.modLaunch_others (s : State) (k : Nat) (f : Launch → Launch) : (s.modLaunch k f).others = s.others := rfl
@[simp] theorem State.modLaunch_blocks (s : State) (k : Nat) (f : Launch → Launch) : (s.modLaunch k f).blocks = s.blocks := rfl
@[simp] theorem State.modLaunch_cores (s : State) (k : Nat) (f : Launch → Launch) : (s.modLaunch k f).cores = s.cores := rfl
@[simp] theorem State.modLaunch_pairs (s : State) (k : Nat) (f : Launch → Launch) : (s.modLaunch k f).pairs = s.pairs := rfl
@[simp] theorem State.modLaunch_slices (s : State) (k : Nat) (f : Launch → Launch) : (s.modLaunch k f).slices = s.slices := rfl
@[simp] theorem State.modLaunch_dies (s : State) (k : Nat) (f : Launch → Launch) : (s.modLaunch k f).dies = s.dies := rfl
@[simp] theorem State.modLaunch_mem (s : State) (k : Nat) (f : Launch → Launch) : (s.modLaunch k f).mem = s.mem := rfl
@[simp] theorem State.modLaunch_poison (s : State) (k : Nat) (f : Launch → Launch) : (s.modLaunch k f).poison = s.poison := rfl
@[simp] theorem State.modLaunch_ends (s : State) (k : Nat) (f : Launch → Launch) : (s.modLaunch k f).ends = s.ends := rfl
@[simp] theorem State.modLaunch_flying (s : State) (k : Nat) (f : Launch → Launch) : (s.modLaunch k f).flying = s.flying := rfl
@[simp] theorem State.modLaunch_arrivals (s : State) (k : Nat) (f : Launch → Launch) : (s.modLaunch k f).arrivals = s.arrivals := rfl
@[simp] theorem State.modLaunch_plans (s : State) (k : Nat) (f : Launch → Launch) : (s.modLaunch k f).plans = s.plans := rfl
@[simp] theorem State.modLaunch_packets (s : State) (k : Nat) (f : Launch → Launch) : (s.modLaunch k f).packets = s.packets := rfl
@[simp] theorem State.modLaunch_fabric (s : State) (k : Nat) (f : Launch → Launch) : (s.modLaunch k f).fabric = s.fabric := rfl
@[simp] theorem State.modLaunch_host (s : State) (k : Nat) (f : Launch → Launch) : (s.modLaunch k f).host = s.host := rfl
@[simp] theorem State.modLaunch_power (s : State) (k : Nat) (f : Launch → Launch) : (s.modLaunch k f).power = s.power := rfl
@[simp] theorem State.modLaunch_setup (s : State) (k : Nat) (f : Launch → Launch) : (s.modLaunch k f).setup = s.setup := rfl
@[simp] theorem State.modLaunch_dbg (s : State) (k : Nat) (f : Launch → Launch) : (s.modLaunch k f).dbg = s.dbg := rfl
@[simp] theorem State.modLaunch_fw (s : State) (k : Nat) (f : Launch → Launch) : (s.modLaunch k f).fw = s.fw := rfl
@[simp] theorem State.modLaunch_dead (s : State) (k : Nat) (f : Launch → Launch) : (s.modLaunch k f).dead = s.dead := rfl
@[simp] theorem State.modLaunch_descs (s : State) (k : Nat) (f : Launch → Launch) : (s.modLaunch k f).descs = s.descs := rfl
@[simp] theorem State.modLaunch_invalid (s : State) (k : Nat) (f : Launch → Launch) : (s.modLaunch k f).invalid = s.invalid := rfl
@[simp] theorem State.modLaunch_cycle (s : State) (k : Nat) (f : Launch → Launch) : (s.modLaunch k f).cycle = s.cycle := rfl
@[simp] theorem State.modLaunch_time (s : State) (k : Nat) (f : Launch → Launch) : (s.modLaunch k f).time = s.time := rfl
@[simp] theorem State.modLaunch_frac (s : State) (k : Nat) (f : Launch → Launch) : (s.modLaunch k f).frac = s.frac := rfl
@[simp] theorem State.modLaunch_fresh (s : State) (k : Nat) (f : Launch → Launch) : (s.modLaunch k f).fresh = s.fresh := rfl
@[simp] theorem State.modLaunch_agenda (s : State) (k : Nat) (f : Launch → Launch) : (s.modLaunch k f).agenda = s.agenda := rfl
@[simp] theorem State.modLaunch_turn (s : State) (k : Nat) (f : Launch → Launch) : (s.modLaunch k f).turn = s.turn := rfl
@[simp] theorem State.modLaunch_tick (s : State) (k : Nat) (f : Launch → Launch) : (s.modLaunch k f).tick = s.tick := rfl

/-! ### `toFw` -/

@[simp] theorem State.toFw_fw (s : State) (r : FwRec) : (s.toFw r).fw = s.fw ++ [r] := rfl
@[simp] theorem State.toFw_co (s : State) (r : FwRec) : (s.toFw r).co = s.co := rfl
@[simp] theorem State.toFw_others (s : State) (r : FwRec) : (s.toFw r).others = s.others := rfl
@[simp] theorem State.toFw_blocks (s : State) (r : FwRec) : (s.toFw r).blocks = s.blocks := rfl
@[simp] theorem State.toFw_launches (s : State) (r : FwRec) : (s.toFw r).launches = s.launches := rfl
@[simp] theorem State.toFw_cores (s : State) (r : FwRec) : (s.toFw r).cores = s.cores := rfl
@[simp] theorem State.toFw_pairs (s : State) (r : FwRec) : (s.toFw r).pairs = s.pairs := rfl
@[simp] theorem State.toFw_slices (s : State) (r : FwRec) : (s.toFw r).slices = s.slices := rfl
@[simp] theorem State.toFw_dies (s : State) (r : FwRec) : (s.toFw r).dies = s.dies := rfl
@[simp] theorem State.toFw_mem (s : State) (r : FwRec) : (s.toFw r).mem = s.mem := rfl
@[simp] theorem State.toFw_poison (s : State) (r : FwRec) : (s.toFw r).poison = s.poison := rfl
@[simp] theorem State.toFw_ends (s : State) (r : FwRec) : (s.toFw r).ends = s.ends := rfl
@[simp] theorem State.toFw_flying (s : State) (r : FwRec) : (s.toFw r).flying = s.flying := rfl
@[simp] theorem State.toFw_arrivals (s : State) (r : FwRec) : (s.toFw r).arrivals = s.arrivals := rfl
@[simp] theorem State.toFw_plans (s : State) (r : FwRec) : (s.toFw r).plans = s.plans := rfl
@[simp] theorem State.toFw_packets (s : State) (r : FwRec) : (s.toFw r).packets = s.packets := rfl
@[simp] theorem State.toFw_fabric (s : State) (r : FwRec) : (s.toFw r).fabric = s.fabric := rfl
@[simp] theorem State.toFw_host (s : State) (r : FwRec) : (s.toFw r).host = s.host := rfl
@[simp] theorem State.toFw_power (s : State) (r : FwRec) : (s.toFw r).power = s.power := rfl
@[simp] theorem State.toFw_setup (s : State) (r : FwRec) : (s.toFw r).setup = s.setup := rfl
@[simp] theorem State.toFw_dbg (s : State) (r : FwRec) : (s.toFw r).dbg = s.dbg := rfl
@[simp] theorem State.toFw_dead (s : State) (r : FwRec) : (s.toFw r).dead = s.dead := rfl
@[simp] theorem State.toFw_descs (s : State) (r : FwRec) : (s.toFw r).descs = s.descs := rfl
@[simp] theorem State.toFw_invalid (s : State) (r : FwRec) : (s.toFw r).invalid = s.invalid := rfl
@[simp] theorem State.toFw_cycle (s : State) (r : FwRec) : (s.toFw r).cycle = s.cycle := rfl
@[simp] theorem State.toFw_time (s : State) (r : FwRec) : (s.toFw r).time = s.time := rfl
@[simp] theorem State.toFw_frac (s : State) (r : FwRec) : (s.toFw r).frac = s.frac := rfl
@[simp] theorem State.toFw_fresh (s : State) (r : FwRec) : (s.toFw r).fresh = s.fresh := rfl
@[simp] theorem State.toFw_agenda (s : State) (r : FwRec) : (s.toFw r).agenda = s.agenda := rfl
@[simp] theorem State.toFw_turn (s : State) (r : FwRec) : (s.toFw r).turn = s.turn := rfl
@[simp] theorem State.toFw_tick (s : State) (r : FwRec) : (s.toFw r).tick = s.tick := rfl

/-! ### `toAgent` -/

@[simp] theorem State.toAgent_dbg (s : State) (r : AgentRec) : (s.toAgent r).dbg = { s.dbg with records := s.dbg.records ++ [r] } := rfl
@[simp] theorem State.toAgent_co (s : State) (r : AgentRec) : (s.toAgent r).co = s.co := rfl
@[simp] theorem State.toAgent_others (s : State) (r : AgentRec) : (s.toAgent r).others = s.others := rfl
@[simp] theorem State.toAgent_blocks (s : State) (r : AgentRec) : (s.toAgent r).blocks = s.blocks := rfl
@[simp] theorem State.toAgent_launches (s : State) (r : AgentRec) : (s.toAgent r).launches = s.launches := rfl
@[simp] theorem State.toAgent_cores (s : State) (r : AgentRec) : (s.toAgent r).cores = s.cores := rfl
@[simp] theorem State.toAgent_pairs (s : State) (r : AgentRec) : (s.toAgent r).pairs = s.pairs := rfl
@[simp] theorem State.toAgent_slices (s : State) (r : AgentRec) : (s.toAgent r).slices = s.slices := rfl
@[simp] theorem State.toAgent_dies (s : State) (r : AgentRec) : (s.toAgent r).dies = s.dies := rfl
@[simp] theorem State.toAgent_mem (s : State) (r : AgentRec) : (s.toAgent r).mem = s.mem := rfl
@[simp] theorem State.toAgent_poison (s : State) (r : AgentRec) : (s.toAgent r).poison = s.poison := rfl
@[simp] theorem State.toAgent_ends (s : State) (r : AgentRec) : (s.toAgent r).ends = s.ends := rfl
@[simp] theorem State.toAgent_flying (s : State) (r : AgentRec) : (s.toAgent r).flying = s.flying := rfl
@[simp] theorem State.toAgent_arrivals (s : State) (r : AgentRec) : (s.toAgent r).arrivals = s.arrivals := rfl
@[simp] theorem State.toAgent_plans (s : State) (r : AgentRec) : (s.toAgent r).plans = s.plans := rfl
@[simp] theorem State.toAgent_packets (s : State) (r : AgentRec) : (s.toAgent r).packets = s.packets := rfl
@[simp] theorem State.toAgent_fabric (s : State) (r : AgentRec) : (s.toAgent r).fabric = s.fabric := rfl
@[simp] theorem State.toAgent_host (s : State) (r : AgentRec) : (s.toAgent r).host = s.host := rfl
@[simp] theorem State.toAgent_power (s : State) (r : AgentRec) : (s.toAgent r).power = s.power := rfl
@[simp] theorem State.toAgent_setup (s : State) (r : AgentRec) : (s.toAgent r).setup = s.setup := rfl
@[simp] theorem State.toAgent_fw (s : State) (r : AgentRec) : (s.toAgent r).fw = s.fw := rfl
@[simp] theorem State.toAgent_dead (s : State) (r : AgentRec) : (s.toAgent r).dead = s.dead := rfl
@[simp] theorem State.toAgent_descs (s : State) (r : AgentRec) : (s.toAgent r).descs = s.descs := rfl
@[simp] theorem State.toAgent_invalid (s : State) (r : AgentRec) : (s.toAgent r).invalid = s.invalid := rfl
@[simp] theorem State.toAgent_cycle (s : State) (r : AgentRec) : (s.toAgent r).cycle = s.cycle := rfl
@[simp] theorem State.toAgent_time (s : State) (r : AgentRec) : (s.toAgent r).time = s.time := rfl
@[simp] theorem State.toAgent_frac (s : State) (r : AgentRec) : (s.toAgent r).frac = s.frac := rfl
@[simp] theorem State.toAgent_fresh (s : State) (r : AgentRec) : (s.toAgent r).fresh = s.fresh := rfl
@[simp] theorem State.toAgent_agenda (s : State) (r : AgentRec) : (s.toAgent r).agenda = s.agenda := rfl
@[simp] theorem State.toAgent_turn (s : State) (r : AgentRec) : (s.toAgent r).turn = s.turn := rfl
@[simp] theorem State.toAgent_tick (s : State) (r : AgentRec) : (s.toAgent r).tick = s.tick := rfl

/-! ### `homePut` -/

@[simp] theorem State.homePut_mem (s : State) (pa : Nat) (bs : List Byte) : (s.homePut pa bs).mem = s.mem.write Config.blankByte pa bs := rfl
@[simp] theorem State.homePut_co (s : State) (pa : Nat) (bs : List Byte) : (s.homePut pa bs).co = s.co := rfl
@[simp] theorem State.homePut_others (s : State) (pa : Nat) (bs : List Byte) : (s.homePut pa bs).others = s.others := rfl
@[simp] theorem State.homePut_blocks (s : State) (pa : Nat) (bs : List Byte) : (s.homePut pa bs).blocks = s.blocks := rfl
@[simp] theorem State.homePut_launches (s : State) (pa : Nat) (bs : List Byte) : (s.homePut pa bs).launches = s.launches := rfl
@[simp] theorem State.homePut_cores (s : State) (pa : Nat) (bs : List Byte) : (s.homePut pa bs).cores = s.cores := rfl
@[simp] theorem State.homePut_pairs (s : State) (pa : Nat) (bs : List Byte) : (s.homePut pa bs).pairs = s.pairs := rfl
@[simp] theorem State.homePut_slices (s : State) (pa : Nat) (bs : List Byte) : (s.homePut pa bs).slices = s.slices := rfl
@[simp] theorem State.homePut_dies (s : State) (pa : Nat) (bs : List Byte) : (s.homePut pa bs).dies = s.dies := rfl
@[simp] theorem State.homePut_poison (s : State) (pa : Nat) (bs : List Byte) : (s.homePut pa bs).poison = s.poison := rfl
@[simp] theorem State.homePut_ends (s : State) (pa : Nat) (bs : List Byte) : (s.homePut pa bs).ends = s.ends := rfl
@[simp] theorem State.homePut_flying (s : State) (pa : Nat) (bs : List Byte) : (s.homePut pa bs).flying = s.flying := rfl
@[simp] theorem State.homePut_arrivals (s : State) (pa : Nat) (bs : List Byte) : (s.homePut pa bs).arrivals = s.arrivals := rfl
@[simp] theorem State.homePut_plans (s : State) (pa : Nat) (bs : List Byte) : (s.homePut pa bs).plans = s.plans := rfl
@[simp] theorem State.homePut_packets (s : State) (pa : Nat) (bs : List Byte) : (s.homePut pa bs).packets = s.packets := rfl
@[simp] theorem State.homePut_fabric (s : State) (pa : Nat) (bs : List Byte) : (s.homePut pa bs).fabric = s.fabric := rfl
@[simp] theorem State.homePut_host (s : State) (pa : Nat) (bs : List Byte) : (s.homePut pa bs).host = s.host := rfl
@[simp] theorem State.homePut_power (s : State) (pa : Nat) (bs : List Byte) : (s.homePut pa bs).power = s.power := rfl
@[simp] theorem State.homePut_setup (s : State) (pa : Nat) (bs : List Byte) : (s.homePut pa bs).setup = s.setup := rfl
@[simp] theorem State.homePut_dbg (s : State) (pa : Nat) (bs : List Byte) : (s.homePut pa bs).dbg = s.dbg := rfl
@[simp] theorem State.homePut_fw (s : State) (pa : Nat) (bs : List Byte) : (s.homePut pa bs).fw = s.fw := rfl
@[simp] theorem State.homePut_dead (s : State) (pa : Nat) (bs : List Byte) : (s.homePut pa bs).dead = s.dead := rfl
@[simp] theorem State.homePut_descs (s : State) (pa : Nat) (bs : List Byte) : (s.homePut pa bs).descs = s.descs := rfl
@[simp] theorem State.homePut_invalid (s : State) (pa : Nat) (bs : List Byte) : (s.homePut pa bs).invalid = s.invalid := rfl
@[simp] theorem State.homePut_cycle (s : State) (pa : Nat) (bs : List Byte) : (s.homePut pa bs).cycle = s.cycle := rfl
@[simp] theorem State.homePut_time (s : State) (pa : Nat) (bs : List Byte) : (s.homePut pa bs).time = s.time := rfl
@[simp] theorem State.homePut_frac (s : State) (pa : Nat) (bs : List Byte) : (s.homePut pa bs).frac = s.frac := rfl
@[simp] theorem State.homePut_fresh (s : State) (pa : Nat) (bs : List Byte) : (s.homePut pa bs).fresh = s.fresh := rfl
@[simp] theorem State.homePut_agenda (s : State) (pa : Nat) (bs : List Byte) : (s.homePut pa bs).agenda = s.agenda := rfl
@[simp] theorem State.homePut_turn (s : State) (pa : Nat) (bs : List Byte) : (s.homePut pa bs).turn = s.turn := rfl
@[simp] theorem State.homePut_tick (s : State) (pa : Nat) (bs : List Byte) : (s.homePut pa bs).tick = s.tick := rfl

/-! ### Cohorts -/

@[simp] theorem Cohort.mapStrands_st (c : Cohort) (f : Strand → Strand) : (c.mapStrands f).st = f c.st := rfl
@[simp] theorem Cohort.mapStrands_sibs (c : Cohort) (f : Strand → Strand) : (c.mapStrands f).sibs = c.sibs.map f := rfl
@[simp] theorem Cohort.mapStrands_uid (c : Cohort) (f : Strand → Strand) : (c.mapStrands f).uid = c.uid := rfl
@[simp] theorem Cohort.mapStrands_block (c : Cohort) (f : Strand → Strand) : (c.mapStrands f).block = c.block := rfl
@[simp] theorem Cohort.mapStrands_launch (c : Cohort) (f : Strand → Strand) : (c.mapStrands f).launch = c.launch := rfl
@[simp] theorem Cohort.mapStrands_core (c : Cohort) (f : Strand → Strand) : (c.mapStrands f).core = c.core := rfl
@[simp] theorem Cohort.mapStrands_half (c : Cohort) (f : Strand → Strand) : (c.mapStrands f).half = c.half := rfl
@[simp] theorem Cohort.mapStrands_slot (c : Cohort) (f : Strand → Strand) : (c.mapStrands f).slot = c.slot := rfl
@[simp] theorem Cohort.mapStrands_cid (c : Cohort) (f : Strand → Strand) : (c.mapStrands f).cid = c.cid := rfl
@[simp] theorem Cohort.mapStrands_blockIdx (c : Cohort) (f : Strand → Strand) : (c.mapStrands f).blockIdx = c.blockIdx := rfl
@[simp] theorem Cohort.mapStrands_lvl (c : Cohort) (f : Strand → Strand) : (c.mapStrands f).lvl = c.lvl := rfl
@[simp] theorem Cohort.mapStrands_role (c : Cohort) (f : Strand → Strand) : (c.mapStrands f).role = c.role := rfl
@[simp] theorem Cohort.mapStrands_nregs (c : Cohort) (f : Strand → Strand) : (c.mapStrands f).nregs = c.nregs := rfl
@[simp] theorem Cohort.mapStrands_prio (c : Cohort) (f : Strand → Strand) : (c.mapStrands f).prio = c.prio := rfl
@[simp] theorem Cohort.mapStrands_started (c : Cohort) (f : Strand → Strand) : (c.mapStrands f).started = c.started := rfl
@[simp] theorem Cohort.mapStrands_task (c : Cohort) (f : Strand → Strand) : (c.mapStrands f).task = c.task := rfl
@[simp] theorem Cohort.mapStrands_v (c : Cohort) (f : Strand → Strand) : (c.mapStrands f).v = c.v := rfl
@[simp] theorem Cohort.mapStrands_s (c : Cohort) (f : Strand → Strand) : (c.mapStrands f).s = c.s := rfl
@[simp] theorem Cohort.mapStrands_z (c : Cohort) (f : Strand → Strand) : (c.mapStrands f).z = c.z := rfl
@[simp] theorem Cohort.mapStrands_link (c : Cohort) (f : Strand → Strand) : (c.mapStrands f).link = c.link := rfl
@[simp] theorem Cohort.mapStrands_fmode (c : Cohort) (f : Strand → Strand) : (c.mapStrands f).fmode = c.fmode := rfl
@[simp] theorem Cohort.mapStrands_wheyBase (c : Cohort) (f : Strand → Strand) : (c.mapStrands f).wheyBase = c.wheyBase := rfl
@[simp] theorem Cohort.mapStrands_szl (c : Cohort) (f : Strand → Strand) : (c.mapStrands f).szl = c.szl := rfl
@[simp] theorem Cohort.mapStrands_whey (c : Cohort) (f : Strand → Strand) : (c.mapStrands f).whey = c.whey := rfl
@[simp] theorem Cohort.mapStrands_wheyWb (c : Cohort) (f : Strand → Strand) : (c.mapStrands f).wheyWb = c.wheyWb := rfl
@[simp] theorem Cohort.mapStrands_stack (c : Cohort) (f : Strand → Strand) : (c.mapStrands f).stack = c.stack := rfl
@[simp] theorem Cohort.mapStrands_tm (c : Cohort) (f : Strand → Strand) : (c.mapStrands f).tm = c.tm := rfl
@[simp] theorem Cohort.mapStrands_dir (c : Cohort) (f : Strand → Strand) : (c.mapStrands f).dir = c.dir := rfl
@[simp] theorem Cohort.mapStrands_walk (c : Cohort) (f : Strand → Strand) : (c.mapStrands f).walk = c.walk := rfl
@[simp] theorem Cohort.mapStrands_cause (c : Cohort) (f : Strand → Strand) : (c.mapStrands f).cause = c.cause := rfl
@[simp] theorem Cohort.mapStrands_tinfo (c : Cohort) (f : Strand → Strand) : (c.mapStrands f).tinfo = c.tinfo := rfl
@[simp] theorem Cohort.mapStrands_tpc (c : Cohort) (f : Strand → Strand) : (c.mapStrands f).tpc = c.tpc := rfl
@[simp] theorem Cohort.mapStrands_tpcWritten (c : Cohort) (f : Strand → Strand) : (c.mapStrands f).tpcWritten = c.tpcWritten := rfl
@[simp] theorem Cohort.mapStrands_hbase (c : Cohort) (f : Strand → Strand) : (c.mapStrands f).hbase = c.hbase := rfl
@[simp] theorem Cohort.mapStrands_hsave (c : Cohort) (f : Strand → Strand) : (c.mapStrands f).hsave = c.hsave := rfl
@[simp] theorem Cohort.mapStrands_trapped (c : Cohort) (f : Strand → Strand) : (c.mapStrands f).trapped = c.trapped := rfl
@[simp] theorem Cohort.mapStrands_exm (c : Cohort) (f : Strand → Strand) : (c.mapStrands f).exm = c.exm := rfl
@[simp] theorem Cohort.mapStrands_removed (c : Cohort) (f : Strand → Strand) : (c.mapStrands f).removed = c.removed := rfl
@[simp] theorem Cohort.mapStrands_qdrop (c : Cohort) (f : Strand → Strand) : (c.mapStrands f).qdrop = c.qdrop := rfl
@[simp] theorem Cohort.mapStrands_entry (c : Cohort) (f : Strand → Strand) : (c.mapStrands f).entry = c.entry := rfl
@[simp] theorem Cohort.mapStrands_handler (c : Cohort) (f : Strand → Strand) : (c.mapStrands f).handler = c.handler := rfl
@[simp] theorem Cohort.mapStrands_spawn (c : Cohort) (f : Strand → Strand) : (c.mapStrands f).spawn = c.spawn := rfl
@[simp] theorem Cohort.mapStrands_grants (c : Cohort) (f : Strand → Strand) : (c.mapStrands f).grants = c.grants := rfl
@[simp] theorem Cohort.mapStrands_mism (c : Cohort) (f : Strand → Strand) : (c.mapStrands f).mism = c.mism := rfl
@[simp] theorem Cohort.mapStrands_preempt (c : Cohort) (f : Strand → Strand) : (c.mapStrands f).preempt = c.preempt := rfl
@[simp] theorem Cohort.mapStrands_saved (c : Cohort) (f : Strand → Strand) : (c.mapStrands f).saved = c.saved := rfl
@[simp] theorem Cohort.mapStrands_tiles (c : Cohort) (f : Strand → Strand) : (c.mapStrands f).tiles = c.tiles := rfl
@[simp] theorem Cohort.mapStrands_halt (c : Cohort) (f : Strand → Strand) : (c.mapStrands f).halt = c.halt := rfl
@[simp] theorem Cohort.mapStrands_haltReq (c : Cohort) (f : Strand → Strand) : (c.mapStrands f).haltReq = c.haltReq := rfl
@[simp] theorem Cohort.mapStrands_stepping (c : Cohort) (f : Strand → Strand) : (c.mapStrands f).stepping = c.stepping := rfl
@[simp] theorem Cohort.mapStrands_debug (c : Cohort) (f : Strand → Strand) : (c.mapStrands f).debug = c.debug := rfl
@[simp] theorem Cohort.mapStrands_stalls (c : Cohort) (f : Strand → Strand) : (c.mapStrands f).stalls = c.stalls := rfl
@[simp] theorem Cohort.mapStrands_traced (c : Cohort) (f : Strand → Strand) : (c.mapStrands f).traced = c.traced := rfl
@[simp] theorem Cohort.mapStrands_sinceSync (c : Cohort) (f : Strand → Strand) : (c.mapStrands f).sinceSync = c.sinceSync := rfl
@[simp] theorem Cohort.mapStrands_ending (c : Cohort) (f : Strand → Strand) : (c.mapStrands f).ending = c.ending := rfl
@[simp] theorem Cohort.mapStrands_closing (c : Cohort) (f : Strand → Strand) : (c.mapStrands f).closing = c.closing := rfl

@[simp] theorem Cohort.commit_uid (c : Cohort) : c.commit.uid = c.uid := rfl
@[simp] theorem Cohort.commit_block (c : Cohort) : c.commit.block = c.block := rfl
@[simp] theorem Cohort.commit_launch (c : Cohort) : c.commit.launch = c.launch := rfl
@[simp] theorem Cohort.commit_core (c : Cohort) : c.commit.core = c.core := rfl
@[simp] theorem Cohort.commit_half (c : Cohort) : c.commit.half = c.half := rfl
@[simp] theorem Cohort.commit_slot (c : Cohort) : c.commit.slot = c.slot := rfl
@[simp] theorem Cohort.commit_cid (c : Cohort) : c.commit.cid = c.cid := rfl
@[simp] theorem Cohort.commit_blockIdx (c : Cohort) : c.commit.blockIdx = c.blockIdx := rfl
@[simp] theorem Cohort.commit_lvl (c : Cohort) : c.commit.lvl = c.lvl := rfl
@[simp] theorem Cohort.commit_role (c : Cohort) : c.commit.role = c.role := rfl
@[simp] theorem Cohort.commit_nregs (c : Cohort) : c.commit.nregs = c.nregs := rfl
@[simp] theorem Cohort.commit_prio (c : Cohort) : c.commit.prio = c.prio := rfl
@[simp] theorem Cohort.commit_started (c : Cohort) : c.commit.started = c.started := rfl
@[simp] theorem Cohort.commit_task (c : Cohort) : c.commit.task = c.task := rfl
@[simp] theorem Cohort.commit_v (c : Cohort) : c.commit.v = c.v := rfl
@[simp] theorem Cohort.commit_s (c : Cohort) : c.commit.s = c.s := rfl
@[simp] theorem Cohort.commit_z (c : Cohort) : c.commit.z = c.z := rfl
@[simp] theorem Cohort.commit_link (c : Cohort) : c.commit.link = c.link := rfl
@[simp] theorem Cohort.commit_fmode (c : Cohort) : c.commit.fmode = c.fmode := rfl
@[simp] theorem Cohort.commit_wheyBase (c : Cohort) : c.commit.wheyBase = c.wheyBase := rfl
@[simp] theorem Cohort.commit_szl (c : Cohort) : c.commit.szl = c.szl := rfl
@[simp] theorem Cohort.commit_whey (c : Cohort) : c.commit.whey = [] := rfl
@[simp] theorem Cohort.commit_wheyWb (c : Cohort) : c.commit.wheyWb = 0 := rfl
@[simp] theorem Cohort.commit_stack (c : Cohort) : c.commit.stack = c.stack := rfl
@[simp] theorem Cohort.commit_tm (c : Cohort) : c.commit.tm = c.tm := rfl
@[simp] theorem Cohort.commit_dir (c : Cohort) : c.commit.dir = c.dir := rfl
@[simp] theorem Cohort.commit_walk (c : Cohort) : c.commit.walk = c.walk := rfl
@[simp] theorem Cohort.commit_cause (c : Cohort) : c.commit.cause = c.cause := rfl
@[simp] theorem Cohort.commit_tinfo (c : Cohort) : c.commit.tinfo = c.tinfo := rfl
@[simp] theorem Cohort.commit_tpc (c : Cohort) : c.commit.tpc = c.tpc := rfl
@[simp] theorem Cohort.commit_tpcWritten (c : Cohort) : c.commit.tpcWritten = c.tpcWritten := rfl
@[simp] theorem Cohort.commit_hbase (c : Cohort) : c.commit.hbase = c.hbase := rfl
@[simp] theorem Cohort.commit_hsave (c : Cohort) : c.commit.hsave = c.hsave := rfl
@[simp] theorem Cohort.commit_trapped (c : Cohort) : c.commit.trapped = c.trapped := rfl
@[simp] theorem Cohort.commit_exm (c : Cohort) : c.commit.exm = c.exm := rfl
@[simp] theorem Cohort.commit_removed (c : Cohort) : c.commit.removed = c.removed := rfl
@[simp] theorem Cohort.commit_qdrop (c : Cohort) : c.commit.qdrop = c.qdrop := rfl
@[simp] theorem Cohort.commit_entry (c : Cohort) : c.commit.entry = c.entry := rfl
@[simp] theorem Cohort.commit_handler (c : Cohort) : c.commit.handler = c.handler := rfl
@[simp] theorem Cohort.commit_spawn (c : Cohort) : c.commit.spawn = c.spawn := rfl
@[simp] theorem Cohort.commit_grants (c : Cohort) : c.commit.grants = c.grants := rfl
@[simp] theorem Cohort.commit_mism (c : Cohort) : c.commit.mism = [] := rfl
@[simp] theorem Cohort.commit_preempt (c : Cohort) : c.commit.preempt = c.preempt := rfl
@[simp] theorem Cohort.commit_saved (c : Cohort) : c.commit.saved = c.saved := rfl
@[simp] theorem Cohort.commit_tiles (c : Cohort) : c.commit.tiles = c.tiles := rfl
@[simp] theorem Cohort.commit_halt (c : Cohort) : c.commit.halt = c.halt := rfl
@[simp] theorem Cohort.commit_haltReq (c : Cohort) : c.commit.haltReq = c.haltReq := rfl
@[simp] theorem Cohort.commit_stepping (c : Cohort) : c.commit.stepping = c.stepping := rfl
@[simp] theorem Cohort.commit_debug (c : Cohort) : c.commit.debug = c.debug := rfl
@[simp] theorem Cohort.commit_stalls (c : Cohort) : c.commit.stalls = c.stalls := rfl
@[simp] theorem Cohort.commit_traced (c : Cohort) : c.commit.traced = c.traced := rfl
@[simp] theorem Cohort.commit_sinceSync (c : Cohort) : c.commit.sinceSync = c.sinceSync := rfl
@[simp] theorem Cohort.commit_ending (c : Cohort) : c.commit.ending = c.ending := rfl
@[simp] theorem Cohort.commit_closing (c : Cohort) : c.commit.closing = c.closing := rfl

@[simp] theorem Cohort.pass_uid (c : Cohort) : c.pass.uid = c.uid := rfl
@[simp] theorem Cohort.pass_block (c : Cohort) : c.pass.block = c.block := rfl
@[simp] theorem Cohort.pass_launch (c : Cohort) : c.pass.launch = c.launch := rfl
@[simp] theorem Cohort.pass_core (c : Cohort) : c.pass.core = c.core := rfl
@[simp] theorem Cohort.pass_half (c : Cohort) : c.pass.half = c.half := rfl
@[simp] theorem Cohort.pass_slot (c : Cohort) : c.pass.slot = c.slot := rfl
@[simp] theorem Cohort.pass_cid (c : Cohort) : c.pass.cid = c.cid := rfl
@[simp] theorem Cohort.pass_blockIdx (c : Cohort) : c.pass.blockIdx = c.blockIdx := rfl
@[simp] theorem Cohort.pass_lvl (c : Cohort) : c.pass.lvl = c.lvl := rfl
@[simp] theorem Cohort.pass_role (c : Cohort) : c.pass.role = c.role := rfl
@[simp] theorem Cohort.pass_nregs (c : Cohort) : c.pass.nregs = c.nregs := rfl
@[simp] theorem Cohort.pass_prio (c : Cohort) : c.pass.prio = c.prio := rfl
@[simp] theorem Cohort.pass_started (c : Cohort) : c.pass.started = c.started := rfl
@[simp] theorem Cohort.pass_task (c : Cohort) : c.pass.task = c.task := rfl
@[simp] theorem Cohort.pass_v (c : Cohort) : c.pass.v = c.v := rfl
@[simp] theorem Cohort.pass_s (c : Cohort) : c.pass.s = c.s := rfl
@[simp] theorem Cohort.pass_z (c : Cohort) : c.pass.z = c.z := rfl
@[simp] theorem Cohort.pass_link (c : Cohort) : c.pass.link = c.link := rfl
@[simp] theorem Cohort.pass_fmode (c : Cohort) : c.pass.fmode = c.fmode := rfl
@[simp] theorem Cohort.pass_wheyBase (c : Cohort) : c.pass.wheyBase = c.wheyBase := rfl
@[simp] theorem Cohort.pass_szl (c : Cohort) : c.pass.szl = c.szl := rfl
@[simp] theorem Cohort.pass_whey (c : Cohort) : c.pass.whey = c.whey := rfl
@[simp] theorem Cohort.pass_wheyWb (c : Cohort) : c.pass.wheyWb = c.wheyWb := rfl
@[simp] theorem Cohort.pass_stack (c : Cohort) : c.pass.stack = c.stack := rfl
@[simp] theorem Cohort.pass_tm (c : Cohort) : c.pass.tm = c.tm := rfl
@[simp] theorem Cohort.pass_dir (c : Cohort) : c.pass.dir = c.dir := rfl
@[simp] theorem Cohort.pass_walk (c : Cohort) : c.pass.walk = c.walk := rfl
@[simp] theorem Cohort.pass_cause (c : Cohort) : c.pass.cause = c.cause := rfl
@[simp] theorem Cohort.pass_tinfo (c : Cohort) : c.pass.tinfo = c.tinfo := rfl
@[simp] theorem Cohort.pass_tpc (c : Cohort) : c.pass.tpc = c.tpc := rfl
@[simp] theorem Cohort.pass_tpcWritten (c : Cohort) : c.pass.tpcWritten = c.tpcWritten := rfl
@[simp] theorem Cohort.pass_hbase (c : Cohort) : c.pass.hbase = c.hbase := rfl
@[simp] theorem Cohort.pass_hsave (c : Cohort) : c.pass.hsave = c.hsave := rfl
@[simp] theorem Cohort.pass_trapped (c : Cohort) : c.pass.trapped = c.trapped := rfl
@[simp] theorem Cohort.pass_exm (c : Cohort) : c.pass.exm = c.exm := rfl
@[simp] theorem Cohort.pass_removed (c : Cohort) : c.pass.removed = c.removed := rfl
@[simp] theorem Cohort.pass_qdrop (c : Cohort) : c.pass.qdrop = c.qdrop := rfl
@[simp] theorem Cohort.pass_entry (c : Cohort) : c.pass.entry = c.entry := rfl
@[simp] theorem Cohort.pass_handler (c : Cohort) : c.pass.handler = c.handler := rfl
@[simp] theorem Cohort.pass_spawn (c : Cohort) : c.pass.spawn = c.spawn := rfl
@[simp] theorem Cohort.pass_grants (c : Cohort) : c.pass.grants = c.grants := rfl
@[simp] theorem Cohort.pass_mism (c : Cohort) : c.pass.mism = [] := rfl
@[simp] theorem Cohort.pass_preempt (c : Cohort) : c.pass.preempt = c.preempt := rfl
@[simp] theorem Cohort.pass_saved (c : Cohort) : c.pass.saved = c.saved := rfl
@[simp] theorem Cohort.pass_tiles (c : Cohort) : c.pass.tiles = c.tiles := rfl
@[simp] theorem Cohort.pass_halt (c : Cohort) : c.pass.halt = c.halt := rfl
@[simp] theorem Cohort.pass_haltReq (c : Cohort) : c.pass.haltReq = c.haltReq := rfl
@[simp] theorem Cohort.pass_stepping (c : Cohort) : c.pass.stepping = c.stepping := rfl
@[simp] theorem Cohort.pass_debug (c : Cohort) : c.pass.debug = c.debug := rfl
@[simp] theorem Cohort.pass_stalls (c : Cohort) : c.pass.stalls = c.stalls := rfl
@[simp] theorem Cohort.pass_traced (c : Cohort) : c.pass.traced = c.traced := rfl
@[simp] theorem Cohort.pass_sinceSync (c : Cohort) : c.pass.sinceSync = c.sinceSync := rfl
@[simp] theorem Cohort.pass_ending (c : Cohort) : c.pass.ending = c.ending := rfl
@[simp] theorem Cohort.pass_closing (c : Cohort) : c.pass.closing = c.closing := rfl

@[simp] theorem Cohort.pushRecs_uid (c : Cohort) (n : Word) (bs : List RecBody) : (c.pushRecs n bs).uid = c.uid := rfl
@[simp] theorem Cohort.pushRecs_block (c : Cohort) (n : Word) (bs : List RecBody) : (c.pushRecs n bs).block = c.block := rfl
@[simp] theorem Cohort.pushRecs_launch (c : Cohort) (n : Word) (bs : List RecBody) : (c.pushRecs n bs).launch = c.launch := rfl
@[simp] theorem Cohort.pushRecs_core (c : Cohort) (n : Word) (bs : List RecBody) : (c.pushRecs n bs).core = c.core := rfl
@[simp] theorem Cohort.pushRecs_half (c : Cohort) (n : Word) (bs : List RecBody) : (c.pushRecs n bs).half = c.half := rfl
@[simp] theorem Cohort.pushRecs_slot (c : Cohort) (n : Word) (bs : List RecBody) : (c.pushRecs n bs).slot = c.slot := rfl
@[simp] theorem Cohort.pushRecs_cid (c : Cohort) (n : Word) (bs : List RecBody) : (c.pushRecs n bs).cid = c.cid := rfl
@[simp] theorem Cohort.pushRecs_blockIdx (c : Cohort) (n : Word) (bs : List RecBody) : (c.pushRecs n bs).blockIdx = c.blockIdx := rfl
@[simp] theorem Cohort.pushRecs_lvl (c : Cohort) (n : Word) (bs : List RecBody) : (c.pushRecs n bs).lvl = c.lvl := rfl
@[simp] theorem Cohort.pushRecs_role (c : Cohort) (n : Word) (bs : List RecBody) : (c.pushRecs n bs).role = c.role := rfl
@[simp] theorem Cohort.pushRecs_nregs (c : Cohort) (n : Word) (bs : List RecBody) : (c.pushRecs n bs).nregs = c.nregs := rfl
@[simp] theorem Cohort.pushRecs_prio (c : Cohort) (n : Word) (bs : List RecBody) : (c.pushRecs n bs).prio = c.prio := rfl
@[simp] theorem Cohort.pushRecs_started (c : Cohort) (n : Word) (bs : List RecBody) : (c.pushRecs n bs).started = c.started := rfl
@[simp] theorem Cohort.pushRecs_task (c : Cohort) (n : Word) (bs : List RecBody) : (c.pushRecs n bs).task = c.task := rfl
@[simp] theorem Cohort.pushRecs_v (c : Cohort) (n : Word) (bs : List RecBody) : (c.pushRecs n bs).v = c.v := rfl
@[simp] theorem Cohort.pushRecs_s (c : Cohort) (n : Word) (bs : List RecBody) : (c.pushRecs n bs).s = c.s := rfl
@[simp] theorem Cohort.pushRecs_z (c : Cohort) (n : Word) (bs : List RecBody) : (c.pushRecs n bs).z = c.z := rfl
@[simp] theorem Cohort.pushRecs_link (c : Cohort) (n : Word) (bs : List RecBody) : (c.pushRecs n bs).link = c.link := rfl
@[simp] theorem Cohort.pushRecs_fmode (c : Cohort) (n : Word) (bs : List RecBody) : (c.pushRecs n bs).fmode = c.fmode := rfl
@[simp] theorem Cohort.pushRecs_wheyBase (c : Cohort) (n : Word) (bs : List RecBody) : (c.pushRecs n bs).wheyBase = c.wheyBase := rfl
@[simp] theorem Cohort.pushRecs_szl (c : Cohort) (n : Word) (bs : List RecBody) : (c.pushRecs n bs).szl = c.szl := rfl
@[simp] theorem Cohort.pushRecs_wheyWb (c : Cohort) (n : Word) (bs : List RecBody) : (c.pushRecs n bs).wheyWb = c.wheyWb := rfl
@[simp] theorem Cohort.pushRecs_stack (c : Cohort) (n : Word) (bs : List RecBody) : (c.pushRecs n bs).stack = c.stack := rfl
@[simp] theorem Cohort.pushRecs_tm (c : Cohort) (n : Word) (bs : List RecBody) : (c.pushRecs n bs).tm = c.tm := rfl
@[simp] theorem Cohort.pushRecs_dir (c : Cohort) (n : Word) (bs : List RecBody) : (c.pushRecs n bs).dir = c.dir := rfl
@[simp] theorem Cohort.pushRecs_walk (c : Cohort) (n : Word) (bs : List RecBody) : (c.pushRecs n bs).walk = c.walk := rfl
@[simp] theorem Cohort.pushRecs_cause (c : Cohort) (n : Word) (bs : List RecBody) : (c.pushRecs n bs).cause = c.cause := rfl
@[simp] theorem Cohort.pushRecs_tinfo (c : Cohort) (n : Word) (bs : List RecBody) : (c.pushRecs n bs).tinfo = c.tinfo := rfl
@[simp] theorem Cohort.pushRecs_tpc (c : Cohort) (n : Word) (bs : List RecBody) : (c.pushRecs n bs).tpc = c.tpc := rfl
@[simp] theorem Cohort.pushRecs_tpcWritten (c : Cohort) (n : Word) (bs : List RecBody) : (c.pushRecs n bs).tpcWritten = c.tpcWritten := rfl
@[simp] theorem Cohort.pushRecs_hbase (c : Cohort) (n : Word) (bs : List RecBody) : (c.pushRecs n bs).hbase = c.hbase := rfl
@[simp] theorem Cohort.pushRecs_hsave (c : Cohort) (n : Word) (bs : List RecBody) : (c.pushRecs n bs).hsave = c.hsave := rfl
@[simp] theorem Cohort.pushRecs_trapped (c : Cohort) (n : Word) (bs : List RecBody) : (c.pushRecs n bs).trapped = c.trapped := rfl
@[simp] theorem Cohort.pushRecs_exm (c : Cohort) (n : Word) (bs : List RecBody) : (c.pushRecs n bs).exm = c.exm := rfl
@[simp] theorem Cohort.pushRecs_removed (c : Cohort) (n : Word) (bs : List RecBody) : (c.pushRecs n bs).removed = c.removed := rfl
@[simp] theorem Cohort.pushRecs_qdrop (c : Cohort) (n : Word) (bs : List RecBody) : (c.pushRecs n bs).qdrop = c.qdrop := rfl
@[simp] theorem Cohort.pushRecs_entry (c : Cohort) (n : Word) (bs : List RecBody) : (c.pushRecs n bs).entry = c.entry := rfl
@[simp] theorem Cohort.pushRecs_handler (c : Cohort) (n : Word) (bs : List RecBody) : (c.pushRecs n bs).handler = c.handler := rfl
@[simp] theorem Cohort.pushRecs_spawn (c : Cohort) (n : Word) (bs : List RecBody) : (c.pushRecs n bs).spawn = c.spawn := rfl
@[simp] theorem Cohort.pushRecs_grants (c : Cohort) (n : Word) (bs : List RecBody) : (c.pushRecs n bs).grants = c.grants := rfl
@[simp] theorem Cohort.pushRecs_mism (c : Cohort) (n : Word) (bs : List RecBody) : (c.pushRecs n bs).mism = c.mism := rfl
@[simp] theorem Cohort.pushRecs_preempt (c : Cohort) (n : Word) (bs : List RecBody) : (c.pushRecs n bs).preempt = c.preempt := rfl
@[simp] theorem Cohort.pushRecs_saved (c : Cohort) (n : Word) (bs : List RecBody) : (c.pushRecs n bs).saved = c.saved := rfl
@[simp] theorem Cohort.pushRecs_tiles (c : Cohort) (n : Word) (bs : List RecBody) : (c.pushRecs n bs).tiles = c.tiles := rfl
@[simp] theorem Cohort.pushRecs_halt (c : Cohort) (n : Word) (bs : List RecBody) : (c.pushRecs n bs).halt = c.halt := rfl
@[simp] theorem Cohort.pushRecs_haltReq (c : Cohort) (n : Word) (bs : List RecBody) : (c.pushRecs n bs).haltReq = c.haltReq := rfl
@[simp] theorem Cohort.pushRecs_stepping (c : Cohort) (n : Word) (bs : List RecBody) : (c.pushRecs n bs).stepping = c.stepping := rfl
@[simp] theorem Cohort.pushRecs_debug (c : Cohort) (n : Word) (bs : List RecBody) : (c.pushRecs n bs).debug = c.debug := rfl
@[simp] theorem Cohort.pushRecs_stalls (c : Cohort) (n : Word) (bs : List RecBody) : (c.pushRecs n bs).stalls = c.stalls := rfl
@[simp] theorem Cohort.pushRecs_traced (c : Cohort) (n : Word) (bs : List RecBody) : (c.pushRecs n bs).traced = c.traced := rfl
@[simp] theorem Cohort.pushRecs_sinceSync (c : Cohort) (n : Word) (bs : List RecBody) : (c.pushRecs n bs).sinceSync = c.sinceSync := rfl
@[simp] theorem Cohort.pushRecs_ending (c : Cohort) (n : Word) (bs : List RecBody) : (c.pushRecs n bs).ending = c.ending := rfl
@[simp] theorem Cohort.pushRecs_closing (c : Cohort) (n : Word) (bs : List RecBody) : (c.pushRecs n bs).closing = c.closing := rfl

@[simp] theorem Cohort.recordArrival_uid (c : Cohort) (p : DWord) (n : Word) (b : Bool) : (c.recordArrival p n b).uid = c.uid := rfl
@[simp] theorem Cohort.recordArrival_block (c : Cohort) (p : DWord) (n : Word) (b : Bool) : (c.recordArrival p n b).block = c.block := rfl
@[simp] theorem Cohort.recordArrival_launch (c : Cohort) (p : DWord) (n : Word) (b : Bool) : (c.recordArrival p n b).launch = c.launch := rfl
@[simp] theorem Cohort.recordArrival_core (c : Cohort) (p : DWord) (n : Word) (b : Bool) : (c.recordArrival p n b).core = c.core := rfl
@[simp] theorem Cohort.recordArrival_half (c : Cohort) (p : DWord) (n : Word) (b : Bool) : (c.recordArrival p n b).half = c.half := rfl
@[simp] theorem Cohort.recordArrival_slot (c : Cohort) (p : DWord) (n : Word) (b : Bool) : (c.recordArrival p n b).slot = c.slot := rfl
@[simp] theorem Cohort.recordArrival_cid (c : Cohort) (p : DWord) (n : Word) (b : Bool) : (c.recordArrival p n b).cid = c.cid := rfl
@[simp] theorem Cohort.recordArrival_blockIdx (c : Cohort) (p : DWord) (n : Word) (b : Bool) : (c.recordArrival p n b).blockIdx = c.blockIdx := rfl
@[simp] theorem Cohort.recordArrival_lvl (c : Cohort) (p : DWord) (n : Word) (b : Bool) : (c.recordArrival p n b).lvl = c.lvl := rfl
@[simp] theorem Cohort.recordArrival_role (c : Cohort) (p : DWord) (n : Word) (b : Bool) : (c.recordArrival p n b).role = c.role := rfl
@[simp] theorem Cohort.recordArrival_nregs (c : Cohort) (p : DWord) (n : Word) (b : Bool) : (c.recordArrival p n b).nregs = c.nregs := rfl
@[simp] theorem Cohort.recordArrival_prio (c : Cohort) (p : DWord) (n : Word) (b : Bool) : (c.recordArrival p n b).prio = c.prio := rfl
@[simp] theorem Cohort.recordArrival_started (c : Cohort) (p : DWord) (n : Word) (b : Bool) : (c.recordArrival p n b).started = c.started := rfl
@[simp] theorem Cohort.recordArrival_task (c : Cohort) (p : DWord) (n : Word) (b : Bool) : (c.recordArrival p n b).task = c.task := rfl
@[simp] theorem Cohort.recordArrival_v (c : Cohort) (p : DWord) (n : Word) (b : Bool) : (c.recordArrival p n b).v = c.v := rfl
@[simp] theorem Cohort.recordArrival_s (c : Cohort) (p : DWord) (n : Word) (b : Bool) : (c.recordArrival p n b).s = c.s := rfl
@[simp] theorem Cohort.recordArrival_z (c : Cohort) (p : DWord) (n : Word) (b : Bool) : (c.recordArrival p n b).z = c.z := rfl
@[simp] theorem Cohort.recordArrival_link (c : Cohort) (p : DWord) (n : Word) (b : Bool) : (c.recordArrival p n b).link = c.link := rfl
@[simp] theorem Cohort.recordArrival_fmode (c : Cohort) (p : DWord) (n : Word) (b : Bool) : (c.recordArrival p n b).fmode = c.fmode := rfl
@[simp] theorem Cohort.recordArrival_wheyBase (c : Cohort) (p : DWord) (n : Word) (b : Bool) : (c.recordArrival p n b).wheyBase = c.wheyBase := rfl
@[simp] theorem Cohort.recordArrival_szl (c : Cohort) (p : DWord) (n : Word) (b : Bool) : (c.recordArrival p n b).szl = c.szl := rfl
@[simp] theorem Cohort.recordArrival_wheyWb (c : Cohort) (p : DWord) (n : Word) (b : Bool) : (c.recordArrival p n b).wheyWb = c.wheyWb := rfl
@[simp] theorem Cohort.recordArrival_stack (c : Cohort) (p : DWord) (n : Word) (b : Bool) : (c.recordArrival p n b).stack = c.stack := rfl
@[simp] theorem Cohort.recordArrival_tm (c : Cohort) (p : DWord) (n : Word) (b : Bool) : (c.recordArrival p n b).tm = c.tm := rfl
@[simp] theorem Cohort.recordArrival_dir (c : Cohort) (p : DWord) (n : Word) (b : Bool) : (c.recordArrival p n b).dir = c.dir := rfl
@[simp] theorem Cohort.recordArrival_walk (c : Cohort) (p : DWord) (n : Word) (b : Bool) : (c.recordArrival p n b).walk = c.walk := rfl
@[simp] theorem Cohort.recordArrival_cause (c : Cohort) (p : DWord) (n : Word) (b : Bool) : (c.recordArrival p n b).cause = c.cause := rfl
@[simp] theorem Cohort.recordArrival_tinfo (c : Cohort) (p : DWord) (n : Word) (b : Bool) : (c.recordArrival p n b).tinfo = c.tinfo := rfl
@[simp] theorem Cohort.recordArrival_tpc (c : Cohort) (p : DWord) (n : Word) (b : Bool) : (c.recordArrival p n b).tpc = c.tpc := rfl
@[simp] theorem Cohort.recordArrival_tpcWritten (c : Cohort) (p : DWord) (n : Word) (b : Bool) : (c.recordArrival p n b).tpcWritten = c.tpcWritten := rfl
@[simp] theorem Cohort.recordArrival_hbase (c : Cohort) (p : DWord) (n : Word) (b : Bool) : (c.recordArrival p n b).hbase = c.hbase := rfl
@[simp] theorem Cohort.recordArrival_hsave (c : Cohort) (p : DWord) (n : Word) (b : Bool) : (c.recordArrival p n b).hsave = c.hsave := rfl
@[simp] theorem Cohort.recordArrival_trapped (c : Cohort) (p : DWord) (n : Word) (b : Bool) : (c.recordArrival p n b).trapped = c.trapped := rfl
@[simp] theorem Cohort.recordArrival_exm (c : Cohort) (p : DWord) (n : Word) (b : Bool) : (c.recordArrival p n b).exm = c.exm := rfl
@[simp] theorem Cohort.recordArrival_removed (c : Cohort) (p : DWord) (n : Word) (b : Bool) : (c.recordArrival p n b).removed = c.removed := rfl
@[simp] theorem Cohort.recordArrival_qdrop (c : Cohort) (p : DWord) (n : Word) (b : Bool) : (c.recordArrival p n b).qdrop = c.qdrop := rfl
@[simp] theorem Cohort.recordArrival_entry (c : Cohort) (p : DWord) (n : Word) (b : Bool) : (c.recordArrival p n b).entry = c.entry := rfl
@[simp] theorem Cohort.recordArrival_handler (c : Cohort) (p : DWord) (n : Word) (b : Bool) : (c.recordArrival p n b).handler = c.handler := rfl
@[simp] theorem Cohort.recordArrival_spawn (c : Cohort) (p : DWord) (n : Word) (b : Bool) : (c.recordArrival p n b).spawn = c.spawn := rfl
@[simp] theorem Cohort.recordArrival_grants (c : Cohort) (p : DWord) (n : Word) (b : Bool) : (c.recordArrival p n b).grants = c.grants := rfl
@[simp] theorem Cohort.recordArrival_mism (c : Cohort) (p : DWord) (n : Word) (b : Bool) : (c.recordArrival p n b).mism = c.mism := rfl
@[simp] theorem Cohort.recordArrival_preempt (c : Cohort) (p : DWord) (n : Word) (b : Bool) : (c.recordArrival p n b).preempt = c.preempt := rfl
@[simp] theorem Cohort.recordArrival_saved (c : Cohort) (p : DWord) (n : Word) (b : Bool) : (c.recordArrival p n b).saved = c.saved := rfl
@[simp] theorem Cohort.recordArrival_tiles (c : Cohort) (p : DWord) (n : Word) (b : Bool) : (c.recordArrival p n b).tiles = c.tiles := rfl
@[simp] theorem Cohort.recordArrival_halt (c : Cohort) (p : DWord) (n : Word) (b : Bool) : (c.recordArrival p n b).halt = c.halt := rfl
@[simp] theorem Cohort.recordArrival_haltReq (c : Cohort) (p : DWord) (n : Word) (b : Bool) : (c.recordArrival p n b).haltReq = c.haltReq := rfl
@[simp] theorem Cohort.recordArrival_stepping (c : Cohort) (p : DWord) (n : Word) (b : Bool) : (c.recordArrival p n b).stepping = c.stepping := rfl
@[simp] theorem Cohort.recordArrival_debug (c : Cohort) (p : DWord) (n : Word) (b : Bool) : (c.recordArrival p n b).debug = c.debug := rfl
@[simp] theorem Cohort.recordArrival_stalls (c : Cohort) (p : DWord) (n : Word) (b : Bool) : (c.recordArrival p n b).stalls = c.stalls := rfl
@[simp] theorem Cohort.recordArrival_traced (c : Cohort) (p : DWord) (n : Word) (b : Bool) : (c.recordArrival p n b).traced = c.traced := rfl
@[simp] theorem Cohort.recordArrival_sinceSync (c : Cohort) (p : DWord) (n : Word) (b : Bool) : (c.recordArrival p n b).sinceSync = c.sinceSync := rfl
@[simp] theorem Cohort.recordArrival_ending (c : Cohort) (p : DWord) (n : Word) (b : Bool) : (c.recordArrival p n b).ending = c.ending := rfl
@[simp] theorem Cohort.recordArrival_closing (c : Cohort) (p : DWord) (n : Word) (b : Bool) : (c.recordArrival p n b).closing = c.closing := rfl

/-! ### Registers of a strand and of a cohort -/

@[simp] theorem Strand.regs_setPc (t : Strand) (x : BitVec 56) : ({ t with pc := x } : Strand).regs = t.regs := rfl
@[simp] theorem Strand.regs_setIcnt (t : Strand) (x : DWord) : ({ t with icnt := x } : Strand).regs = t.regs := rfl
@[simp] theorem Strand.regs_setFloor (t : Strand) (x : DWord) : ({ t with floor := x } : Strand).regs = t.regs := rfl
@[simp] theorem Strand.regs_setCfr (t : Strand) (x : Word) : ({ t with cfr := x } : Strand).regs = t.regs := rfl
@[simp] theorem Strand.regs_setPark (t : Strand) (x : Option Wait) : ({ t with park := x } : Strand).regs = t.regs := rfl
@[simp] theorem Strand.regs_setChecked (t : Strand) (x : DWord) : ({ t with checked := x } : Strand).regs = t.regs := rfl

@[simp] theorem Cohort.regs_pass (c : Cohort) : c.pass.regs = c.regs := by
  simp [Cohort.regs, Cohort.pass, Cohort.mapStrands, Function.comp_def, Strand.regs]

@[simp] theorem Cohort.regs_commit (c : Cohort) : c.commit.regs = c.regs := by
  simp [Cohort.regs, Cohort.commit, Cohort.mapStrands, Function.comp_def, Strand.regs]

@[simp] theorem Cohort.regs_pushRecs (c : Cohort) (n : Word) (bs : List RecBody) : (c.pushRecs n bs).regs = c.regs := rfl

@[simp] theorem Cohort.regs_recordArrival (c : Cohort) (p : DWord) (n : Word) (b : Bool) :
    (c.recordArrival p n b).regs = c.regs := rfl

end Sys2Proof.Machine
end

