-- ==== Sys2Proof/Laws/Complete.lean ====
section
/-! SUPPORT. What completing an instruction does (01 R21): one lemma that the results of all instructions cite. -/

namespace Sys2Proof.Machine

/-! ### Whey offsets -/

theorem recBytes_foldl (rs : List Rec) (n : Nat) :
    rs.foldl (fun n r => n + 4 * r.body.size) n = n + recBytes rs := by
  induction rs generalizing n with
  | nil => simp [recBytes]
  | cons r rs ih => simp only [List.foldl_cons, recBytes]; rw [ih, ih (0 + _)]; omega

@[simp] theorem recBytes_nil : recBytes [] = 0 := rfl

@[simp] theorem recBytes_cons (r : Rec) (rs : List Rec) : recBytes (r :: rs) = 4 * r.body.size + recBytes rs := by
  simp only [recBytes, List.foldl_cons]; rw [recBytes_foldl]; simp [recBytes]

@[simp] theorem recBytes_append (a b : List Rec) : recBytes (a ++ b) = recBytes a + recBytes b := by
  induction a with
  | nil => simp
  | cons r rs ih => simp [ih]; omega

/-- Bytes of the records of some bodies. -/
def bodyBytes : List RecBody → Nat
  | [] => 0
  | b :: bs => 4 * b.size + bodyBytes bs

theorem bodyBytes_append (a b : List RecBody) : bodyBytes (a ++ b) = bodyBytes a + bodyBytes b := by
  induction a with
  | nil => simp [bodyBytes]
  | cons r rs ih => simp [bodyBytes, ih]; omega

theorem wheyt_pushRecs (c : Cohort) (n : Word) (bs : List RecBody) :
    (c.pushRecs n bs).wheyt = c.wheyt + bodyBytes bs := by
  have h : ∀ l : List RecBody,
      recBytes (l.map fun b => ({ strand := c.st.id, count := n, body := b } : Rec)).reverse = bodyBytes l := by
    intro l
    induction l with
    | nil => rfl
    | cons b bs ih => simp [bodyBytes, ih]; omega
  simp only [Cohort.wheyt, Cohort.pushRecs, recBytes_append, h]; omega

theorem wheyt_recordArrival (c : Cohort) (p : DWord) (n : Word) (b : Bool) :
    (c.recordArrival p n b).wheyt ≤ c.wheyt + 16 := by
  simp only [Cohort.wheyt, Cohort.recordArrival]
  split
  · split <;> simp_all [RecBody.size] <;> omega
  · simp [RecBody.size]; omega

/-! ### Stores to the region leave all but memory -/

/-- `u` is `s` with other cores, dies and memory. -/
structure OnlyMem (s u : State) : Prop where
  eq : u = { s with cores := u.cores, dies := u.dies, mem := u.mem }

theorem OnlyMem.refl (s : State) : OnlyMem s s := ⟨rfl⟩

theorem OnlyMem.trans {s t u : State} (h : OnlyMem s t) (k : OnlyMem t u) : OnlyMem s u := by
  obtain ⟨h⟩ := h
  obtain ⟨k⟩ := k
  exact ⟨by rw [k, h]⟩

theorem OnlyMem.foldl {α : Type} (f : State → α → State) (hf : ∀ s a, OnlyMem s (f s a)) (l : List α) (s : State) :
    OnlyMem s (l.foldl f s) := by
  induction l generalizing s with
  | nil => exact OnlyMem.refl s
  | cons a l ih => exact (hf s a).trans (ih _)

theorem OnlyMem.modCore (s : State) (k : Nat) (f : Core → Core) : OnlyMem s (s.modCore k f) := ⟨rfl⟩
theorem OnlyMem.modDie (s : State) (k : Nat) (f : Die → Die) : OnlyMem s (s.modDie k f) := ⟨rfl⟩
theorem OnlyMem.homePut (s : State) (pa : Nat) (bs : List Byte) : OnlyMem s (s.homePut pa bs) := ⟨rfl⟩

theorem OnlyMem.writeBack (s : State) (k wa : Nat) : OnlyMem s (s.writeBack k wa) := by
  unfold State.writeBack
  split
  · split
    · exact ⟨rfl⟩
    · exact OnlyMem.refl s
  · exact OnlyMem.refl s

theorem OnlyMem.recall (s : State) (keep : Option Nat) (wa : Nat) : OnlyMem s (s.recall keep wa) := by
  unfold State.recall
  exact OnlyMem.foldl _ (fun s k => (OnlyMem.writeBack s k wa).trans (OnlyMem.modCore _ _ _)) _ _

theorem OnlyMem.accAtHome (s : State) (pa op : Nat) (x : DWord) : OnlyMem s (s.accAtHome pa op x) := by
  have h := (OnlyMem.recall s none (pa / 4)).trans
    (OnlyMem.recall (s.recall none (pa / 4)) none ((pa + accBytes op - 1) / 4))
  unfold State.accAtHome
  dsimp only
  generalize (s.recall none (pa / 4)).recall none ((pa + accBytes op - 1) / 4) = u at h ⊢
  exact h.trans (OnlyMem.homePut _ _ _)

theorem OnlyMem.accAll (s : State) (sums : List PSum) :
    OnlyMem s (sums.foldl (fun s p => s.accAtHome p.pa p.op p.val) s) := by
  induction sums generalizing s with
  | nil => exact OnlyMem.refl s
  | cons p l ih =>
    rw [List.foldl_cons]
    exact (OnlyMem.accAtHome s p.pa p.op p.val).trans (ih _)

theorem OnlyMem.takeBack (s : State) (line : Nat) : OnlyMem s (s.takeBack line) := by
  unfold State.takeBack
  refine OnlyMem.foldl _ (fun s k => ?_) _ _
  dsimp only
  have h := OnlyMem.accAll s (((s.core k).upd.filter (·.line == line)).flatMap (·.sums))
  generalize List.foldl _ s _ = u at h ⊢
  exact (h.trans (OnlyMem.modCore _ _ _)).trans (OnlyMem.modDie _ _ _)

theorem OnlyMem.storeByte (s : State) (k pa : Nat) (b : Byte) : OnlyMem s (s.storeByte k pa b) := by
  have h := (OnlyMem.takeBack s (pa / 128)).trans (OnlyMem.recall (s.takeBack (pa / 128)) (some k) (pa / 4))
  unfold State.storeByte
  dsimp only
  generalize (s.takeBack (pa / 128)).recall (some k) (pa / 4) = u at h ⊢
  exact h.trans (OnlyMem.modCore _ _ _)

theorem OnlyMem.storeBytes (s : State) (k : Nat) (l : List (Nat × Byte)) : OnlyMem s (s.storeBytes k l) := by
  induction l generalizing s with
  | nil => exact OnlyMem.refl s
  | cons p l ih => exact (OnlyMem.storeByte s k p.1 p.2).trans (ih _)

/-- A store to the region that succeeds changes cores, dies and memory alone. -/
theorem vaStore_onlyMem {s u : State} {core va : Nat} {bs : List Byte} (h : s.vaStore core va bs = .ok u) : OnlyMem s u := by
  unfold State.vaStore at h
  split at h
  · cases h; exact OnlyMem.storeBytes _ _ _
  · cases h
  · cases h

theorem OnlyMem.co {s u : State} (h : OnlyMem s u) : u.co = s.co := by rw [h.eq]
theorem OnlyMem.dbg {s u : State} (h : OnlyMem s u) : u.dbg = s.dbg := by rw [h.eq]

/-- A store to the region whose bytes all translate succeeds. -/
theorem vaStore_ok {s : State} {core va : Nat} {bs : List Byte}
    (h : ∃ pas, s.walkRun .write none (spanNat va bs.length) = .ok pas) : ∃ u, s.vaStore core va bs = .ok u := by
  obtain ⟨pas, h⟩ := h
  exact ⟨_, by simp [State.vaStore, h]; rfl⟩

/-! ### Write-back of the records -/

/-- The translation of an agent's walk does not look at the focused cohort or the debug unit. -/
theorem walkFrom_co (s : State) (c : Cohort) (d : Debug) (va level table : Nat) :
    ({ s with co := c, dbg := d } : State).walkFrom va level table = s.walkFrom va level table := by
  induction level generalizing table with
  | zero => simp only [State.walkFrom]; rfl
  | succ n ih => simp only [State.walkFrom, ih]; rfl

theorem pageWalk_co (s : State) (c : Cohort) (d : Debug) (va : Nat) :
    ({ s with co := c, dbg := d } : State).pageWalk va = s.pageWalk va := walkFrom_co s c d va 4 s.setup.root

theorem judge_co (s : State) (c : Cohort) (d : Debug) (t : TlbEnt) (va : Nat) (acc : Acc) :
    ({ s with co := c, dbg := d } : State).judge t va acc = s.judge t va acc := rfl

theorem walkRun_co (s : State) (c : Cohort) (d : Debug) (acc : Acc) (t : Option TlbEnt) (vas : List Nat) :
    ({ s with co := c, dbg := d } : State).walkRun acc t vas = s.walkRun acc t vas := by
  induction vas generalizing t with
  | nil => rfl
  | cons va vas ih => simp only [State.walkRun, pageWalk_co, judge_co, ih]

/-! ### Completion -/

/-- The effect as it stands once flags are sticky and an outstanding result is noted. -/
def Effect.stands (e : Effect) : State :=
  (e.post.withFlags e.flags).setSt fun st => { st with outst := st.outst ++ e.outst.toList }

/-- Bytes of the records that an effect may push in the state before it: its own, Flags, and an arrival. -/
def Effect.bytes (e : Effect) (s : State) : Nat :=
  bodyBytes (e.bodies s) + 16

/-- The effect has left the record mechanism and the strand's place alone. -/
structure Effect.Fresh (e : Effect) (s : State) : Prop where
  whey : e.post.co.whey = s.co.whey
  wheyWb : e.post.co.wheyWb = s.co.wheyWb
  wheyBase : e.post.co.wheyBase = s.co.wheyBase
  core : e.post.co.core = s.co.core
  pc : e.post.co.st.pc = s.co.st.pc
  icnt : e.post.co.st.icnt = s.co.st.icnt
  floor : e.post.co.st.floor = s.co.st.floor

theorem Effect.regs_cohort (e : Effect) : e.cohort.regs = e.stands.co.regs := by
  unfold Effect.cohort Effect.stands State.withFlags State.setCo State.setSt
  by_cases h : e.flags = 0
  · cases e.outst <;> simp only [if_pos h, Option.toList, List.append_nil]
  · cases e.outst <;> simp only [if_neg h, Option.toList, List.append_nil]

theorem Effect.regs_pushed (e : Effect) (s : State) (next : DWord) : (e.pushed s next).regs = e.stands.co.regs := by
  rw [← Effect.regs_cohort]
  unfold Effect.pushed
  dsimp only
  split <;> split <;> simp

theorem Effect.wheyt_cohort (e : Effect) : e.cohort.wheyt = e.post.co.wheyt := by
  unfold Effect.cohort
  cases e.outst <;> simp [Cohort.wheyt] <;> split <;> rfl

theorem Effect.wheyt_pushed (e : Effect) (s : State) (next : DWord) :
    (e.pushed s next).wheyt ≤ e.post.co.wheyt + e.bytes s := by
  have h := e.wheyt_cohort
  have hb : e.bytes s = bodyBytes (e.bodies s) + 16 := rfl
  unfold Effect.pushed
  dsimp only
  generalize e.bodies s = bodies at *
  by_cases hs : s.co.special
  · simp only [hs, if_true, Bool.true_or]; omega
  · simp only [hs]
    have hp := wheyt_pushRecs e.cohort s.co.st.icnt.low bodies
    split
    · simp only [Bool.false_eq_true, if_false]; omega
    · have := wheyt_recordArrival (e.cohort.pushRecs s.co.st.icnt.low bodies) s.pcAddr s.co.st.icnt.low bodies.isEmpty
      simp only [Bool.false_eq_true, if_false]; omega

/-- Fields of the pushed cohort that the effect alone decides. -/
theorem Effect.pushed_fields (e : Effect) (s : State) (next : DWord) :
    (e.pushed s next).lim = e.post.co.lim ∧ (e.pushed s next).wheyWb = e.post.co.wheyWb
      ∧ (e.pushed s next).wheyBase = e.post.co.wheyBase ∧ (e.pushed s next).core = e.post.co.core
      ∧ (e.pushed s next).st.pc = e.post.co.st.pc ∧ (e.pushed s next).st.icnt = e.post.co.st.icnt
      ∧ (e.pushed s next).st.floor = e.post.co.st.floor := by
  unfold Effect.pushed Effect.cohort
  dsimp only
  split <;> split <;> cases e.outst <;> simp [Cohort.lim, Cohort.spilled, Cohort.pushRecs, Cohort.recordArrival] <;>
    split <;> simp

/-- What counting leaves. -/
theorem Cohort.counted_fields (c : Cohort) (debug special wrote hard : Bool) (next icnt : DWord) :
    (c.counted debug special wrote hard next icnt).regs = c.regs
      ∧ (c.counted debug special wrote hard next icnt).st.pc = (if debug then c.st.pc else next.setWidth 56)
      ∧ (c.counted debug special wrote hard next icnt).st.icnt = (if special then c.st.icnt else icnt + 1)
      ∧ (c.counted debug special wrote hard next icnt).st.floor
          = (if hard then (c.counted debug special wrote hard next icnt).st.icnt else c.st.floor)
      ∧ (c.counted debug special wrote hard next icnt).st.park = none := by
  unfold Cohort.counted
  cases wrote <;> cases hard <;>
    simp [Cohort.regs_pass, Cohort.regs_commit] <;> simp [Cohort.regs, Strand.regs, Cohort.pass, Cohort.commit]

/-- An instruction that has room, and whose flags trap nothing, completes (01 R21). -/
theorem tryComplete_completes {s : State} {e : Effect} {next : DWord} {n : Nat} (hf : e.Fresh s) (hr : s.Room e.post n)
    (hn : e.bytes s ≤ n) (ht : trappedFlags s.co.fmode e.flags = 0) :
    ∃ t, s.tryComplete e next = .ok t ∧ Completes s t e.stands next e.hard := by
  obtain ⟨hlim, hwb, hbase, hcore, hpc, hic, hfl⟩ := e.pushed_fields s next
  have hw := e.wheyt_pushed s next
  have hs : e.post.co.wheyt = s.co.wheyt := by simp [Cohort.wheyt, hf.whey]
  unfold State.tryComplete
  dsimp only
  have hl : (!s.co.special && decide ((e.pushed s next).lim < (e.pushed s next).wheyt)) = false := by
    rcases hr.limit with h | h
    · simp [h]
    · simp only [Bool.and_eq_false_imp, decide_eq_false_iff_not]
      intro _
      omega
  rw [hl, ht]
  simp only [Bool.false_eq_true, if_false, bne_self_eq_false]
  have key : ∃ u, ({ e.post with co := e.pushed s next } : State).wheyFlush 1024 = .ok u
      ∧ (∃ c, u.co = c ∧ c.regs = (e.pushed s next).regs ∧ c.st.pc = (e.pushed s next).st.pc
          ∧ c.st.icnt = (e.pushed s next).st.icnt ∧ c.st.floor = (e.pushed s next).st.floor)
      ∧ u.dbg = e.post.dbg
      ∧ ∃ v, WroteWhey s { e.post with co := e.pushed s next } v ∧ u = { v with co := u.co } := by
    unfold State.wheyFlush
    dsimp only
    split
    · exact ⟨_, rfl, ⟨_, rfl, rfl, rfl, rfl, rfl⟩, rfl, _, .inl rfl, rfl⟩
    · rename_i hdue
      rcases hr.writeBack with h | ⟨hsz, htr⟩
      · have := hf.wheyWb
        omega
      · generalize hbs : List.take _ _ = bs
        have hlen : bs.length ≤ (e.pushed s next).wheyt - 1024 - (e.pushed s next).wheyWb := by
          rw [← hbs]; exact List.length_take_le _ _
        have hreg : s.co.wheyWb + bs.length ≤ 2 ^ s.co.szl := by
          rw [hwb, hf.wheyWb] at hlen hdue
          have := hf.wheyWb
          omega
        have hb : (e.pushed s next).wheyBase.toNat + (e.pushed s next).wheyWb = s.co.wheyBase.toNat + s.co.wheyWb := by
          rw [hbase, hwb, hf.wheyBase, hf.wheyWb]
        obtain ⟨u, hu⟩ := vaStore_ok (s := { e.post with co := e.pushed s next }) (core := (e.pushed s next).core)
          (va := (e.pushed s next).wheyBase.toNat + (e.pushed s next).wheyWb) (bs := bs) (by
            obtain ⟨pas, hp⟩ := htr s.co.wheyWb bs.length hreg
            exact ⟨pas, by rw [hb]; exact (walkRun_co e.post (e.pushed s next) e.post.dbg .write none _).trans hp⟩)
        rw [hu]
        have ho := vaStore_onlyMem hu
        refine ⟨_, rfl, ⟨_, rfl, ?_, ?_, ?_, ?_⟩, ?_, u, .inr ⟨bs, hreg, ?_⟩, ?_⟩
        · simp [ho.co, Cohort.regs, Cohort.pass, Cohort.mapStrands, Strand.regs, Function.comp_def]
        · simp [ho.co, Cohort.pass, Cohort.mapStrands]
        · simp [ho.co, Cohort.pass, Cohort.mapStrands]
        · simp [ho.co, Cohort.pass, Cohort.mapStrands]
        · simp [ho.dbg]
        · rw [← hb, ← hf.core, ← hcore]; exact hu
        · rfl
  obtain ⟨u, hu, ⟨c, hc, h1, h2, h3, h4⟩, hd, v, hv, huv⟩ := key
  rw [hu]
  subst hc
  obtain ⟨k1, k2, k3, k4, k5⟩ :=
    u.co.counted_fields s.co.debug s.co.special e.wrote e.hard next s.co.st.icnt
  refine ⟨_, rfl, ⟨?_, ?_, ?_, ?_, k5, ?_, ?_⟩⟩
  · rw [k1, h1, e.regs_pushed]
  · rw [k2, h2, hpc, hf.pc]
  · rw [k3, h3, hic, hf.icnt]
  · rw [k4, h4, hfl, hf.floor]
  · refine ⟨e.pushed s next, e.post.dbg, v, ?_, ?_⟩
    · simpa [Effect.stands, State.withFlags, State.setCo, State.setSt] using hv
    · rw [huv]
  · intro _
    simp [hd, Effect.stands, State.withFlags, State.setCo, State.setSt]

/-! ### Issue -/

/-- Logging a read of package time changes the log alone. -/
theorem logTime_eq (s : State) (i : Instr) :
    ∃ d, s.logTime i = { s with dbg := d } ∧ (s.dbg.recording = false → d = s.dbg) := by
  unfold State.logTime State.logHere State.logInput
  split
  · split
    · rename_i h
      cases hr : s.host.regions with
      | none => exact ⟨s.dbg, rfl, fun _ => rfl⟩
      | some r =>
        dsimp only
        split
        · exact ⟨_, rfl, fun hn => by rw [h] at hn; cases hn⟩
        · exact ⟨_, rfl, fun hn => by rw [h] at hn; cases hn⟩
    · exact ⟨s.dbg, rfl, fun _ => rfl⟩
  · exact ⟨s.dbg, rfl, fun _ => rfl⟩

/-- An effect that goes through `conclude` completes. -/
theorem conclude_completes {i : Instr} {s : State} {e : Effect} {next : DWord} {n : Nat} (hf : e.Fresh s)
    (hr : s.Room e.post n) (hn : e.bytes s ≤ n) (ht : trappedFlags s.co.fmode e.flags = 0)
    (hg : e.post.dbg.recording = s.dbg.recording) :
    ∃ t, s.conclude i (.done e) next = t ∧ Completes s t e.stands next e.hard := by
  obtain ⟨d, hd, hrec⟩ := logTime_eq e.post i
  have hf' : ({ e with post := e.post.logTime i } : Effect).Fresh s := by
    rw [hd]
    exact ⟨hf.whey, hf.wheyWb, hf.wheyBase, hf.core, hf.pc, hf.icnt, hf.floor⟩
  have hr' : s.Room (e.post.logTime i) n := by
    rw [hd]
    refine ⟨hr.limit, hr.writeBack.imp id fun h => ⟨h.1, fun k m hk => ?_⟩⟩
    obtain ⟨pas, hp⟩ := h.2 k m hk
    exact ⟨pas, (walkRun_co e.post e.post.co d .write none _).trans hp⟩
  obtain ⟨t, ht1, ht2⟩ := tryComplete_completes (e := { e with post := e.post.logTime i }) (next := next) hf' hr' hn ht
  refine ⟨t, by simp only [State.conclude, State.complete, ht1], ?_⟩
  have hs : ({ e with post := e.post.logTime i } : Effect).stands = { e.stands with dbg := d } := by
    rw [hd]
    rfl
  rw [hs] at ht2
  refine ⟨ht2.regs, ht2.pc, ht2.icnt, ht2.floor, ht2.park, ht2.rest, fun h => ?_⟩
  rw [ht2.log h, hrec (hg.trans h)]
  simp [Effect.stands, State.withFlags, State.setCo, State.setSt]

/-- An instruction that goes on in sequence and whose own rules let it complete, completes. -/
theorem issueSeq_completes {i : Instr} {act : State → Act} {s : State} {e : Effect} {n : Nat} (hc : s.Clear i)
    (ha : act s = .done e) (hf : e.Fresh s) (hr : s.Room e.post n) (hn : e.bytes s ≤ n)
    (ht : trappedFlags s.co.fmode e.flags = 0) (hg : e.post.dbg.recording = s.dbg.recording) :
    ∃ t, issueSeq i act s = .next t ∧ Completes s t e.stands (s.after i) e.hard := by
  obtain ⟨t, h1, h2⟩ := conclude_completes (i := i) (next := s.after i) hf hr hn ht hg
  refine ⟨t, ?_, h2⟩
  unfold issueSeq issue
  rw [hc.checks]
  dsimp only
  rw [ha]
  rcases hc.successor with h | h
  · rw [if_pos h]
    exact congrArg _ h1
  · split
    · exact congrArg _ h1
    · rw [h]
      exact congrArg _ h1

/-- The whey of an instruction that completes, unless it is class H: what its records made of it. -/
theorem tryComplete_whey {s t : State} {e : Effect} {next : DWord} (h : s.tryComplete e next = .ok t) (hh : e.hard = false) :
    t.co.whey = (e.pushed s next).whey := by
  have hc : ∀ (c : Cohort) (debug special wrote : Bool) (next icnt : DWord),
      (c.counted debug special wrote false next icnt).whey = c.whey := by
    intro c debug special wrote next icnt
    cases wrote <;> simp [Cohort.counted, Cohort.pass, Cohort.mapStrands]
  unfold State.tryComplete at h
  dsimp only at h
  split at h
  · cases h
  split at h
  · cases h
  rw [hh] at h
  unfold State.wheyFlush at h
  dsimp only at h
  split at h
  · cases h
  · cases h
  · rename_i u hu
    cases h
    rw [hc]
    split at hu
    · cases hu
      rfl
    · split at hu
      · rename_i w hw
        cases hu
        simp [(vaStore_onlyMem hw).co, Cohort.pass, Cohort.mapStrands]
      · cases hu
      · cases hu

/-- The same for an instruction that goes on in sequence and whose own rules let it complete. -/
theorem issueSeq_whey {i : Instr} {act : State → Act} {s t : State} {e : Effect} {n : Nat} (hc : s.Clear i)
    (ha : act s = .done e) (hf : e.Fresh s) (hr : s.Room e.post n) (hn : e.bytes s ≤ n)
    (ht : trappedFlags s.co.fmode e.flags = 0) (hh : e.hard = false) (h : issueSeq i act s = .next t) :
    t.co.whey = (e.pushed s (s.after i)).whey := by
  obtain ⟨d, hd, -⟩ := logTime_eq e.post i
  have hf' : ({ e with post := e.post.logTime i } : Effect).Fresh s := by
    rw [hd]
    exact ⟨hf.whey, hf.wheyWb, hf.wheyBase, hf.core, hf.pc, hf.icnt, hf.floor⟩
  have hr' : s.Room (e.post.logTime i) n := by
    rw [hd]
    refine ⟨hr.limit, hr.writeBack.imp id fun h => ⟨h.1, fun k m hk => ?_⟩⟩
    obtain ⟨pas, hp⟩ := h.2 k m hk
    exact ⟨pas, (walkRun_co e.post e.post.co d .write none _).trans hp⟩
  obtain ⟨u, hu, -⟩ := tryComplete_completes (e := { e with post := e.post.logTime i }) (next := s.after i) hf' hr' hn ht
  have hi : issueSeq i act s = .next u := by
    have hu' : s.conclude i (.done e) (seqNext s.pcAddr i.length) = u := by
      simp only [State.conclude, State.complete]
      rw [show seqNext s.pcAddr i.length = s.after i from rfl, hu]
    unfold issueSeq issue
    rw [hc.checks]
    dsimp only
    rw [ha]
    rcases hc.successor with h | h
    · rw [if_pos h]
      exact congrArg _ hu'
    · split
      · exact congrArg _ hu'
      · rw [h]
        exact congrArg _ hu'
  rw [hi] at h
  cases h
  rw [tryComplete_whey hu hh, hd]
  rfl

end Sys2Proof.Machine
end

