-- ==== Sys2Proof/Laws/Lane.lean ====
section
/-! SUPPORT. What the shapes of the lane instructions do when they complete (05 R117, R118): one lemma per shape. -/

namespace Sys2Proof.Machine

theorem countBits_le (n x : Nat) : countBits n x ≤ n := by
  induction n generalizing x with
  | zero => simp [countBits]
  | succ n ih => simp only [countBits]; have := ih (x / 2); omega

theorem laneCount_le (m : LaneSet) : laneCount m ≤ 96 := countBits_le 96 _

theorem wordAt_laneVals (f : Nat → Word) {k : Nat} (h : k < 96) : wordAt (laneVals f) k = f k := by
  simp [wordAt, laneVals, laneNums, h]

/-- Writing a vector register is `withLanes`. -/
theorem writeV_eq (s : State) (d : Nat) (f : Nat → Word) :
    s.writeV d s.co.st.mask (laneVals f) = s.withLanes d f := by
  have h : blendLanes s.co.st.mask (s.co.vreg d) (laneVals f)
      = (List.range 96).map fun k => if s.co.st.mask.getLsbD k then f k else s.co.vlane d k := by
    unfold blendLanes laneNums
    apply List.map_congr_left
    intro k hk
    rw [wordAt_laneVals f (List.mem_range.mp hk)]
    rfl
  simp only [State.writeV, State.withLanes, State.setCo, h]

theorem withFlags_zero (s : State) : s.withFlags 0 = s := by
  simp [State.withFlags, State.setCo]

theorem setSt_same (s : State) : (s.setSt fun st => { st with outst := st.outst ++ [] }) = s := by
  simp [State.setSt]

/-- The room that an effect on registers needs is that of the state before it. -/
theorem Room.ofCo {s p : State} {n : Nat} (h : s.Room s n) (c : Cohort) (hp : p = { s with co := c })
    (hl : c.lim = s.co.lim) : s.Room p n := by
  subst hp
  refine ⟨by simpa [hl] using h.limit, h.writeBack.imp id fun k => ⟨k.1, fun a b hab => ?_⟩⟩
  obtain ⟨pas, hpas⟩ := k.2 a b hab
  exact ⟨pas, (walkRun_co s c s.dbg .write none _).trans hpas⟩

/-- Records of a vector write take at most 404 bytes. -/
theorem bodyBytes_laneRecs (c : Cohort) (d : Nat) (m : LaneSet) : bodyBytes (laneRecs c d m) ≤ 404 := by
  unfold laneRecs
  split
  · simp [bodyBytes]
  · have := laneCount_le m
    simp only [bodyBytes, RecBody.size]
    omega

/-- Any effect that writes one vector register. -/
theorem laneWrite_bytes (s : State) (d : Nat) (vals : List Word) (ci : Nat → Bool) (fl : Flags) :
    (laneWrite s d vals ci fl).bytes s ≤ 428 := by
  unfold Effect.bytes Effect.bodies laneWrite
  rw [bodyBytes_append]
  have := bodyBytes_laneRecs s.co d (laneSetOf fun i => s.co.st.mask.getLsbD i && !ci i)
  dsimp only
  split
  · simp only [bodyBytes, RecBody.size]; omega
  · simp only [bodyBytes]; omega

/-- An instruction that writes one vector register in the active lanes. -/
theorem laneWrite_completes {i : Instr} {act : State → Act} {s : State} {d : Nat} {f : Nat → Word} {ci : Nat → Bool}
    {fl : Flags} (hc : s.Clear i) (hr : s.Room s 428) (ha : act s = .done (laneWrite s d (laneVals f) ci fl))
    (ht : trappedFlags s.co.fmode fl = 0) :
    ∃ t, issueSeq i act s = .next t ∧ Completes s t ((s.withLanes d f).withFlags fl) (s.after i) false := by
  obtain ⟨t, h1, h2⟩ := issueSeq_completes (n := 428) hc ha ⟨rfl, rfl, rfl, rfl, rfl, rfl, rfl⟩
    (Room.ofCo hr (s.writeV d s.co.st.mask (laneVals f)).co rfl rfl) (laneWrite_bytes s d _ ci fl) ht rfl
  refine ⟨t, h1, ?_⟩
  have : (laneWrite s d (laneVals f) ci fl).stands = (s.withLanes d f).withFlags fl := by
    rw [← writeV_eq]
    exact setSt_same _
  rw [← this]
  exact h2

theorem trapped_zero (f : Word) : trappedFlags f 0 = 0 := by simp [trappedFlags]

/-- The same without flags. -/
theorem lanePlain_completes {i : Instr} {act : State → Act} {s : State} {d : Nat} {f : Nat → Word} {ci : Nat → Bool}
    (hc : s.Clear i) (hr : s.Room s 428) (ha : act s = .done (laneWrite s d (laneVals f) ci 0)) :
    ∃ t, issueSeq i act s = .next t ∧ Completes s t (s.withLanes d f) (s.after i) false := by
  have := laneWrite_completes hc hr ha (trapped_zero _)
  rwa [withFlags_zero] at this

theorem lane2_completes {i : Instr} {o : LForm} {f : Word → Word → Word} {s : State} (hc : s.Clear i) (hr : s.Room s 428) :
    ∃ t, lane2 i o f s = .next t ∧ Completes s t
      (s.withLanes o.d.toNat fun k => f (s.co.vlane o.a.toNat k) (wordAt (s.laneSrc o.b o.lit) k)) (s.after i) false :=
  lanePlain_completes hc hr rfl

theorem lane2I_completes {i : Instr} {o : LForm} {f : Word → Word → Word} {c : Word → Bool} {s : State} (hc : s.Clear i)
    (hr : s.Room s 428) :
    ∃ t, lane2I i o f c s = .next t ∧ Completes s t
      (s.withLanes o.d.toNat fun k => f (s.co.vlane o.a.toNat k) (wordAt (s.laneSrc o.b o.lit) k)) (s.after i) false :=
  lanePlain_completes hc hr rfl

theorem lane1_completes {i : Instr} {o : LForm} {f : Word → Word} {s : State} (hc : s.Clear i) (hr : s.Room s 428) :
    ∃ t, lane1 i o f s = .next t ∧ Completes s t
      (s.withLanes o.d.toNat fun k => f (s.co.vlane o.a.toNat k)) (s.after i) false :=
  lanePlain_completes hc hr rfl

theorem lane1I_completes {i : Instr} {o : LForm} {f : Word → Word} {s : State} (hc : s.Clear i) (hr : s.Room s 428) :
    ∃ t, lane1I i o f s = .next t ∧ Completes s t
      (s.withLanes o.d.toNat fun k => f (s.co.vlane o.a.toNat k)) (s.after i) false :=
  lanePlain_completes hc hr rfl

theorem lane3_completes {i : Instr} {o : LqForm} {f : Word → Word → Word → Word} {s : State} (hc : s.Clear i)
    (hr : s.Room s 428) :
    ∃ t, lane3 i o f s = .next t ∧ Completes s t
      (s.withLanes o.d.toNat fun k =>
        f (s.co.vlane o.a.toNat k) (wordAt (s.laneSrc o.b o.lit) k) (wordAt (s.laneSrc o.c o.lit) k)) (s.after i) false :=
  lanePlain_completes hc hr rfl

theorem lane2q_completes {i : Instr} {o : LqForm} {f : Word → Word → Word} {s : State} (hc : s.Clear i)
    (hr : s.Room s 428) :
    ∃ t, lane2q i o f s = .next t ∧ Completes s t
      (s.withLanes o.d.toNat fun k => f (s.co.vlane o.a.toNat k) (wordAt (s.laneSrc o.b o.lit) k)) (s.after i) false :=
  lanePlain_completes hc hr rfl

theorem lane1q_completes {i : Instr} {o : LqForm} {f : Word → Word} {s : State} (hc : s.Clear i) (hr : s.Room s 428) :
    ∃ t, lane1q i o f s = .next t ∧ Completes s t
      (s.withLanes o.d.toNat fun k => f (s.co.vlane o.a.toNat k)) (s.after i) false :=
  lanePlain_completes hc hr rfl

/-- Results with flags, none of them trapped. -/
theorem laneFlags_completes {i : Instr} {act : State → Act} {s : State} {d : Nat} {f : Nat → Word × Flags}
    (hc : s.Clear i) (hr : s.Room s 428) (ha : act s = .done (laneFlags s d f))
    (ht : trappedFlags s.co.fmode (flagsOver s.co.st.mask fun k => (f k).2) = 0) :
    ∃ t, issueSeq i act s = .next t ∧ Completes s t
      ((s.withLanes d fun k => (f k).1).withFlags (flagsOver s.co.st.mask fun k => (f k).2)) (s.after i) false :=
  laneWrite_completes hc hr ha ht

theorem lane2f_completes {i : Instr} {o : LForm} {f : Word → Word → Word → Word × Flags} {s : State} (hc : s.Clear i)
    (hr : s.Room s 428)
    (ht : trappedFlags s.co.fmode (flagsOver s.co.st.mask fun k =>
      (f s.co.fmode (s.co.vlane o.a.toNat k) (wordAt (s.laneSrc o.b o.lit) k)).2) = 0) :
    ∃ t, lane2f i o f s = .next t ∧ Completes s t
      ((s.withLanes o.d.toNat fun k => (f s.co.fmode (s.co.vlane o.a.toNat k) (wordAt (s.laneSrc o.b o.lit) k)).1).withFlags
        (flagsOver s.co.st.mask fun k => (f s.co.fmode (s.co.vlane o.a.toNat k) (wordAt (s.laneSrc o.b o.lit) k)).2))
      (s.after i) false :=
  laneFlags_completes hc hr rfl ht

theorem lane2qf_completes {i : Instr} {o : LqForm} {f : Word → Word → Word → Word × Flags} {s : State} (hc : s.Clear i)
    (hr : s.Room s 428)
    (ht : trappedFlags s.co.fmode (flagsOver s.co.st.mask fun k =>
      (f s.co.fmode (s.co.vlane o.a.toNat k) (wordAt (s.laneSrc o.b o.lit) k)).2) = 0) :
    ∃ t, lane2qf i o f s = .next t ∧ Completes s t
      ((s.withLanes o.d.toNat fun k => (f s.co.fmode (s.co.vlane o.a.toNat k) (wordAt (s.laneSrc o.b o.lit) k)).1).withFlags
        (flagsOver s.co.st.mask fun k => (f s.co.fmode (s.co.vlane o.a.toNat k) (wordAt (s.laneSrc o.b o.lit) k)).2))
      (s.after i) false :=
  laneFlags_completes hc hr rfl ht

theorem lane4f_completes {i : Instr} {o : LqForm} {f : Word → Word → Word → Word → Word → Word × Flags} {s : State}
    (hc : s.Clear i) (hr : s.Room s 428)
    (ht : trappedFlags s.co.fmode (flagsOver s.co.st.mask fun k =>
      (f s.co.fmode (s.quad o k).1 (s.quad o k).2.1 (s.quad o k).2.2.1 (s.quad o k).2.2.2).2) = 0) :
    ∃ t, lane4f i o f s = .next t ∧ Completes s t
      ((s.withLanes o.d.toNat fun k =>
          (f s.co.fmode (s.quad o k).1 (s.quad o k).2.1 (s.quad o k).2.2.1 (s.quad o k).2.2.2).1).withFlags
        (flagsOver s.co.st.mask fun k =>
          (f s.co.fmode (s.quad o k).1 (s.quad o k).2.1 (s.quad o k).2.2.1 (s.quad o k).2.2.2).2))
      (s.after i) false :=
  laneFlags_completes hc hr rfl ht

theorem lane1qf_completes {i : Instr} {o : LqForm} {f : Word → Word → Word × Flags} {s : State} (hc : s.Clear i)
    (hr : s.Room s 428)
    (ht : trappedFlags s.co.fmode (flagsOver s.co.st.mask fun k => (f s.co.fmode (s.co.vlane o.a.toNat k)).2) = 0) :
    ∃ t, lane1qf i o f s = .next t ∧ Completes s t
      ((s.withLanes o.d.toNat fun k => (f s.co.fmode (s.co.vlane o.a.toNat k)).1).withFlags
        (flagsOver s.co.st.mask fun k => (f s.co.fmode (s.co.vlane o.a.toNat k)).2)) (s.after i) false :=
  laneFlags_completes hc hr rfl ht

end Sys2Proof.Machine
end

