-- ==== Sys2Proof/Laws/Uniform.lean ====
section
/-! SUPPORT. What uniform writes do when they complete (04 R84-R92). -/

namespace Sys2Proof.Machine

/-- A uniform write leaves the record mechanism, the strand's place and all but the focused cohort alone. -/
structure Uniform.Keeps (s t : State) : Prop where
  others : t = { s with co := t.co }
  whey : t.co.whey = s.co.whey
  wheyWb : t.co.wheyWb = s.co.wheyWb
  wheyBase : t.co.wheyBase = s.co.wheyBase
  core : t.co.core = s.co.core
  pc : t.co.st.pc = s.co.st.pc
  icnt : t.co.st.icnt = s.co.st.icnt
  floor : t.co.st.floor = s.co.st.floor

theorem Uniform.Keeps.refl (s : State) : Uniform.Keeps s s := ⟨rfl, rfl, rfl, rfl, rfl, rfl, rfl, rfl⟩

theorem Uniform.Keeps.trans {s t u : State} (h : Uniform.Keeps s t) (k : Uniform.Keeps t u) : Uniform.Keeps s u :=
  ⟨by rw [k.others, h.others], k.whey.trans h.whey, k.wheyWb.trans h.wheyWb, k.wheyBase.trans h.wheyBase,
    k.core.trans h.core, k.pc.trans h.pc, k.icnt.trans h.icnt, k.floor.trans h.floor⟩

theorem writeU_keeps (s : State) (c : Nat) (w : Word) : Uniform.Keeps s (s.writeU c w) := by
  unfold State.writeU
  split
  · exact ⟨rfl, rfl, rfl, rfl, rfl, rfl, rfl, rfl⟩
  · split
    · exact ⟨rfl, rfl, rfl, rfl, rfl, rfl, rfl, rfl⟩
    · split <;> first
        | exact ⟨rfl, rfl, rfl, rfl, rfl, rfl, rfl, rfl⟩
        | (split <;> exact ⟨rfl, rfl, rfl, rfl, rfl, rfl, rfl, rfl⟩)

theorem writeUs_keeps (s : State) (ws : List (Nat × Word)) : Uniform.Keeps s (s.writeUs ws) := by
  induction ws generalizing s with
  | nil => exact Uniform.Keeps.refl s
  | cons w ws ih => exact (writeU_keeps s w.1 w.2).trans (ih _)

theorem bodyBytes_recsU (s : State) (ci : Bool) (cs : List Nat) : bodyBytes (s.recsU ci cs) ≤ 20 * cs.length := by
  have h : ∀ l : List Nat, bodyBytes (l.map s.recU) ≤ 20 * l.length := by
    intro l
    induction l with
    | nil => simp [bodyBytes]
    | cons c l ih =>
      have : (s.recU c).size ≤ 5 := by unfold State.recU; split <;> simp [RecBody.size]
      simp only [List.map_cons, bodyBytes, List.length_cons]
      omega
  unfold State.recsU
  refine Nat.le_trans (h _) ?_
  have := List.length_filter_le (fun _ => !ci || s.co.diverged || cs.any (· < 3)) cs
  omega

/-- An instruction that writes uniform codes. -/
theorem uniWrite_completes {i : Instr} {act : State → Act} {s : State} {ci : Bool} {ws : List (Nat × Word)}
    (hc : s.Clear i) (hr : s.Room (s.writeUs ws) (20 * ws.length + 16)) (ha : act s = uniWrite i s ci ws)
    (hw : ∀ w ∈ ws, s.writeCause w.1 w.2 = none) :
    ∃ t, issueSeq i act s = .next t ∧ Completes s t (s.writeUs ws) (s.after i) false := by
  have hk := writeUs_keeps s ws
  have ha' : act s = .done { post := s.writeUs ws, recs := s.recsU ci (ws.map (·.1)) } := by
    rw [ha]
    unfold uniWrite
    rw [show ws.findSome? (fun p => s.writeCause p.1 p.2) = none from List.findSome?_eq_none_iff.mpr hw]
  obtain ⟨t, h1, h2⟩ := issueSeq_completes hc ha' ⟨hk.whey, hk.wheyWb, hk.wheyBase, hk.core, hk.pc, hk.icnt, hk.floor⟩ hr (by
      have := bodyBytes_recsU s ci (ws.map (·.1))
      simp only [List.length_map] at this
      simp only [Effect.bytes, Effect.bodies, newSticky, bodyBytes_append]
      simp [bodyBytes]
      omega) (trapped_zero _) (by rw [hk.others])
  refine ⟨t, h1, ?_⟩
  have : ({ post := s.writeUs ws, recs := s.recsU ci (ws.map (·.1)) } : Effect).stands = s.writeUs ws := by
    unfold Effect.stands
    rw [withFlags_zero]
    exact setSt_same _
  rw [← this]
  exact h2

theorem uni2_completes {i : Instr} {o : UForm} {ci : Word → Bool} {f : Word → Word → Word} {s : State} (hc : s.Clear i)
    (hr : s.Room (s.writeUs [(o.d.toNat, f (s.readU o.a.toNat) (s.readU o.b.toNat))]) 36)
    (hw : s.writeCause o.d.toNat (f (s.readU o.a.toNat) (s.readU o.b.toNat)) = none) :
    ∃ t, uni2 i o ci f s = .next t
      ∧ Completes s t (s.writeUs [(o.d.toNat, f (s.readU o.a.toNat) (s.readU o.b.toNat))]) (s.after i) false :=
  uniWrite_completes (ci := ci (s.readU o.b.toNat)) hc hr rfl (by simpa using hw)

theorem uni1_completes {i : Instr} {o : UForm} {ci : Bool} {f : Word → Word} {s : State} (hc : s.Clear i)
    (hr : s.Room (s.writeUs [(o.d.toNat, f (s.readU o.a.toNat))]) 36)
    (hw : s.writeCause o.d.toNat (f (s.readU o.a.toNat)) = none) :
    ∃ t, uni1 i o ci f s = .next t ∧ Completes s t (s.writeUs [(o.d.toNat, f (s.readU o.a.toNat))]) (s.after i) false :=
  uniWrite_completes (ci := ci) hc hr rfl (by simpa using hw)

theorem uniImm_completes {i : Instr} {o : UiForm} {ci : Bool} {f : Word → BitVec 16 → Word} {s : State} (hc : s.Clear i)
    (hr : s.Room (s.writeUs [(o.d.toNat, f (s.readU o.d.toNat) o.imm)]) 36)
    (hw : s.writeCause o.d.toNat (f (s.readU o.d.toNat) o.imm) = none) :
    ∃ t, uniImm i o ci f s = .next t
      ∧ Completes s t (s.writeUs [(o.d.toNat, f (s.readU o.d.toNat) o.imm)]) (s.after i) false :=
  uniWrite_completes (ci := ci) hc hr rfl (by simpa using hw)

theorem uniX_completes {i : Instr} {o : UxForm} {f : Word → Word → Word → Word} {s : State} (hc : s.Clear i)
    (hr : s.Room (s.writeUs [(o.d.toNat, f (s.readU o.a.toNat) (s.readU o.b.toNat) (s.readU o.c8))]) 36)
    (hw : s.writeCause o.d.toNat (f (s.readU o.a.toNat) (s.readU o.b.toNat) (s.readU o.c8)) = none) :
    ∃ t, uniX i o f s = .next t
      ∧ Completes s t (s.writeUs [(o.d.toNat, f (s.readU o.a.toNat) (s.readU o.b.toNat) (s.readU o.c8))]) (s.after i) false :=
  uniWrite_completes (ci := false) hc hr rfl (by simpa using hw)

/-- A smaller need of room. -/
theorem Room.mono {s p : State} {n m : Nat} (h : s.Room p n) (hm : m ≤ n) : s.Room p m :=
  ⟨h.limit.imp id fun k => by omega, h.writeBack.imp (fun k => by omega) fun k => ⟨by omega, k.2⟩⟩

end Sys2Proof.Machine
end

