-- ==== Sys2Proof/Laws/Access.lean ====
section
/-! SUPPORT. What accesses leave alone: an access to memory, scratchpad or the fabric keeps the record mechanism, the
strand's place and the debug unit (`Anchored`), so that the instructions that make accesses complete as 01 R21 says. -/

namespace Sys2Proof.Machine

/-- What an access keeps. -/
structure Anchor where
  whey : List Rec
  wheyWb : Nat
  wheyBase : DWord
  core : Nat
  pc : BitVec 56
  icnt : DWord
  floor : DWord
  dbg : Debug

/-- The anchor of a state. -/
def State.anchor (s : State) : Anchor :=
  ⟨s.co.whey, s.co.wheyWb, s.co.wheyBase, s.co.core, s.co.st.pc, s.co.st.icnt, s.co.st.floor, s.dbg⟩

/-- `t` has the anchor of `s`. -/
structure Anchored (s t : State) : Prop where
  eq : t.anchor = s.anchor

theorem Anchored.refl (s : State) : Anchored s s := ⟨rfl⟩

theorem Anchored.trans {s t u : State} (h : Anchored s t) (k : Anchored t u) : Anchored s u := ⟨k.eq.trans h.eq⟩

theorem Anchored.foldl {α : Type} (f : State → α → State) (hf : ∀ s a, Anchored s (f s a)) (l : List α) (s : State) :
    Anchored s (l.foldl f s) := by
  induction l generalizing s with
  | nil => exact Anchored.refl s
  | cons a l ih => exact (hf s a).trans (ih _)

theorem OnlyMem.anchored {s t : State} (h : OnlyMem s t) : Anchored s t := by rw [h.eq]; exact ⟨rfl⟩

theorem Anchored.fresh {s t : State} {e : Effect} (h : Anchored s t) (he : e.post.anchor = t.anchor) : e.Fresh s := by
  have := he.trans h.eq
  simp only [State.anchor, Anchor.mk.injEq] at this
  obtain ⟨h1, h2, h3, h4, h5, h6, h7, -⟩ := this
  exact ⟨h1, h2, h3, h4, h5, h6, h7⟩

theorem Anchored.dbg {s t : State} (h : Anchored s t) : t.dbg = s.dbg := congrArg Anchor.dbg h.eq

/-! ### Parts of an access -/

theorem Anchored.modCore (s : State) (k : Nat) (f : Core → Core) : Anchored s (s.modCore k f) := ⟨rfl⟩
theorem Anchored.modDie (s : State) (k : Nat) (f : Die → Die) : Anchored s (s.modDie k f) := ⟨rfl⟩
theorem Anchored.modBlock (s : State) (k : Nat) (f : Block → Block) : Anchored s (s.modBlock k f) := ⟨rfl⟩
theorem Anchored.modSlice (s : State) (k : Nat) (f : Slice → Slice) : Anchored s (s.modSlice k f) := ⟨rfl⟩
theorem Anchored.homePut (s : State) (pa : Nat) (bs : List Byte) : Anchored s (s.homePut pa bs) := ⟨rfl⟩
theorem Anchored.spWrite (s : State) (k : Nat) (ps : List (Nat × Byte)) : Anchored s (s.spWrite k ps) := ⟨rfl⟩
theorem Anchored.heal (s : State) (pas : List Nat) : Anchored s (s.heal pas) := ⟨rfl⟩
theorem Anchored.noteUnack (s : State) (l : Nat) (r : Bool) (t : Option Word) : Anchored s (s.noteUnack l r t) := ⟨rfl⟩
theorem Anchored.addArrival (s : State) (d : DWord) : Anchored s (s.addArrival d) := ⟨rfl⟩

theorem Anchored.missRdc (s : State) (die line : Nat) : Anchored s (s.missRdc die line) := by
  unfold State.missRdc
  split
  · exact ⟨rfl⟩
  · exact Anchored.refl s

theorem Anchored.missLine (s : State) (k line : Nat) (read own upd : Bool) :
    Anchored s (s.missLine k line read own upd) := by
  unfold State.missLine
  dsimp only
  split
  · refine Anchored.trans ?_ (Anchored.missRdc _ _ _)
    exact ⟨rfl⟩
  · exact ⟨rfl⟩

theorem Anchored.writeBack (s : State) (k wa : Nat) : Anchored s (s.writeBack k wa) := (OnlyMem.writeBack s k wa).anchored
theorem Anchored.recall (s : State) (k : Option Nat) (wa : Nat) : Anchored s (s.recall k wa) :=
  (OnlyMem.recall s k wa).anchored
theorem Anchored.takeBack (s : State) (l : Nat) : Anchored s (s.takeBack l) := (OnlyMem.takeBack s l).anchored

theorem Anchored.loadWord (s : State) (k wa : Nat) : Anchored s (s.loadWord k wa).2 := by
  unfold State.loadWord
  have h := Anchored.takeBack s (wa / 32)
  dsimp only
  generalize s.takeBack (wa / 32) = u at h ⊢
  split
  · exact h
  · split
    · exact h
    · split <;> exact h

theorem Anchored.loadBytes (s : State) (k : Nat) (pas : List Nat) : Anchored s (s.loadBytes k pas).2 := by
  induction pas generalizing s with
  | nil => exact Anchored.refl s
  | cons pa rest ih =>
    unfold State.loadBytes
    have h := Anchored.loadWord s k (pa / 4)
    generalize s.loadWord k (pa / 4) = w at h ⊢
    obtain ⟨w, u⟩ := w
    dsimp only at h ⊢
    split
    · exact (h.trans (Anchored.missLine _ _ _ _ _ _)).trans (ih _)
    · exact h.trans (ih _)

theorem Anchored.claim (s : State) (core : Nat) (pas : List Nat) : Anchored s (s.claim core pas) := by
  unfold State.claim
  exact Anchored.foldl _ (fun s wa => (Anchored.takeBack s _).trans (Anchored.recall _ _ _)) _ _

theorem Anchored.releaseAt (s : State) (k scope : Nat) : Anchored s (s.releaseAt k scope) := by
  unfold State.releaseAt State.releaseL1
  split
  · exact Anchored.foldl _ (fun s wa => Anchored.writeBack s k wa) _ _
  · exact Anchored.refl s

theorem Anchored.acquireAt (s : State) (k scope : Nat) : Anchored s (s.acquireAt k scope) := by
  unfold State.acquireAt State.acquireL1
  split
  · exact Anchored.modCore _ _ _
  · exact Anchored.refl s

theorem Anchored.orderL1 (s : State) (order scope : Nat) : Anchored s (s.orderL1 order scope) := by
  unfold State.orderL1
  dsimp only
  have h : Anchored s (if isRel order then s.releaseAt s.co.core scope else s) := by
    split
    · exact Anchored.releaseAt _ _ _
    · exact Anchored.refl s
  generalize (if isRel order then s.releaseAt s.co.core scope else s) = u at h ⊢
  split
  · exact h.trans (Anchored.acquireAt _ _ _)
  · exact h

theorem Anchored.loadPlace (s : State) (p : Place) : Anchored s (s.loadPlace p).2 := by
  cases p with
  | mem pas => exact Anchored.loadBytes _ _ _
  | sp k offs => exact Anchored.refl s
  | fab va => exact Anchored.refl s

theorem Anchored.readPlaces (s : State) (ans : List (Nat × List Byte)) (ps : List (LaneAcc × Place)) :
    Anchored s (s.readPlaces ans ps).2 := by
  induction ps generalizing s with
  | nil => exact Anchored.refl s
  | cons p rest ih =>
    obtain ⟨x, p⟩ := p
    cases p with
    | fab va => exact ih s
    | mem pas => exact (Anchored.loadPlace s (.mem pas)).trans (ih _)
    | sp k offs => exact (Anchored.loadPlace s (.sp k offs)).trans (ih _)

theorem Anchored.flipLines (s : State) (order : Nat) (ls : List (Nat × Nat)) : Anchored s (s.flipLines order ls) := by
  unfold State.flipLines
  split
  · exact Anchored.foldl _ (fun s l => Anchored.modCore _ _ _) _ _
  · split
    · exact Anchored.foldl _ (fun s l => Anchored.modCore _ _ _) _ _
    · exact Anchored.refl s

theorem Anchored.storePlace (s : State) (bs : List Byte) (p : Place) : Anchored s (s.storePlace bs p) := by
  cases p with
  | fab va => exact Anchored.refl s
  | sp k offs => exact Anchored.spWrite _ _ _
  | mem pas =>
    unfold State.storePlace
    dsimp only
    have h := ((Anchored.claim s s.co.core pas).trans
      (OnlyMem.storeBytes _ s.co.core (pas.zip bs)).anchored).trans (Anchored.heal _ pas)
    generalize (((s.claim s.co.core pas).storeBytes s.co.core (pas.zip bs)).heal pas) = u at h ⊢
    refine Anchored.trans ?_ (Anchored.foldl _ (fun s l => Anchored.noteUnack _ _ _ _) _ _)
    split
    · exact h.trans (Anchored.foldl _ (fun s l => Anchored.missLine _ _ _ _ _ _) _ _)
    · exact h

theorem Anchored.writePlaces (s : State) (bytes : LaneAcc → List Byte) (ps : List (LaneAcc × Place)) :
    Anchored s (s.writePlaces bytes ps).2 := by
  induction ps generalizing s with
  | nil => exact Anchored.refl s
  | cons p rest ih =>
    obtain ⟨x, p⟩ := p
    cases p with
    | fab va => exact ih s
    | mem pas =>
      exact ((Anchored.claim s s.co.core pas).trans (Anchored.storePlace _ (bytes x) (.mem pas))).trans (ih _)
    | sp k offs => exact (Anchored.storePlace s (bytes x) (.sp k offs)).trans (ih _)

theorem Anchored.dropCopy (s : State) (k wa : Nat) : Anchored s (s.dropCopy k wa) := ⟨rfl⟩

theorem Anchored.rdcTake (s : State) (die wa : Nat) : Anchored s (s.rdcTake die wa) := by
  unfold State.rdcTake
  split
  · exact Anchored.refl s
  · exact ⟨rfl⟩

theorem Anchored.rmwHome (s : State) (k : Nat) (pas : List Nat) (f : List Byte → List Byte) :
    Anchored s (s.rmwHome k pas f).2 := by
  unfold State.rmwHome
  dsimp only
  have h := Anchored.foldl (fun (s : State) pa => ((s.takeBack (pa / 128)).recall none (pa / 4)).dropCopy k (pa / 4))
    (fun s pa => ((Anchored.takeBack s _).trans (Anchored.recall _ _ _)).trans (Anchored.dropCopy _ _ _)) pas s
  generalize pas.foldl (fun (s : State) pa => ((s.takeBack (pa / 128)).recall none (pa / 4)).dropCopy k (pa / 4)) s = u at h ⊢
  exact (h.trans (Anchored.foldl _ (fun s p => Anchored.homePut _ _ _) _ _)).trans
    (Anchored.foldl _ (fun s pa => Anchored.rdcTake _ _ _) _ _)

theorem Anchored.rmwPlace (s : State) (f : List Byte → List Byte) (p : Place) : Anchored s (s.rmwPlace f p).2 := by
  cases p with
  | fab va => exact Anchored.refl s
  | sp k offs => exact Anchored.spWrite _ _ _
  | mem pas =>
    unfold State.rmwPlace
    dsimp only
    have h := (Anchored.claim s s.co.core pas).trans (Anchored.foldl
      (fun (t : State) wa => t.writeBack t.co.core wa)
      (fun s wa => Anchored.writeBack _ _ _) (dedup (pas.map (· / 4))) (s.claim s.co.core pas))
    generalize (dedup (pas.map (· / 4))).foldl (fun (t : State) wa => t.writeBack t.co.core wa)
      (s.claim s.co.core pas) = u at h ⊢
    have k := h.trans (Anchored.rmwHome u u.co.core pas f)
    generalize u.rmwHome u.co.core pas f = r at k ⊢
    obtain ⟨old, v⟩ := r
    dsimp only at k ⊢
    refine Anchored.trans ?_ (Anchored.foldl _ (fun s l => Anchored.noteUnack _ _ _ _) _ _)
    by_cases hf : f old = old
    · rw [if_pos hf]; exact k
    · rw [if_neg hf]; exact k.trans (Anchored.heal _ _)

theorem Anchored.rmwPlaces (s : State) (f : LaneAcc → List Byte → List Byte) (ans : List (Nat × List Byte))
    (ps : List (LaneAcc × Place)) : Anchored s (s.rmwPlaces f ans ps).2 := by
  induction ps generalizing s with
  | nil => exact Anchored.refl s
  | cons p rest ih =>
    obtain ⟨x, p⟩ := p
    cases p with
    | fab va => exact ih s
    | mem pas => exact (Anchored.rmwPlace s (f x) (.mem pas)).trans (ih _)
    | sp k offs => exact (Anchored.rmwPlace s (f x) (.sp k offs)).trans (ih _)

theorem Anchored.sendFab (s : State) (kind lane va size : Nat) (data : List Byte) (mask : List Bool) (op : Option FabOp) :
    Anchored s (s.sendFab kind lane va size data mask op) := ⟨rfl⟩

theorem Anchored.fabWrite (s : State) (kind lane va : Nat) (data : List Byte) (mask : List Bool) (op : Option FabOp) :
    Anchored s (s.fabWrite kind lane va data mask op) := by
  unfold State.fabWrite
  dsimp only
  split
  · exact ⟨rfl⟩
  · exact (Anchored.noteUnack _ _ _ _).trans (Anchored.sendFab _ _ _ _ _ _ _ _)

theorem Anchored.fabStore (s : State) (lane : Nat) (bs : List (Nat × Byte)) : Anchored s (s.fabStore lane bs) := by
  unfold State.fabStore
  exact Anchored.foldl _ (fun s l => Anchored.fabWrite _ _ _ _ _ _ _) _ _

/-! ### Sizes of records -/

theorem bodyBytes_flatMap {α : Type} (f : α → List RecBody) (n : Nat) (hf : ∀ a, bodyBytes (f a) ≤ n) (l : List α) :
    bodyBytes (l.flatMap f) ≤ n * l.length := by
  induction l with
  | nil => simp [bodyBytes]
  | cons a l ih =>
    simp only [List.flatMap_cons, bodyBytes_append, List.length_cons]
    have := hf a
    rw [Nat.mul_add]
    omega

theorem bodyBytes_regRecs (c : Cohort) (d k : Nat) : bodyBytes (regRecs c d k) ≤ 404 * k := by
  have := bodyBytes_flatMap (fun r => laneRecs c r c.st.mask) 404 (fun r => bodyBytes_laneRecs c r _) (spanNat d k)
  simpa [spanNat, regRecs] using this

/-- An access that `Reaches` goes on with its places. -/
theorem withAccess_of {s : State} {a : AccSpec} {ps : List (LaneAcc × Place)} (h : s.Reaches a ps)
    (k : List (LaneAcc × Place) → Act) : withAccess s a k = k ps := by
  unfold withAccess
  rw [h.checks]
  dsimp only
  rw [h.places]
  dsimp only
  have : (if a.reads then ps.findSome? s.poisonOf else none) = none := by
    split
    · exact h.clean (by assumption)
    · rfl
  rw [this]
  dsimp only
  rw [if_pos h.lines]

/-- A release that may perform goes on. -/
theorem withRelease_of {s : State} {rel : Bool} {scope : Nat} (h : s.MayRelease rel scope) (k : Act) :
    withRelease s rel scope k = k := by
  unfold withRelease
  cases rel with
  | false => rfl
  | true => rw [h rfl]; rfl

/-- Without a fabric lane no answer is awaited. -/
theorem withFabric_of {s : State} {late : Bool} {size : Nat} {ps : List (LaneAcc × Place)} {kind : Nat}
    {msg : LaneAcc → List Byte × Option FabOp} (h : anyFabric ps = false) (k : List (Nat × List Byte) → Act) :
    withFabric s late size ps kind msg k = k [] := by
  unfold withFabric
  dsimp only
  split
  · rfl
  · rename_i hne
    refine absurd ?_ hne
    rw [List.filter_eq_nil_iff]
    intro p hp
    unfold anyFabric at h
    rw [List.any_eq_false] at h
    have := h p hp
    obtain ⟨x, q⟩ := p
    cases q <;> simp_all

theorem withTicket_of {s : State} {cls : ResClass} (h : s.co.st.ticket cls.index < ticketMax cls.index) (k : Act) :
    withTicket s cls k = k := by
  unfold withTicket
  rw [if_neg (Nat.not_le.mpr h)]

theorem guardMse_of {s : State} {e : Effect} (h : (e.post.core s.co.core).mse.length ≤ 128) : guardMse s e = .done e := by
  unfold guardMse
  rw [if_neg (Nat.not_lt.mpr h)]

/-- Nothing is logged while recording is off. -/
theorem logHere_of {s : State} (h : s.dbg.recording = false) (kind : LogKind) (vals : List DWord) :
    s.logHere kind vals = s := by
  simp [State.logHere, State.logInput, h]

end Sys2Proof.Machine
end

