-- ==== Sys2Proof/Laws/Dispatch.lean ====
section
/-! SUPPORT. The meaning of each row of the table, one equation per constructor. -/

namespace Sys2Proof.Machine

theorem exec_iadd (s : State) : ∀ o, exec (.iadd o) s = execIadd o s := by intros; rfl
theorem exec_isub (s : State) : ∀ o, exec (.isub o) s = execIsub o s := by intros; rfl
theorem exec_imul (s : State) : ∀ o, exec (.imul o) s = execImul o s := by intros; rfl
theorem exec_imulh (s : State) : ∀ o, exec (.imulh o) s = execImulh o s := by intros; rfl
theorem exec_laneUmulh (s : State) : ∀ o, exec (.laneUmulh o) s = execLaneUmulh o s := by intros; rfl
theorem exec_imad (s : State) : ∀ o, exec (.imad o) s = execImad o s := by intros; rfl
theorem exec_iand (s : State) : ∀ o, exec (.iand o) s = execIand o s := by intros; rfl
theorem exec_ior (s : State) : ∀ o, exec (.ior o) s = execIor o s := by intros; rfl
theorem exec_ixor (s : State) : ∀ o, exec (.ixor o) s = execIxor o s := by intros; rfl
theorem exec_inot (s : State) : ∀ o, exec (.inot o) s = execInot o s := by intros; rfl
theorem exec_ineg (s : State) : ∀ o, exec (.ineg o) s = execIneg o s := by intros; rfl
theorem exec_shl (s : State) : ∀ o, exec (.shl o) s = execShl o s := by intros; rfl
theorem exec_shr (s : State) : ∀ o, exec (.shr o) s = execShr o s := by intros; rfl
theorem exec_sar (s : State) : ∀ o, exec (.sar o) s = execSar o s := by intros; rfl
theorem exec_rol (s : State) : ∀ o, exec (.rol o) s = execRol o s := by intros; rfl
theorem exec_ror (s : State) : ∀ o, exec (.ror o) s = execRor o s := by intros; rfl
theorem exec_imin (s : State) : ∀ o, exec (.imin o) s = execImin o s := by intros; rfl
theorem exec_imax (s : State) : ∀ o, exec (.imax o) s = execImax o s := by intros; rfl
theorem exec_laneUmin (s : State) : ∀ o, exec (.laneUmin o) s = execLaneUmin o s := by intros; rfl
theorem exec_laneUmax (s : State) : ∀ o, exec (.laneUmax o) s = execLaneUmax o s := by intros; rfl
theorem exec_iabs (s : State) : ∀ o, exec (.iabs o) s = execIabs o s := by intros; rfl
theorem exec_popc (s : State) : ∀ o, exec (.popc o) s = execPopc o s := by intros; rfl
theorem exec_clz (s : State) : ∀ o, exec (.clz o) s = execClz o s := by intros; rfl
theorem exec_brev (s : State) : ∀ o, exec (.brev o) s = execBrev o s := by intros; rfl
theorem exec_bfe (s : State) : ∀ o, exec (.bfe o) s = execBfe o s := by intros; rfl
theorem exec_bfi (s : State) : ∀ o, exec (.bfi o) s = execBfi o s := by intros; rfl
theorem exec_iadds (s : State) : ∀ o, exec (.iadds o) s = execIadds o s := by intros; rfl
theorem exec_isubs (s : State) : ∀ o, exec (.isubs o) s = execIsubs o s := by intros; rfl
theorem exec_sel (s : State) : ∀ o, exec (.sel o) s = execSel o s := by intros; rfl
theorem exec_mov (s : State) : ∀ o, exec (.mov o) s = execMov o s := by intros; rfl
theorem exec_swap (s : State) : ∀ o, exec (.swap o) s = execSwap o s := by intros; rfl
theorem exec_icmp (s : State) : ∀ o, exec (.icmp o) s = execIcmp o s := by intros; rfl
theorem exec_fcmp (s : State) : ∀ o, exec (.fcmp o) s = execFcmp o s := by intros; rfl
theorem exec_lread (s : State) : ∀ o, exec (.lread o) s = execLread o s := by intros; rfl
theorem exec_fadd (s : State) : ∀ o, exec (.fadd o) s = execFadd o s := by intros; rfl
theorem exec_fsub (s : State) : ∀ o, exec (.fsub o) s = execFsub o s := by intros; rfl
theorem exec_fmul (s : State) : ∀ o, exec (.fmul o) s = execFmul o s := by intros; rfl
theorem exec_ffma (s : State) : ∀ o, exec (.ffma o) s = execFfma o s := by intros; rfl
theorem exec_ffma3 (s : State) : ∀ o, exec (.ffma3 o) s = execFfma3 o s := by intros; rfl
theorem exec_fmin (s : State) : ∀ o, exec (.fmin o) s = execFmin o s := by intros; rfl
theorem exec_fmax (s : State) : ∀ o, exec (.fmax o) s = execFmax o s := by intros; rfl
theorem exec_fabs (s : State) : ∀ o, exec (.fabs o) s = execFabs o s := by intros; rfl
theorem exec_fneg (s : State) : ∀ o, exec (.fneg o) s = execFneg o s := by intros; rfl
theorem exec_fdiv (s : State) : ∀ o, exec (.fdiv o) s = execFdiv o s := by intros; rfl
theorem exec_fsqrt (s : State) : ∀ o, exec (.fsqrt o) s = execFsqrt o s := by intros; rfl
theorem exec_frcp (s : State) : ∀ o, exec (.frcp o) s = execFrcp o s := by intros; rfl
theorem exec_frsq (s : State) : ∀ o, exec (.frsq o) s = execFrsq o s := by intros; rfl
theorem exec_fexp2 (s : State) : ∀ o, exec (.fexp2 o) s = execFexp2 o s := by intros; rfl
theorem exec_flog2 (s : State) : ∀ o, exec (.flog2 o) s = execFlog2 o s := by intros; rfl
theorem exec_fsin (s : State) : ∀ o, exec (.fsin o) s = execFsin o s := by intros; rfl
theorem exec_fcos (s : State) : ∀ o, exec (.fcos o) s = execFcos o s := by intros; rfl
theorem exec_ftanh (s : State) : ∀ o, exec (.ftanh o) s = execFtanh o s := by intros; rfl
theorem exec_fsigm (s : State) : ∀ o, exec (.fsigm o) s = execFsigm o s := by intros; rfl
theorem exec_frint (s : State) : ∀ o, exec (.frint o) s = execFrint o s := by intros; rfl
theorem exec_fscale (s : State) : ∀ o, exec (.fscale o) s = execFscale o s := by intros; rfl
theorem exec_fclass (s : State) : ∀ o, exec (.fclass o) s = execFclass o s := by intros; rfl
theorem exec_padd (s : State) : ∀ o, exec (.padd o) s = execPadd o s := by intros; rfl
theorem exec_psub (s : State) : ∀ o, exec (.psub o) s = execPsub o s := by intros; rfl
theorem exec_pmul (s : State) : ∀ o, exec (.pmul o) s = execPmul o s := by intros; rfl
theorem exec_pfma (s : State) : ∀ o, exec (.pfma o) s = execPfma o s := by intros; rfl
theorem exec_pmin (s : State) : ∀ o, exec (.pmin o) s = execPmin o s := by intros; rfl
theorem exec_pmax (s : State) : ∀ o, exec (.pmax o) s = execPmax o s := by intros; rfl
theorem exec_pabs (s : State) : ∀ o, exec (.pabs o) s = execPabs o s := by intros; rfl
theorem exec_pneg (s : State) : ∀ o, exec (.pneg o) s = execPneg o s := by intros; rfl
theorem exec_pshl (s : State) : ∀ o, exec (.pshl o) s = execPshl o s := by intros; rfl
theorem exec_pshr (s : State) : ∀ o, exec (.pshr o) s = execPshr o s := by intros; rfl
theorem exec_psar (s : State) : ∀ o, exec (.psar o) s = execPsar o s := by intros; rfl
theorem exec_pavg (s : State) : ∀ o, exec (.pavg o) s = execPavg o s := by intros; rfl
theorem exec_pcmp (s : State) : ∀ o, exec (.pcmp o) s = execPcmp o s := by intros; rfl
theorem exec_pdot (s : State) : ∀ o, exec (.pdot o) s = execPdot o s := by intros; rfl
theorem exec_psad (s : State) : ∀ o, exec (.psad o) s = execPsad o s := by intros; rfl
theorem exec_cvt (s : State) : ∀ o, exec (.cvt o) s = execCvt o s := by intros; rfl
theorem exec_pack (s : State) : ∀ o, exec (.pack o) s = execPack o s := by intros; rfl
theorem exec_unpk (s : State) : ∀ o, exec (.unpk o) s = execUnpk o s := by intros; rfl
theorem exec_qblk (s : State) : ∀ o, exec (.qblk o) s = execQblk o s := by intros; rfl
theorem exec_dqblk (s : State) : ∀ o, exec (.dqblk o) s = execDqblk o s := by intros; rfl
theorem exec_shfl (s : State) : ∀ o, exec (.shfl o) s = execShfl o s := by intros; rfl
theorem exec_shflx (s : State) : ∀ o, exec (.shflx o) s = execShflx o s := by intros; rfl
theorem exec_shflu (s : State) : ∀ o, exec (.shflu o) s = execShflu o s := by intros; rfl
theorem exec_shfld (s : State) : ∀ o, exec (.shfld o) s = execShfld o s := by intros; rfl
theorem exec_bpick (s : State) : ∀ o, exec (.bpick o) s = execBpick o s := by intros; rfl
theorem exec_scan (s : State) : ∀ o, exec (.scan o) s = execScan o s := by intros; rfl
theorem exec_ld (s : State) : ∀ o, exec (.ld o) s = execLd o s := by intros; rfl
theorem exec_ldx (s : State) : ∀ o, exec (.ldx o) s = execLdx o s := by intros; rfl
theorem exec_st (s : State) : ∀ o, exec (.st o) s = execSt o s := by intros; rfl
theorem exec_xchg (s : State) : ∀ o, exec (.xchg o) s = execXchg o s := by intros; rfl
theorem exec_ldblk (s : State) : ∀ o, exec (.ldblk o) s = execLdblk o s := by intros; rfl
theorem exec_stblk (s : State) : ∀ o, exec (.stblk o) s = execStblk o s := by intros; rfl
theorem exec_atom (s : State) : ∀ o, exec (.atom o) s = execAtom o s := by intros; rfl
theorem exec_acas (s : State) : ∀ o, exec (.acas o) s = execAcas o s := by intros; rfl
theorem exec_acc (s : State) : ∀ o, exec (.acc o) s = execAcc o s := by intros; rfl
theorem exec_pfetch (s : State) : ∀ o, exec (.pfetch o) s = execPfetch o s := by intros; rfl
theorem exec_lds (s : State) : ∀ o, exec (.lds o) s = execLds o s := by intros; rfl
theorem exec_sts (s : State) : ∀ o, exec (.sts o) s = execSts o s := by intros; rfl
theorem exec_xchgs (s : State) : ∀ o, exec (.xchgs o) s = execXchgs o s := by intros; rfl
theorem exec_atoms (s : State) : ∀ o, exec (.atoms o) s = execAtoms o s := by intros; rfl
theorem exec_ldf (s : State) : ∀ o, exec (.ldf o) s = execLdf o s := by intros; rfl
theorem exec_ldsx (s : State) : ∀ o, exec (.ldsx o) s = execLdsx o s := by intros; rfl
theorem exec_qpush (s : State) : ∀ o, exec (.qpush o) s = execQpush o s := by intros; rfl
theorem exec_qpop (s : State) : ∀ o, exec (.qpop o) s = execQpop o s := by intros; rfl
theorem exec_qpeek (s : State) : ∀ o, exec (.qpeek o) s = execQpeek o s := by intros; rfl
theorem exec_uadd (s : State) : ∀ o, exec (.uadd o) s = execUadd o s := by intros; rfl
theorem exec_usub (s : State) : ∀ o, exec (.usub o) s = execUsub o s := by intros; rfl
theorem exec_umul (s : State) : ∀ o, exec (.umul o) s = execUmul o s := by intros; rfl
theorem exec_umulh (s : State) : ∀ o, exec (.umulh o) s = execUmulh o s := by intros; rfl
theorem exec_uand (s : State) : ∀ o, exec (.uand o) s = execUand o s := by intros; rfl
theorem exec_uor (s : State) : ∀ o, exec (.uor o) s = execUor o s := by intros; rfl
theorem exec_uxor (s : State) : ∀ o, exec (.uxor o) s = execUxor o s := by intros; rfl
theorem exec_unot (s : State) : ∀ o, exec (.unot o) s = execUnot o s := by intros; rfl
theorem exec_ushl (s : State) : ∀ o, exec (.ushl o) s = execUshl o s := by intros; rfl
theorem exec_ushr (s : State) : ∀ o, exec (.ushr o) s = execUshr o s := by intros; rfl
theorem exec_usar (s : State) : ∀ o, exec (.usar o) s = execUsar o s := by intros; rfl
theorem exec_urol (s : State) : ∀ o, exec (.urol o) s = execUrol o s := by intros; rfl
theorem exec_umin (s : State) : ∀ o, exec (.umin o) s = execUmin o s := by intros; rfl
theorem exec_umax (s : State) : ∀ o, exec (.umax o) s = execUmax o s := by intros; rfl
theorem exec_umov (s : State) : ∀ o, exec (.umov o) s = execUmov o s := by intros; rfl
theorem exec_uswap (s : State) : ∀ o, exec (.uswap o) s = execUswap o s := by intros; rfl
theorem exec_uaddi (s : State) : ∀ o, exec (.uaddi o) s = execUaddi o s := by intros; rfl
theorem exec_umovi (s : State) : ∀ o, exec (.umovi o) s = execUmovi o s := by intros; rfl
theorem exec_umovh (s : State) : ∀ o, exec (.umovh o) s = execUmovh o s := by intros; rfl
theorem exec_uxori (s : State) : ∀ o, exec (.uxori o) s = execUxori o s := by intros; rfl
theorem exec_uadd64 (s : State) : ∀ o, exec (.uadd64 o) s = execUadd64 o s := by intros; rfl
theorem exec_umov64 (s : State) : ∀ o, exec (.umov64 o) s = execUmov64 o s := by intros; rfl
theorem exec_ucmp (s : State) : ∀ o, exec (.ucmp o) s = execUcmp o s := by intros; rfl
theorem exec_nop (s : State) : ∀ o, exec (.nop o) s = execNop o s := by intros; rfl
theorem exec_usel (s : State) : ∀ o, exec (.usel o) s = execUsel o s := by intros; rfl
theorem exec_ubfe (s : State) : ∀ o, exec (.ubfe o) s = execUbfe o s := by intros; rfl
theorem exec_ubfi (s : State) : ∀ o, exec (.ubfi o) s = execUbfi o s := by intros; rfl
theorem exec_upopc (s : State) : ∀ o, exec (.upopc o) s = execUpopc o s := by intros; rfl
theorem exec_uclz (s : State) : ∀ o, exec (.uclz o) s = execUclz o s := by intros; rfl
theorem exec_br (s : State) : ∀ o, exec (.br o) s = execBr o s := by intros; rfl
theorem exec_brz (s : State) : ∀ o, exec (.brz o) s = execBrz o s := by intros; rfl
theorem exec_brnz (s : State) : ∀ o, exec (.brnz o) s = execBrnz o s := by intros; rfl
theorem exec_call (s : State) : ∀ o, exec (.call o) s = execCall o s := by intros; rfl
theorem exec_ret (s : State) : ∀ o, exec (.ret o) s = execRet o s := by intros; rfl
theorem exec_jmpr (s : State) : ∀ o, exec (.jmpr o) s = execJmpr o s := by intros; rfl
theorem exec_brl (s : State) : ∀ o, exec (.brl o) s = execBrl o s := by intros; rfl
theorem exec_brlz (s : State) : ∀ o, exec (.brlz o) s = execBrlz o s := by intros; rfl
theorem exec_regang (s : State) : ∀ o, exec (.regang o) s = execRegang o s := by intros; rfl
theorem exec_exit (s : State) : ∀ o, exec (.exit o) s = execExit o s := by intros; rfl
theorem exec_mballot (s : State) : ∀ o, exec (.mballot o) s = execMballot o s := by intros; rfl
theorem exec_vote (s : State) : ∀ o, exec (.vote o) s = execVote o s := by intros; rfl
theorem exec_rdlane (s : State) : ∀ o, exec (.rdlane o) s = execRdlane o s := by intros; rfl
theorem exec_wrlane (s : State) : ∀ o, exec (.wrlane o) s = execWrlane o s := by intros; rfl
theorem exec_uld (s : State) : ∀ o, exec (.uld o) s = execUld o s := by intros; rfl
theorem exec_ust (s : State) : ∀ o, exec (.ust o) s = execUst o s := by intros; rfl
theorem exec_uatom (s : State) : ∀ o, exec (.uatom o) s = execUatom o s := by intros; rfl
theorem exec_uxchg (s : State) : ∀ o, exec (.uxchg o) s = execUxchg o s := by intros; rfl
theorem exec_uacas (s : State) : ∀ o, exec (.uacas o) s = execUacas o s := by intros; rfl
theorem exec_bar (s : State) : ∀ o, exec (.bar o) s = execBar o s := by intros; rfl
theorem exec_bara (s : State) : ∀ o, exec (.bara o) s = execBara o s := by intros; rfl
theorem exec_bari (s : State) : ∀ o, exec (.bari o) s = execBari o s := by intros; rfl
theorem exec_waitq (s : State) : ∀ o, exec (.waitq o) s = execWaitq o s := by intros; rfl
theorem exec_wake (s : State) : ∀ o, exec (.wake o) s = execWake o s := by intros; rfl
theorem exec_fence (s : State) : ∀ o, exec (.fence o) s = execFence o s := by intros; rfl
theorem exec_waitc (s : State) : ∀ o, exec (.waitc o) s = execWaitc o s := by intros; rfl
theorem exec_waitk (s : State) : ∀ o, exec (.waitk o) s = execWaitk o s := by intros; rfl
theorem exec_commit (s : State) : ∀ o, exec (.commit o) s = execCommit o s := by intros; rfl
theorem exec_rewind (s : State) : ∀ o, exec (.rewind o) s = execRewind o s := by intros; rfl
theorem exec_rewindt (s : State) : ∀ o, exec (.rewindt o) s = execRewindt o s := by intros; rfl
theorem exec_hpush (s : State) : ∀ o, exec (.hpush o) s = execHpush o s := by intros; rfl
theorem exec_hpop (s : State) : ∀ o, exec (.hpop o) s = execHpop o s := by intros; rfl
theorem exec_spawn (s : State) : ∀ o, exec (.spawn o) s = execSpawn o s := by intros; rfl
theorem exec_tend (s : State) : ∀ o, exec (.tend o) s = execTend o s := by intros; rfl
theorem exec_tjoin (s : State) : ∀ o, exec (.tjoin o) s = execTjoin o s := by intros; rfl
theorem exec_tclaim (s : State) : ∀ o, exec (.tclaim o) s = execTclaim o s := by intros; rfl
theorem exec_qpost (s : State) : ∀ o, exec (.qpost o) s = execQpost o s := by intros; rfl
theorem exec_qstat (s : State) : ∀ o, exec (.qstat o) s = execQstat o s := by intros; rfl
theorem exec_rflush (s : State) : ∀ o, exec (.rflush o) s = execRflush o s := by intros; rfl
theorem exec_twait (s : State) : ∀ o, exec (.twait o) s = execTwait o s := by intros; rfl
theorem exec_copy (s : State) : ∀ o, exec (.copy o) s = execCopy o s := by intros; rfl
theorem exec_gather (s : State) : ∀ o, exec (.gather o) s = execGather o s := by intros; rfl
theorem exec_laychk (s : State) : ∀ o, exec (.laychk o) s = execLaychk o s := by intros; rfl
theorem exec_mma (s : State) : ∀ o, exec (.mma o) s = execMma o s := by intros; rfl
theorem exec_znew (s : State) : ∀ o, exec (.znew o) s = execZnew o s := by intros; rfl
theorem exec_zclr (s : State) : ∀ o, exec (.zclr o) s = execZclr o s := by intros; rfl
theorem exec_zrd (s : State) : ∀ o, exec (.zrd o) s = execZrd o s := by intros; rfl
theorem exec_zst (s : State) : ∀ o, exec (.zst o) s = execZst o s := by intros; rfl
theorem exec_coll (s : State) : ∀ o, exec (.coll o) s = execColl o s := by intros; rfl
theorem exec_leave (s : State) : ∀ o, exec (.leave o) s = execLeave o s := by intros; rfl
theorem exec_trap (s : State) : ∀ o, exec (.trap o) s = execTrap o s := by intros; rfl
theorem exec_tret (s : State) : ∀ o, exec (.tret o) s = execTret o s := by intros; rfl
theorem exec_yield (s : State) : ∀ o, exec (.yield o) s = execYield o s := by intros; rfl
theorem exec_snap (s : State) : ∀ o, exec (.snap o) s = execSnap o s := by intros; rfl
theorem exec_tmark (s : State) : ∀ o, exec (.tmark o) s = execTmark o s := by intros; rfl
theorem exec_dbrk (s : State) : ∀ o, exec (.dbrk o) s = execDbrk o s := by intros; rfl
theorem exec_stallCycle (s : State) : ∀ co, exec (.stallCycle co) s = execStallCycle co s := by intros; rfl
theorem exec_illegalInstruction (s : State) : ∀ word ext, exec (.illegalInstruction word ext) s = execIllegalInstruction word ext s := by intros; rfl
theorem exec_resultLanding (s : State) : ∀ co st k, exec (.resultLanding co st k) s = execResultLanding co st k s := by intros; rfl
theorem exec_checkMismatch (s : State) : ∀ co st count, exec (.checkMismatch co st count) s = execCheckMismatch co st count s := by intros; rfl
theorem exec_lateFault (s : State) : ∀ co, exec (.lateFault co) s = execLateFault co s := by intros; rfl
theorem exec_pageWalk (s : State) : ∀ die va, exec (.pageWalk die va) s = execPageWalk die va s := by intros; rfl
theorem exec_codeFill (s : State) : ∀ launch line, exec (.codeFill launch line) s = execCodeFill launch line s := by intros; rfl
theorem exec_lineFill (s : State) : ∀ core line, exec (.lineFill core line) s = execLineFill core line s := by intros; rfl
theorem exec_storeAck (s : State) : ∀ co st, exec (.storeAck co st) s = execStoreAck co st s := by intros; rfl
theorem exec_horizonPassed (s : State) : ∀ co st, exec (.horizonPassed co st) s = execHorizonPassed co st s := by intros; rfl
theorem exec_rdcFill (s : State) : ∀ die line, exec (.rdcFill die line) s = execRdcFill die line s := by intros; rfl
theorem exec_l1WritebackTimer (s : State) : ∀ core, exec (.l1WritebackTimer core) s = execL1WritebackTimer core s := by intros; rfl
theorem exec_updateOnlyRequest (s : State) : ∀ slice, exec (.updateOnlyRequest slice) s = execUpdateOnlyRequest slice s := by intros; rfl
theorem exec_accWindowRollover (s : State) : ∀ slice, exec (.accWindowRollover slice) s = execAccWindowRollover slice s := by intros; rfl
theorem exec_eddyAgeExpiry (s : State) : ∀ block, exec (.eddyAgeExpiry block) s = execEddyAgeExpiry block s := by intros; rfl
theorem exec_forcedDelivery (s : State) : ∀ block, exec (.forcedDelivery block) s = execForcedDelivery block s := by intros; rfl
theorem exec_storeArrival (s : State) : ∀ k, exec (.storeArrival k) s = execStoreArrival k s := by intros; rfl
theorem exec_linkEntryArrival (s : State) : ∀ k, exec (.linkEntryArrival k) s = execLinkEntryArrival k s := by intros; rfl
theorem exec_copyCompletion (s : State) : ∀ core k, exec (.copyCompletion core k) s = execCopyCompletion core k s := by intros; rfl
theorem exec_copyFault (s : State) : ∀ core k, exec (.copyFault core k) s = execCopyFault core k s := by intros; rfl
theorem exec_reportDelivery (s : State) : ∀ co, exec (.reportDelivery co) s = execReportDelivery co s := by intros; rfl
theorem exec_mmaExecute (s : State) : ∀ pair, exec (.mmaExecute pair) s = execMmaExecute pair s := by intros; rfl
theorem exec_mmaCheck (s : State) : ∀ pair agree, exec (.mmaCheck pair agree) s = execMmaCheck pair agree s := by intros; rfl
theorem exec_zstEngine (s : State) : ∀ core k, exec (.zstEngine core k) s = execZstEngine core k s := by intros; rfl
theorem exec_collChunk (s : State) : ∀ plan chunk rank, exec (.collChunk plan chunk rank) s = execCollChunk plan chunk rank s := by intros; rfl
theorem exec_launchRecord (s : State) : ∀ queue, exec (.launchRecord queue) s = execLaunchRecord queue s := by intros; rfl
theorem exec_blockPlacement (s : State) : ∀ launch, exec (.blockPlacement launch) s = execBlockPlacement launch s := by intros; rfl
theorem exec_launchCompletion (s : State) : ∀ launch, exec (.launchCompletion launch) s = execLaunchCompletion launch s := by intros; rfl
theorem exec_taskGather (s : State) : ∀ launch, exec (.taskGather launch) s = execTaskGather launch s := by intros; rfl
theorem exec_press (s : State) : ∀ entry, exec (.press entry) s = execPress entry s := by intros; rfl
theorem exec_leaveGrant (s : State) : ∀ die, exec (.leaveGrant die) s = execLeaveGrant die s := by intros; rfl
theorem exec_sluiceLend (s : State) : ∀ die, exec (.sluiceLend die) s = execSluiceLend die s := by intros; rfl
theorem exec_leaveChainRelease (s : State) : ∀ co tile, exec (.leaveChainRelease co tile) s = execLeaveChainRelease co tile s := by intros; rfl
theorem exec_leaveUnusedExpiry (s : State) : ∀ co, exec (.leaveUnusedExpiry co) s = execLeaveUnusedExpiry co s := by intros; rfl
theorem exec_preemptRequest (s : State) : ∀ launch, exec (.preemptRequest launch) s = execPreemptRequest launch s := by intros; rfl
theorem exec_preemptTrap (s : State) : ∀ co, exec (.preemptTrap co) s = execPreemptTrap co s := by intros; rfl
theorem exec_forcedSave (s : State) : ∀ co, exec (.forcedSave co) s = execForcedSave co s := by intros; rfl
theorem exec_blockLeave (s : State) : ∀ block, exec (.blockLeave block) s = execBlockLeave block s := by intros; rfl
theorem exec_blockRestore (s : State) : ∀ block, exec (.blockRestore block) s = execBlockRestore block s := by intros; rfl
theorem exec_firmwareAbort (s : State) : ∀ launch, exec (.firmwareAbort launch) s = execFirmwareAbort launch s := by intros; rfl
theorem exec_firmwareResume (s : State) : ∀ co, exec (.firmwareResume co) s = execFirmwareResume co s := by intros; rfl
theorem exec_firmwarePressResume (s : State) : ∀ entry, exec (.firmwarePressResume entry) s = execFirmwarePressResume entry s := by intros; rfl
theorem exec_firmwareDeclareInvalid (s : State) : ∀ va, exec (.firmwareDeclareInvalid va) s = execFirmwareDeclareInvalid va s := by intros; rfl
theorem exec_haltRequest (s : State) : ∀ co, exec (.haltRequest co) s = execHaltRequest co s := by intros; rfl
theorem exec_programBuffer (s : State) : ∀ co words, exec (.programBuffer co words) s = execProgramBuffer co words s := by intros; rfl
theorem exec_dargWrite (s : State) : ∀ value, exec (.dargWrite value) s = execDargWrite value s := by intros; rfl
theorem exec_resume (s : State) : ∀ co, exec (.resume co) s = execResume co s := by intros; rfl
theorem exec_singleStep (s : State) : ∀ co, exec (.singleStep co) s = execSingleStep co s := by intros; rfl
theorem exec_resumeAtPc (s : State) : ∀ co pc, exec (.resumeAtPc co pc) s = execResumeAtPc co pc s := by intros; rfl
theorem exec_traceTimePacket (s : State) : ∀ core, exec (.traceTimePacket core) s = execTraceTimePacket core s := by intros; rfl
theorem exec_traceSummary (s : State) : ∀ co, exec (.traceSummary co) s = execTraceSummary co s := by intros; rfl
theorem exec_traceRoomReturn (s : State) : ∀ core, exec (.traceRoomReturn core) s = execTraceRoomReturn core s := by intros; rfl
theorem exec_snapshotAgentTrigger (s : State) : exec .snapshotAgentTrigger s = execSnapshotAgentTrigger s := rfl
theorem exec_snapshotInput (s : State) : exec .snapshotInput s = execSnapshotInput s := rfl
theorem exec_snapshotArm (s : State) : ∀ block, exec (.snapshotArm block) s = execSnapshotArm block s := by intros; rfl
theorem exec_crossbarPacket (s : State) : ∀ channel crcGood, exec (.crossbarPacket channel crcGood) s = execCrossbarPacket channel crcGood s := by intros; rfl
theorem exec_flitReceive (s : State) : ∀ link flit, exec (.flitReceive link flit) s = execFlitReceive link flit s := by intros; rfl
theorem exec_nak (s : State) : ∀ link seq, exec (.nak link seq) s = execNak link seq s := by intros; rfl
theorem exec_wreq (s : State) : ∀ link mask, exec (.wreq link mask) s = execWreq link mask s := by intros; rfl
theorem exec_wchg (s : State) : ∀ link mask, exec (.wchg link mask) s = execWchg link mask s := by intros; rfl
theorem exec_wack (s : State) : ∀ link seq, exec (.wack link seq) s = execWack link seq s := by intros; rfl
theorem exec_retrainWindow (s : State) : ∀ link wave count, exec (.retrainWindow link wave count) s = execRetrainWindow link wave count s := by intros; rfl
theorem exec_trainingComplete (s : State) : ∀ link wave count, exec (.trainingComplete link wave count) s = execTrainingComplete link wave count s := by intros; rfl
theorem exec_widthPolicy (s : State) : ∀ link sense, exec (.widthPolicy link sense) s = execWidthPolicy link sense s := by intros; rfl
theorem exec_linkRekey (s : State) : ∀ link, exec (.linkRekey link) s = execLinkRekey link s := by intros; rfl
theorem exec_read (s : State) : ∀ h size, exec (.read h size) s = execRead h size s := by intros; rfl
theorem exec_write (s : State) : ∀ h mask data, exec (.write h mask data) s = execWrite h mask data s := by intros; rfl
theorem exec_readModifyWrite (s : State) : ∀ h op, exec (.readModifyWrite h op) s = execReadModifyWrite h op s := by intros; rfl
theorem exec_accumulate (s : State) : ∀ h op addend, exec (.accumulate h op addend) s = execAccumulate h op addend s := by intros; rfl
theorem exec_arrive (s : State) : ∀ h designator, exec (.arrive h designator) s = execArrive h designator s := by intros; rfl
theorem exec_response (s : State) : ∀ tid good data, exec (.response tid good data) s = execResponse tid good data s := by intros; rfl
theorem exec_writeAcknowledgement (s : State) : ∀ tid good, exec (.writeAcknowledgement tid good) s = execWriteAcknowledgement tid good s := by intros; rfl
theorem exec_reductionPiece (s : State) : ∀ h piece, exec (.reductionPiece h piece) s = execReductionPiece h piece s := by intros; rfl
theorem exec_chunkBit (s : State) : ∀ h plan rank chunk, exec (.chunkBit h plan rank chunk) s = execChunkBit h plan rank chunk s := by intros; rfl
theorem exec_hostWrite (s : State) : ∀ offset data, exec (.hostWrite offset data) s = execHostWrite offset data s := by intros; rfl
theorem exec_hostRead (s : State) : ∀ offset len, exec (.hostRead offset len) s = execHostRead offset len s := by intros; rfl
theorem exec_doorbellTicket (s : State) : ∀ queue, exec (.doorbellTicket queue) s = execDoorbellTicket queue s := by intros; rfl
theorem exec_doorbellHead (s : State) : ∀ queue, exec (.doorbellHead queue) s = execDoorbellHead queue s := by intros; rfl
theorem exec_apbaseWrite (s : State) : ∀ value, exec (.apbaseWrite value) s = execApbaseWrite value s := by intros; rfl
theorem exec_registerWrite (s : State) : ∀ reg value, exec (.registerWrite reg value) s = execRegisterWrite reg value s := by intros; rfl
theorem exec_map (s : State) : ∀ r, exec (.map r) s = execMap r s := by intros; rfl
theorem exec_unmap (s : State) : ∀ va size, exec (.unmap va size) s = execUnmap va size s := by intros; rfl
theorem exec_setregBaseAllowance (s : State) : ∀ watts, exec (.setregBaseAllowance watts) s = execSetregBaseAllowance watts s := by intros; rfl
theorem exec_setregAccControl (s : State) : ∀ slice value, exec (.setregAccControl slice value) s = execSetregAccControl slice value s := by intros; rfl
theorem exec_setregLease (s : State) : ∀ slice value, exec (.setregLease slice value) s = execSetregLease slice value s := by intros; rfl
theorem exec_setregDebugKey (s : State) : ∀ digest, exec (.setregDebugKey digest) s = execSetregDebugKey digest s := by intros; rfl
theorem exec_attest (s : State) : ∀ nonce, exec (.attest nonce) s = execAttest nonce s := by intros; rfl
theorem exec_session (s : State) : ∀ ciphertext, exec (.session ciphertext) s = execSession ciphertext s := by intros; rfl
theorem exec_debugReq (s : State) : ∀ key signature, exec (.debugReq key signature) s = execDebugReq key signature s := by intros; rfl
theorem exec_regions (s : State) : ∀ r, exec (.regions r) s = execRegions r s := by intros; rfl
theorem exec_stats (s : State) : exec .stats s = execStats s := rfl
theorem exec_reset (s : State) : exec .reset s = execReset s := rfl
theorem exec_bringUp (s : State) : ∀ b, exec (.bringUp b) s = execBringUp b s := by intros; rfl
theorem exec_powerSample (s : State) : ∀ watts temps, exec (.powerSample watts temps) s = execPowerSample watts temps s := by intros; rfl
theorem exec_clockStepDown (s : State) : exec .clockStepDown s = execClockStepDown s := rfl
theorem exec_clockStepUp (s : State) : exec .clockStepUp s = execClockStepUp s := rfl
theorem exec_thermalTrip (s : State) : exec .thermalTrip s = execThermalTrip s := rfl
theorem exec_mctpControl (s : State) : ∀ message, exec (.mctpControl message) s = execMctpControl message s := by intros; rfl
theorem exec_pldmMonitoring (s : State) : ∀ sensor, exec (.pldmMonitoring sensor) s = execPldmMonitoring sensor s := by intros; rfl
theorem exec_vendorAttest (s : State) : ∀ nonce, exec (.vendorAttest nonce) s = execVendorAttest nonce s := by intros; rfl
theorem exec_placementReport (s : State) : ∀ launch device status, exec (.placementReport launch device status) s = execPlacementReport launch device status s := by intros; rfl
theorem exec_relight (s : State) : ∀ link wave, exec (.relight link wave) s = execRelight link wave s := by intros; rfl

end Sys2Proof.Machine
end

