-- ==== Sys2Proof/Laws/Memory.lean ====
section
/-! SUPPORT. The byte list: every operation keeps its canonical form, and a byte read after a write is the one written. -/

namespace Sys2Proof.Machine

theorem Mem.wfFrom_mono {blank : Byte} {lo hi : Nat} (h : lo ≤ hi) {m : Mem} (hm : Mem.wfFrom blank hi m = true) :
    Mem.wfFrom blank lo m = true := by
  cases m with
  | nil => rfl
  | cons c r =>
    obtain ⟨a, b⟩ := c
    simp only [Mem.wfFrom, Bool.and_eq_true, decide_eq_true_eq] at hm ⊢
    exact ⟨⟨by omega, hm.1.2⟩, hm.2⟩

theorem Mem.wfFrom_set {blank : Byte} {lo k : Nat} {v : Byte} {m : Mem} (hk : lo ≤ k)
    (hm : Mem.wfFrom blank lo m = true) : Mem.wfFrom blank lo (Mem.set blank m k v) = true := by
  induction m generalizing lo with
  | nil => unfold Mem.set; split <;> simp_all [Mem.wfFrom]
  | cons c r ih =>
    obtain ⟨a, b⟩ := c
    simp only [Mem.wfFrom, Bool.and_eq_true, decide_eq_true_eq] at hm
    obtain ⟨⟨h1, h2⟩, h3⟩ := hm
    unfold Mem.set
    split
    · split
      · simp [Mem.wfFrom, h1, h2, h3]
      · simp only [Mem.wfFrom, Bool.and_eq_true, decide_eq_true_eq]
        exact ⟨⟨hk, by assumption⟩, ⟨by omega, h2⟩, h3⟩
    · split
      · split
        · exact Mem.wfFrom_mono (by omega) h3
        · simp only [Mem.wfFrom, Bool.and_eq_true, decide_eq_true_eq]
          exact ⟨⟨h1, by assumption⟩, h3⟩
      · simp only [Mem.wfFrom, Bool.and_eq_true, decide_eq_true_eq]
        exact ⟨⟨h1, h2⟩, ih (by omega) h3⟩

/-- Writing a byte keeps the canonical form. -/
theorem Mem.wf_set {blank : Byte} {k : Nat} {v : Byte} {m : Mem} (hm : Mem.wf blank m = true) :
    Mem.wf blank (Mem.set blank m k v) = true := Mem.wfFrom_set (Nat.zero_le k) hm

/-- Writing bytes keeps the canonical form. -/
theorem Mem.wf_write {blank : Byte} {k : Nat} {bs : List Byte} {m : Mem} (hm : Mem.wf blank m = true) :
    Mem.wf blank (Mem.write blank m k bs) = true := by
  induction bs generalizing m k with
  | nil => exact hm
  | cons b bs ih => exact ih (Mem.wf_set hm)

theorem Mem.wf_setAll {blank : Byte} {ps : List (Nat × Byte)} {m : Mem} (hm : Mem.wf blank m = true) :
    Mem.wf blank (ps.foldl (fun m p => Mem.set blank m p.1 p.2) m) = true := by
  induction ps generalizing m with
  | nil => exact hm
  | cons p ps ih => exact ih (Mem.wf_set hm)

theorem Mem.get_lt {blank : Byte} {lo k : Nat} {m : Mem} (h : k < lo) (hm : Mem.wfFrom blank lo m = true) :
    Mem.get blank m k = blank := by
  cases m with
  | nil => rfl
  | cons c r =>
    obtain ⟨a, b⟩ := c
    simp only [Mem.wfFrom, Bool.and_eq_true, decide_eq_true_eq] at hm
    simp [Mem.get, show k < a by omega]

theorem Mem.get_setFrom {blank : Byte} {lo k j : Nat} {v : Byte} {m : Mem} (hm : Mem.wfFrom blank lo m = true) :
    Mem.get blank (Mem.set blank m k v) j = if j = k then v else Mem.get blank m j := by
  induction m generalizing lo with
  | nil =>
    by_cases hj : j = k
    · unfold Mem.set; split <;> simp_all [Mem.get]
    · unfold Mem.set; split <;> simp_all [Mem.get]
  | cons c r ih =>
    obtain ⟨a, b⟩ := c
    simp only [Mem.wfFrom, Bool.and_eq_true, decide_eq_true_eq] at hm
    obtain ⟨⟨h1, h2⟩, h3⟩ := hm
    have hlt : ∀ i, i ≤ a → Mem.get blank r i = blank := fun i hi => Mem.get_lt (by omega) h3
    unfold Mem.set
    split
    · split
      · by_cases hj : j = k
        · subst hj; simp_all [Mem.get]
        · simp [hj]
      · by_cases hj : j = k
        · subst hj; simp [Mem.get]
        · simp only [Mem.get, hj, if_false]
          split
          · rw [if_pos (by omega)]
          · rfl
    · split
      · rename_i hka
        split
        · by_cases hj : j = k
          · subst hj; simp [*]
          · simp only [hj, if_false, Mem.get]
            by_cases hja : j < a
            · simp [hja, hlt j (by omega)]
            · simp [hja, show j ≠ a by omega]
        · subst hka
          by_cases hj : j = k
          · subst hj; simp [Mem.get]
          · simp [Mem.get, hj]
      · simp only [Mem.get, ih h3]
        by_cases hj : j = k
        · subst hj; simp [show ¬ j < a by omega, show j ≠ a by omega]
        · simp [hj]

/-- A byte read after a byte is written. -/
theorem Mem.get_set {blank : Byte} {k j : Nat} {v : Byte} {m : Mem} (hm : Mem.wf blank m = true) :
    Mem.get blank (Mem.set blank m k v) j = if j = k then v else Mem.get blank m j := Mem.get_setFrom hm

/-- Writes at homes keep every memory canonical. -/
theorem memoryOk_homePut {s : State} {pa : Nat} {bs : List Byte} (h : s.memoryOk) : (s.homePut pa bs).memoryOk :=
  ⟨Mem.wf_write h.1, h.2⟩

theorem modifyAt_mem {α : Type} {f : α → α} {l : List α} {k : Nat} {x : α} (h : x ∈ modifyAt f l k) :
    x ∈ l ∨ ∃ y ∈ l, x = f y := by
  induction l generalizing k with
  | nil => exact absurd h (by simp [modifyAt])
  | cons a l ih =>
    cases k with
    | zero =>
      simp only [modifyAt, List.mem_cons] at h
      rcases h with rfl | h
      · exact .inr ⟨a, List.mem_cons_self, rfl⟩
      · exact .inl (List.mem_cons_of_mem _ h)
    | succ k =>
      simp only [modifyAt, List.mem_cons] at h
      rcases h with rfl | h
      · exact .inl List.mem_cons_self
      · rcases ih h with h | ⟨y, hy, e⟩
        · exact .inl (List.mem_cons_of_mem _ h)
        · exact .inr ⟨y, List.mem_cons_of_mem _ hy, e⟩

/-- Changing a core keeps every memory canonical when it keeps that core's scratchpad so. -/
theorem memoryOk_modCore {s : State} {k : Nat} {f : Core → Core} (h : s.memoryOk)
    (hf : ∀ c, Mem.wf Config.blankScratch c.sp = true → Mem.wf Config.blankScratch (f c).sp = true) :
    (s.modCore k f).memoryOk := by
  refine ⟨h.1, fun c hc => ?_⟩
  rcases modifyAt_mem hc with hc | ⟨y, hy, rfl⟩
  · exact h.2 c hc
  · exact hf y (h.2 y hy)

/-- Writes to a scratchpad keep every memory canonical. -/
theorem memoryOk_spWrite {s : State} {k : Nat} {ps : List (Nat × Byte)} (h : s.memoryOk) : (s.spWrite k ps).memoryOk :=
  memoryOk_modCore h fun _ hc => Mem.wf_setAll hc

/-- The memories of the module right after reset are canonical. -/
theorem reset_memory : State.reset.mem = [] := rfl

end Sys2Proof.Machine
end

