-- ==== Sys2Proof/Laws/Words.lean ====
section
/-! SUPPORT. The word functions of the integer instructions in the plain terms of bit vectors. -/

namespace Sys2Proof.Machine

theorem shlW_eq (a b : Word) : shlW a b = a <<< b.toNat := by
  unfold shlW
  split
  · rfl
  · exact (BitVec.shiftLeft_eq_zero (by omega)).symm

theorem shrW_eq (a b : Word) : shrW a b = a >>> b.toNat := by
  unfold shrW
  split
  · rfl
  · exact (BitVec.ushiftRight_eq_zero (by omega)).symm

theorem sarW_eq (a b : Word) : sarW a b = a.sshiftRight b.toNat := by
  unfold sarW
  split
  · rfl
  · rename_i h
    apply BitVec.eq_of_getLsbD_eq
    intro i hi
    simp only [BitVec.getLsbD_sshiftRight, BitVec.msb_eq_getLsbD_last]
    have h1 : ¬ (32 ≤ i) := by omega
    have h2 : ¬ (b.toNat + i < 32) := by omega
    simp only [h1, decide_false, Bool.not_false, Bool.true_and, h2, if_false]
    by_cases h3 : 31 + i < 32
    · have : i = 0 := by omega
      subst this
      simp
    · simp [h3]

theorem rolW_eq (a b : Word) : rolW a b = a.rotateLeft b.toNat := by
  simp [rolW, BitVec.rotateLeft]

theorem rorW_eq (a b : Word) : rorW a b = a.rotateRight b.toNat := by
  simp [rorW, BitVec.rotateRight]

theorem smin_eq (a b : Word) : (if a.slt b then a else b) = BitVec.ofInt 32 (min a.toInt b.toInt) := by
  rw [BitVec.slt_eq_decide]
  split <;> rename_i h <;> simp only [decide_eq_true_eq] at h
  · rw [Int.min_eq_left (by omega)]; simp
  · rw [Int.min_eq_right (by omega)]; simp

theorem smax_eq (a b : Word) : (if b.slt a then a else b) = BitVec.ofInt 32 (max a.toInt b.toInt) := by
  rw [BitVec.slt_eq_decide]
  split <;> rename_i h <;> simp only [decide_eq_true_eq] at h
  · rw [Int.max_eq_left (by omega)]; simp
  · rw [Int.max_eq_right (by omega)]; simp

theorem umin_eq (a b : Word) : (if a.ult b then a else b) = BitVec.ofNat 32 (min a.toNat b.toNat) := by
  rw [BitVec.ult_eq_decide]
  split <;> rename_i h <;> simp only [decide_eq_true_eq] at h
  · rw [Nat.min_eq_left (by omega)]; simp
  · rw [Nat.min_eq_right (by omega)]; simp

theorem umax_eq (a b : Word) : (if b.ult a then a else b) = BitVec.ofNat 32 (max a.toNat b.toNat) := by
  rw [BitVec.ult_eq_decide]
  split <;> rename_i h <;> simp only [decide_eq_true_eq] at h
  · rw [Nat.max_eq_left (by omega)]; simp
  · rw [Nat.max_eq_right (by omega)]; simp

theorem clampS_eq (x : Int) : clampS x = BitVec.ofInt 32 (max (-2 ^ 31) (min (2 ^ 31 - 1) x)) := by
  unfold clampS clampInt
  congr 1
  split
  · omega
  · split <;> omega

theorem absW_eq (a : Word) : absW a = BitVec.ofNat 32 a.toInt.natAbs := by
  unfold absW
  rw [BitVec.slt_eq_decide]
  apply BitVec.eq_of_toNat_eq
  have h := a.isLt
  split <;> rename_i h2 <;> simp only [decide_eq_true_eq] at h2
  · simp only [BitVec.toNat_neg, BitVec.toNat_ofNat]
    rw [BitVec.toInt_eq_toNat_cond] at *
    split at h2 <;> simp at h2 <;> omega
  · simp only [BitVec.toNat_ofNat]
    rw [BitVec.toInt_eq_toNat_cond] at *
    split at h2 <;> simp at h2 <;> omega

theorem mulHighU_eq (a b : Word) : mulHighU a b = (a.setWidth 64 * b.setWidth 64).extractLsb' 32 32 := by
  apply BitVec.eq_of_toNat_eq
  have ha := a.isLt
  have hb := b.isLt
  have h : a.toNat * b.toNat < 2 ^ 64 := by
    calc a.toNat * b.toNat ≤ (2 ^ 32 - 1) * (2 ^ 32 - 1) := Nat.mul_le_mul (by omega) (by omega)
      _ < 2 ^ 64 := by decide
  simp only [mulHighU, BitVec.extractLsb'_toNat, BitVec.toNat_ofNat, BitVec.toNat_mul, BitVec.toNat_setWidth,
    Nat.shiftRight_eq_div_pow]
  rw [Nat.mod_eq_of_lt (a := a.toNat) (by omega), Nat.mod_eq_of_lt (a := b.toNat) (by omega), Nat.mod_eq_of_lt h]

theorem mulHighS_eq (a b : Word) : mulHighS a b = (a.signExtend 64 * b.signExtend 64).extractLsb' 32 32 := by
  apply BitVec.eq_of_toNat_eq
  have h : a.signExtend 64 * b.signExtend 64 = BitVec.ofInt 64 (a.toInt * b.toInt) := by
    rw [BitVec.ofInt_mul]
    rfl
  rw [h]
  simp only [mulHighS, BitVec.extractLsb'_toNat, BitVec.toNat_ofInt, Nat.shiftRight_eq_div_pow]
  generalize a.toInt * b.toInt = x
  omega

theorem countBits_eq (n x : Nat) : countBits n x = ((List.range n).filter x.testBit).length := by
  induction n generalizing x with
  | zero => rfl
  | succ n ih =>
    rw [List.range_succ_eq_map, List.filter_cons, List.filter_map, countBits, ih]
    have h : (x.testBit ∘ Nat.succ) = (x / 2).testBit := by
      funext k
      simp [Nat.testBit_succ]
    rw [h]
    rcases Nat.mod_two_eq_zero_or_one x with h0 | h0 <;> simp [h0] <;> omega

theorem popcW_eq (a : Word) : popcW a = BitVec.ofNat 32 ((List.range 32).filter a.getLsbD).length := by
  rw [popcW, countBits_eq]
  rfl

theorem takeWhile_range_length (p : Nat → Bool) (m n : Nat) (hmn : m ≤ n) (h : ∀ k, k < m → p k = true)
    (hp : m < n → p m = false) : ((List.range n).takeWhile p).length = m := by
  induction n generalizing p m with
  | zero => simp_all
  | succ n ih =>
    rw [List.range_succ_eq_map]
    cases m with
    | zero => simp [hp (by omega)]
    | succ m =>
      rw [List.takeWhile_cons, h 0 (by omega)]
      simp only [if_true, List.takeWhile_map, List.length_cons, List.length_map]
      rw [ih (p ∘ Nat.succ) m (by omega) (fun k hk => h (k + 1) (by omega)) (fun hk => hp (by omega))]

theorem clzW_eq (a : Word) :
    clzW a = BitVec.ofNat 32 ((List.range 32).takeWhile fun k => !a.getLsbD (31 - k)).length := by
  unfold clzW
  have hlt := a.isLt
  split
  · rename_i h
    subst h
    decide
  · rename_i h
    have hne : a.toNat ≠ 0 := fun hz => h (BitVec.eq_of_toNat_eq (by simpa using hz))
    have h1 : Nat.log2 a.toNat < 32 := (Nat.log2_lt hne).mpr hlt
    rw [takeWhile_range_length _ (31 - Nat.log2 a.toNat) 32 (by omega)]
    · intro k hk
      simp only [Bool.not_eq_true', BitVec.getLsbD]
      apply Nat.testBit_lt_two_pow
      exact Nat.lt_of_lt_of_le (Nat.lt_log2_self) (Nat.pow_le_pow_right (by omega) (by omega))
    · intro _
      simp only [Bool.not_eq_false', BitVec.getLsbD]
      have : 31 - (31 - Nat.log2 a.toNat) = Nat.log2 a.toNat := by omega
      rw [this]
      exact Nat.testBit_log2 hne

end Sys2Proof.Machine
end

