-- ==== Sys2Proof/Tests/Slice0.lean ====
section
/-! SUPPORT. Tests: words written out from the spec's encodings, ill-formed terms that WellFormed refuses, one step of an
instruction on a small state, and for each statement a state that meets its hypotheses. -/

namespace Sys2Proof.Tests

set_option Elab.async false

open Sys2Proof Sys2Proof.Machine Sys2Proof.Claims

/-! ### Small states -/

/-- A module after reset whose focused cohort is about to issue an instruction, with lane 0 active. -/
def ready (i : Instr) : State := (State.reset.install (encode i)).setSt fun t => { t with mask := 1 }

/-- The same with 1 GiB of device memory mapped at 0: page tables at 0x20000000, and a TLB entry of core 0. -/
def mapped (s : State) : State :=
  { s.modCore 0 fun c => { c with tlb := [{ va := 0, level := 2, pa := 0, x := true, w := true, r := true }] } with
    mem := [⟨0x20000000, 1⟩, ⟨0x20000001, 0x10⟩, ⟨0x20000003, 0x20⟩, ⟨0x20001000, 1⟩, ⟨0x20001001, 0x20⟩, ⟨0x20001003, 0x20⟩,
            ⟨0x20002000, 31⟩]
    setup := { s.setup with root := 0x20000000 } }

/-- The same with a trap handler in the line of the code. -/
def handled (s : State) : State := s.setCo fun c => { c with handler := 0x400008 }

/-- The hypotheses of `State.Clear` as one test. -/
def clear (i : Instr) (s : State) : Bool :=
  (s.decodeChecks i).isNone && decide (s.checkArrival (seqNext s.pcAddr i.length) true false = .ok)

theorem clear_ok {i : Instr} {s : State} (h : clear i s = true) : s.Clear i := by
  simp only [clear, Bool.and_eq_true, Option.isNone_iff_eq_none, decide_eq_true_eq] at h
  exact ⟨h.1, Or.inr h.2⟩

/-- The hypotheses of `State.Room` as one test, where nothing is due to be written back. -/
def roomy (s p : State) (n : Nat) : Bool := decide (s.co.wheyt + n ≤ p.co.lim) && decide (s.co.wheyt + n ≤ s.co.wheyWb + 1024)

theorem roomy_ok {s p : State} {n : Nat} (h : roomy s p n = true) : s.Room p n := by
  simp only [roomy, Bool.and_eq_true, decide_eq_true_eq] at h
  exact ⟨Or.inr h.1, Or.inl h.2⟩

/-- The state after one `exec`; a stop leaves the reset state. -/
def after (i : Instr) (s : State) : State :=
  match exec i s with
  | .next t => t
  | _ => State.reset

/-- The outcome is a next state. -/
def runs (o : Host.Outcome State Fault Refusal) : Bool :=
  match o with
  | .next _ => true
  | _ => false

theorem runs_ok {o : Host.Outcome State Fault Refusal} (h : runs o = true) : ∃ t, o = .next t := by
  cases o with
  | next t => exact ⟨t, rfl⟩
  | fault f => cases h
  | refused r => cases h

/-! ### Operands -/

def l (c : LForm → Instr) : Instr := c { s := false, d := 4, a := 5, b := 6, lit := 0 }
def q (c : LqForm → Instr) (mod : BitVec 8) (imm : BitVec 16) : Instr :=
  c { s := false, d := 4, a := 5, b := 6, c := 7, mod := mod, imm := imm, lit := 0 }
/-- An LQ instruction with B and C codes. -/
def qf (c : LqForm → Instr) (a : BitVec 7) (b cc mod : BitVec 8) (imm : BitVec 16) : Instr :=
  c { s := false, d := 4, a := a, b := b, c := cc, mod := mod, imm := imm, lit := 0 }
def u (c : UForm → Instr) (d a b : BitVec 8) : Instr := c { s := false, d := d, a := a, b := b }
def ux (c : UxForm → Instr) (d a b : BitVec 8) (ext : BitVec 24) : Instr := c { s := false, d := d, a := a, b := b, ext := ext }
def ue (c : UeForm → Instr) (d a b : BitVec 8) (ext : Word) : Instr := c { s := false, d := d, a := a, b := b, ext := ext }

/-! ### Lane and uniform instructions -/

def lane2s : List Instr :=
  [l .iadd, l .isub, l .imul, l .imulh, l .laneUmulh, l .iand, l .ior, l .ixor, l .shl, l .shr, l .sar, l .rol, l .ror,
   l .imin, l .imax, l .laneUmin, l .laneUmax, l .iadds, l .isubs]
def l1 (c : LForm → Instr) : Instr := c { s := false, d := 4, a := 5, b := 0, lit := 0 }
def lane1s : List Instr :=
  [l1 .inot, l1 .ineg, l1 .brev, l1 .iabs, l1 .popc, l1 .clz, l1 .fabs, l1 .fneg, l1 .fclass, q .imad 0 0, q .sel 0 0,
   q .bpick 0 0, qf .bfe 5 0 0 0 0x100, qf .bfi 5 6 0 0 0x100, qf .icmp 5 6 0 0 0, .mov { s := false, d := 4, a := 0, b := 6, lit := 0 }, qf .lread 0 0 0 0 0]
def laneFs : List Instr :=
  [l .fadd, l .fsub, l .fmul, l .fmin, l .fmax, l .fscale, q .ffma 0 0, q .ffma3 0 0, qf .frint 5 0 0 0 0, qf .fcmp 5 6 0 0 0]
def lanePs : List Instr :=
  [qf .padd 5 6 0 0 0, qf .psub 5 6 0 0 0, qf .pmul 5 6 0 0 0, qf .pfma 5 6 7 6 0, qf .pmin 5 6 0 0 0, qf .pmax 5 6 0 0 0,
   qf .pabs 5 0 0 0 0, qf .pneg 5 0 0 0 0, qf .pavg 5 6 0 0 0, qf .pshl 5 6 0 0 0, qf .pshr 5 6 0 0 0, qf .psar 5 6 0 0 0,
   qf .pcmp 5 6 0 0 0, qf .pdot 5 6 7 0 0, qf .psad 5 6 7 0 0]
def laneCs : List Instr :=
  [qf .cvt 5 0 0 0 0, qf .pack 5 6 0 0 0, qf .unpk 5 0 0 0 0, qf .qblk 5 0 0 0 0, qf .dqblk 5 0 0 0 0]
def laneXs : List Instr := [q .shfl 0 0, q .shflx 0 0, q .shflu 0 0, q .shfld 0 0, qf .scan 5 0 0 0 0]
def laneSs : List Instr :=
  [l .fdiv, l1 .fsqrt, l1 .frcp, l1 .frsq, l1 .fexp2, l1 .flog2, l1 .fsin, l1 .fcos, l1 .ftanh, l1 .fsigm]
def uniforms : List Instr :=
  [u .uadd 10 11 12, u .usub 10 11 12, u .umul 10 11 12, u .umulh 10 11 12, u .uand 10 11 12, u .uor 10 11 12,
   u .uxor 10 11 12, u .ushl 10 11 12, u .ushr 10 11 12, u .usar 10 11 12, u .urol 10 11 12, u .umin 10 11 12,
   u .umax 10 11 12, u .unot 10 11 0, u .umov 10 11 0, .uaddi { s := false, d := 10, imm := 3 },
   .umovi { s := false, d := 10, imm := 3 }, .umovh { s := false, d := 10, imm := 3 }, .uxori { s := false, d := 10, imm := 3 },
   u .uadd64 10 12 14, u .umov64 10 12 0, ue .ucmp 10 12 14 0, u .nop 0 0 0, ux .usel 10 11 12 0, ux .ubfe 10 11 0 0x100,
   ux .ubfi 10 11 12 0x100, ux .upopc 10 11 0 0, ux .uclz 10 11 0 0, u .uswap 10 11 0, u .mballot 10 5 0, u .vote 10 5 0,
   u .rdlane 10 5 11]

/-- An instruction that a table gives an entry, clear in its state, with room. -/
def given {α : Type} (o : State → Instr → Option α) (n : Nat) (i : Instr) : Bool :=
  (o (ready i) i).isSome && clear i (ready i) && roomy (ready i) (ready i) n

theorem given_ok {α : Type} {o : State → Instr → Option α} {n : Nat} {i : Instr} (h : given o n i = true) :
    (∃ x, o (ready i) i = some x) ∧ (ready i).Clear i ∧ (ready i).Room (ready i) n := by
  simp only [given, Bool.and_eq_true] at h
  exact ⟨Option.isSome_iff_exists.mp h.1.1, clear_ok h.1.2, roomy_ok h.2⟩

theorem no_trap (fl : Flags) : trappedFlags 0 fl = 0 := by
  have h : ∀ fl : Flags, trappedFlags 0 fl = 0 := by decide +kernel
  exact h fl

theorem ready_fmode (i : Instr) : (ready i).co.fmode = 0 := rfl

/-- LaneIntegerResults, for every instruction of two sources. -/
theorem witness_lane_integer_two : ∀ i ∈ lane2s, ∃ d f, laneInt2 (ready i) i = some (d, f) ∧ (ready i).Clear i
    ∧ (ready i).Room (ready i) 428 := by
  have h : ∀ i ∈ lane2s, given laneInt2 428 i = true := by decide +kernel
  intro i m
  obtain ⟨⟨⟨d, f⟩, e⟩, c, r⟩ := given_ok (h i m)
  exact ⟨d, f, e, c, r⟩

/-- LaneIntegerResults, for the others. -/
theorem witness_lane_integer_others : ∀ i ∈ lane1s, ∃ d f, laneInt1 (ready i) i = some (d, f) ∧ (ready i).Clear i
    ∧ (ready i).Room (ready i) 428 := by
  have h : ∀ i ∈ lane1s, given laneInt1 428 i = true := by decide +kernel
  intro i m
  obtain ⟨⟨⟨d, f⟩, e⟩, c, r⟩ := given_ok (h i m)
  exact ⟨d, f, e, c, r⟩

/-- LaneFlaggedResults: floating point. -/
theorem witness_lane_float : ∀ i ∈ laneFs, ∃ d f fl, laneFloat (ready i) i = some (d, f, fl) ∧ (ready i).Clear i
    ∧ (ready i).Room (ready i) 428 ∧ trappedFlags (ready i).co.fmode fl = 0 := by
  have h : ∀ i ∈ laneFs, given laneFloat 428 i = true := by decide +kernel
  intro i m
  obtain ⟨⟨⟨d, f, fl⟩, e⟩, c, r⟩ := given_ok (h i m)
  exact ⟨d, f, fl, e, c, r, no_trap fl⟩

/-- LaneFlaggedResults: packed. -/
theorem witness_lane_packed : ∀ i ∈ lanePs, ∃ d f fl, lanePacked (ready i) i = some (d, f, fl) ∧ (ready i).Clear i
    ∧ (ready i).Room (ready i) 428 ∧ trappedFlags (ready i).co.fmode fl = 0 := by
  have h : ∀ i ∈ lanePs, given lanePacked 428 i = true := by decide +kernel
  intro i m
  obtain ⟨⟨⟨d, f, fl⟩, e⟩, c, r⟩ := given_ok (h i m)
  exact ⟨d, f, fl, e, c, r, no_trap fl⟩

/-- LaneFlaggedResults: conversions, shuffles, the scan. -/
theorem witness_lane_convert : (∀ i ∈ laneCs, ∃ d f fl, laneConvert (ready i) i = some (d, f, fl) ∧ (ready i).Clear i
    ∧ (ready i).Room (ready i) 428 ∧ trappedFlags (ready i).co.fmode fl = 0)
    ∧ ∀ i ∈ laneXs, ∃ d f fl, laneCross (ready i) i = some (d, f, fl) ∧ (ready i).Clear i
    ∧ (ready i).Room (ready i) 428 ∧ trappedFlags (ready i).co.fmode fl = 0 := by
  have h : ∀ i ∈ laneCs, given laneConvert 428 i = true := by decide +kernel
  have h' : ∀ i ∈ laneXs, given laneCross 428 i = true := by decide +kernel
  constructor
  · intro i m
    obtain ⟨⟨⟨d, f, fl⟩, e⟩, c, r⟩ := given_ok (h i m)
    exact ⟨d, f, fl, e, c, r, no_trap fl⟩
  · intro i m
    obtain ⟨⟨⟨d, f, fl⟩, e⟩, c, r⟩ := given_ok (h' i m)
    exact ⟨d, f, fl, e, c, r, no_trap fl⟩

/-- LaneSpecialFunctions. -/
theorem witness_lane_special : ∀ i ∈ laneSs, ∃ d g, laneSpecials (ready i) i = some (d, g) ∧ (ready i).Clear i
    ∧ (ready i).Room (ready i) 428 ∧ (ready i).co.st.outOf .sf < 15
    ∧ trappedFlags (ready i).co.fmode (flagsOver (ready i).co.st.mask fun k => (g k).2) = 0 := by
  have h : ∀ i ∈ laneSs, given laneSpecials 428 i = true := by decide +kernel
  intro i m
  obtain ⟨⟨⟨d, g⟩, e⟩, c, r⟩ := given_ok (h i m)
  exact ⟨d, g, e, c, r, (by decide : 0 < 15), no_trap _⟩

/-- SelectMoveSwap, its last clause; UniformResults, its clause on `WRLANE`. -/
theorem witness_swap_wrlane :
    (∃ o, (ready (.swap o)).Clear (.swap o) ∧ (ready (.swap o)).Room (ready (.swap o)) 428)
    ∧ ∃ o, (ready (.wrlane o)).Clear (.wrlane o) ∧ (ready (.wrlane o)).Room (ready (.wrlane o)) 428 :=
  ⟨⟨{ s := false, d := 4, a := 5, b := 0, lit := 0 }, clear_ok (by decide +kernel), roomy_ok (by decide +kernel)⟩,
   ⟨{ s := false, d := 4, a := 10, b := 11 }, clear_ok (by decide +kernel), roomy_ok (by decide +kernel)⟩⟩

/-- UniformResults. -/
theorem witness_uniform : ∀ i ∈ uniforms, ∃ ws, uniform (ready i) i = some ws ∧ (ready i).Clear i
    ∧ (ready i).Room ((ready i).writeUs ws) 96 ∧ ∀ w ∈ ws, (ready i).writeCause w.1 w.2 = none := by
  have h : ∀ i ∈ uniforms, given (fun s i => (uniform s i).bind fun ws =>
      if roomy s (s.writeUs ws) 96 && ws.all fun w => (s.writeCause w.1 w.2).isNone then some ws else none) 96 i = true := by
    decide +kernel
  intro i m
  obtain ⟨⟨ws, e⟩, c, r⟩ := given_ok (h i m)
  simp only [Option.bind_eq_some_iff, Option.ite_none_right_eq_some, Bool.and_eq_true, List.all_eq_true] at e
  obtain ⟨ws', e, ⟨e1, e2⟩, e3⟩ := e
  cases e3
  exact ⟨ws, e, c, roomy_ok e1, fun w hw => Option.isNone_iff_eq_none.mp (e2 w hw)⟩

/-! ### Memory instructions -/

/-- About to issue a memory instruction: memory mapped, lane 0 active, `s10` = 0x400000. -/
def memReady (i : Instr) : State := (mapped (ready i)).setCo fun c => { c with s := c.s.set 10 0x400000 }

/-- The places of an access that meets `State.Reaches`. -/
def places (s : State) (a : AccSpec) : Option (List (LaneAcc × Place)) :=
  match resolveAll (fun x => if a.sp then s.spPlace s.co.origin x a.n else s.devPlace a.acc x a.n) a.lanes with
  | .ok ps =>
    if (s.issueChecks a.sp a.need a.fabOk a.n a.align a.lanes).isNone && s.linesReady a.order (spLines ps)
        && (ps.findSome? s.poisonOf).isNone then some ps else none
  | .error _ => none

theorem places_ok {s : State} {a : AccSpec} {ps : List (LaneAcc × Place)} (h : places s a = some ps) : s.Reaches a ps := by
  unfold places at h
  split at h
  · rename_i qs e
    split at h
    · rename_i k
      cases h
      simp only [Bool.and_eq_true, Option.isNone_iff_eq_none] at k
      exact ⟨k.1.1, e, fun _ => k.2, k.1.2⟩
    · cases h
  · cases h

/-- An LM instruction: address base code, size, order. -/
def lm (c : LmForm → Instr) (b : BitVec 8) (size order : BitVec 3) (disp : BitVec 20) : Instr :=
  c { s := false, d := 8, a := 0, b := b, scope := 0, order := order, xs := 3, size := size, sx := false, disp := disp }

def loadList : List Instr :=
  [lm .ld 140 2 0 0, lm .ldx 140 2 0 0, lm .lds 140 2 0 0, lm .ldsx 140 2 0 0, lm .ldblk 140 5 0 0, lm .ldf 138 2 0 0,
   ue .uld 20 12 0 0x400000]
def rmwList : List Instr :=
  [lm .xchg 140 2 0 0, lm .xchgs 140 2 0 0, lm .atom 140 2 0 0, lm .atoms 140 2 0 0, lm .acas 140 2 0 0,
   ue .uatom 20 12 14 0x400000, ux .uxchg 20 12 0 0, ux .uacas 20 12 14 0]
def storeList : List Instr :=
  [lm .st 140 2 0 0, lm .sts 140 2 0 0, lm .stblk 140 5 0 0, ue .ust 20 12 0 0x400000]

/-- The values of a result may be written to its uniform codes. -/
def destsOk (s : State) (ds : List Dest) : Bool :=
  ds.all fun d => match d with
    | .u c w => (s.writeCause c w).isNone
    | _ => true

theorem destsOk_ok {s : State} {ds : List Dest} (h : destsOk s ds = true) :
    ∀ c w, Dest.u c w ∈ ds → s.writeCause c w = none := fun c w m => by
  simpa using List.all_eq_true.mp h _ m

/-- What `LoadResults` and `ReadModifyWriteResults` ask beside the places. -/
def memGiven (i : Instr) (s : State) (m : MemForm) (ps : List (LaneAcc × Place)) (r : List (Nat × List Byte) × State) : Bool :=
  clear i s && !anyFabric ps && decide (s.co.st.ticket m.cls.index < ticketMax m.cls.index) && destsOk s (m.dests r.1)
    && decide ((r.2.core s.co.core).mse.length ≤ 128) && roomy s r.2 s.recordRoom

theorem memGiven_ok {i : Instr} {s : State} {m : MemForm} {ps : List (LaneAcc × Place)} {r : List (Nat × List Byte) × State}
    (h : memGiven i s m ps r = true) : s.Clear i ∧ s.Answered ps [] ∧ s.co.st.ticket m.cls.index < ticketMax m.cls.index
      ∧ (∀ c w, Dest.u c w ∈ m.dests r.1 → s.writeCause c w = none) ∧ (r.2.core s.co.core).mse.length ≤ 128
      ∧ s.Room r.2 s.recordRoom := by
  simp only [memGiven, Bool.and_eq_true, Bool.not_eq_true', decide_eq_true_eq] at h
  obtain ⟨⟨⟨⟨⟨c, f⟩, t⟩, d⟩, e⟩, r⟩ := h
  exact ⟨clear_ok c, Or.inl ⟨f, rfl⟩, t, destsOk_ok d, e, roomy_ok r⟩

/-- LoadResults, for every load. -/
theorem witness_loads : ∀ i ∈ loadList, ∃ m ps, loads (memReady i) i = some m ∧ (memReady i).Clear i
    ∧ (memReady i).Reaches m.acc ps ∧ (memReady i).Answered ps []
    ∧ (memReady i).co.st.ticket m.cls.index < ticketMax m.cls.index
    ∧ (∀ c w, Dest.u c w ∈ m.dests (m.loaded (memReady i) [] ps).1 → (memReady i).writeCause c w = none)
    ∧ ((m.loaded (memReady i) [] ps).2.core (memReady i).co.core).mse.length ≤ 128
    ∧ (memReady i).Room (m.loaded (memReady i) [] ps).2 (memReady i).recordRoom ∧ (memReady i).dbg.recording = false := by
  have h : ∀ i ∈ loadList, ((loads (memReady i) i).any fun m => (places (memReady i) m.acc).any fun ps =>
      memGiven i (memReady i) m ps (m.loaded (memReady i) [] ps)) = true := by decide +kernel
  intro i hi
  obtain ⟨m, e, k⟩ := (Option.any_eq_true _ _).mp (h i hi)
  obtain ⟨ps, e', k⟩ := (Option.any_eq_true _ _).mp k
  obtain ⟨a, b, c, d, f, g⟩ := memGiven_ok k
  exact ⟨m, ps, e, a, places_ok e', b, c, d, f, g, rfl⟩

/-- ReadModifyWriteResults, for every read-modify-write. -/
theorem witness_rmws : ∀ i ∈ rmwList, ∃ m f ps, rmws (memReady i) i = some m ∧ m.write = some f ∧ (memReady i).Clear i
    ∧ (memReady i).Reaches m.acc ps ∧ fabLaneBusy (memReady i) ps = false ∧ (memReady i).Answered ps []
    ∧ (memReady i).MayRelease (isRel m.acc.order) m.scope ∧ (memReady i).co.st.ticket m.cls.index < ticketMax m.cls.index
    ∧ (∀ c w, Dest.u c w ∈ m.dests (m.changed (memReady i) f [] ps).1 → (memReady i).writeCause c w = none)
    ∧ ((m.changed (memReady i) f [] ps).2.core (memReady i).co.core).mse.length ≤ 128
    ∧ (memReady i).Room (m.changed (memReady i) f [] ps).2 (memReady i).recordRoom ∧ (memReady i).dbg.recording = false := by
  have h : ∀ i ∈ rmwList, ((rmws (memReady i) i).any fun m => m.write.any fun f => (places (memReady i) m.acc).any fun ps =>
      !fabLaneBusy (memReady i) ps && !isRel m.acc.order
        && memGiven i (memReady i) m ps (m.changed (memReady i) f [] ps)) = true := by decide +kernel
  intro i hi
  obtain ⟨m, e, k⟩ := (Option.any_eq_true _ _).mp (h i hi)
  obtain ⟨f, w, k⟩ := (Option.any_eq_true _ _).mp k
  obtain ⟨ps, e', k⟩ := (Option.any_eq_true _ _).mp k
  simp only [Bool.and_eq_true, Bool.not_eq_true'] at k
  obtain ⟨a, b, c, d, g, r⟩ := memGiven_ok k.2
  exact ⟨m, f, ps, e, w, a, places_ok e', k.1.1, b, fun x => absurd x (by simp [k.1.2]), c, d, g, r, rfl⟩

/-- StoreResults and StoreFrame, for every store. -/
theorem witness_stores : ∀ i ∈ storeList, ∃ a scope bytes dsg ps, stores (memReady i) i = some (a, scope, bytes, dsg)
    ∧ (memReady i).Clear i ∧ (∀ d, dsg = some d → dsgFault d 16 = none) ∧ (memReady i).Reaches a ps
    ∧ (memReady i).MayRelease (isRel a.order) scope
    ∧ (fabBytes bytes (lastAtPlace ps)).any (fun b => (memReady i).fabBusy b.1) = false
    ∧ ((stored (memReady i) a scope bytes dsg ps).core (memReady i).co.core).mse.length ≤ 128
    ∧ (memReady i).Room (stored (memReady i) a scope bytes dsg ps) (memReady i).recordRoom
    ∧ (memReady i).co.wheyt + (memReady i).recordRoom ≤ (memReady i).co.wheyWb + 1024
    ∧ (memReady i).co.core < (memReady i).cores.length ∧ ∀ k, ((memReady i).core k).upd = [] := by
  have h : ∀ i ∈ storeList, ((stores (memReady i) i).any fun x => (places (memReady i) x.1).any fun ps =>
      clear i (memReady i) && x.2.2.2.isNone && !isRel x.1.order
        && !(fabBytes x.2.2.1 (lastAtPlace ps)).any (fun b => (memReady i).fabBusy b.1)
        && decide (((stored (memReady i) x.1 x.2.1 x.2.2.1 x.2.2.2 ps).core (memReady i).co.core).mse.length ≤ 128)
        && roomy (memReady i) (stored (memReady i) x.1 x.2.1 x.2.2.1 x.2.2.2 ps) (memReady i).recordRoom
        && roomy (memReady i) (memReady i) (memReady i).recordRoom
        && decide ((memReady i).co.core < (memReady i).cores.length)
        && (memReady i).cores.all (·.upd.isEmpty)) = true := by decide +kernel
  intro i hi
  obtain ⟨⟨a, sc, by', dsg⟩, e, k⟩ := (Option.any_eq_true _ _).mp (h i hi)
  obtain ⟨ps, e', k⟩ := (Option.any_eq_true _ _).mp k
  simp only [Bool.and_eq_true, Bool.not_eq_true', decide_eq_true_eq, Option.isNone_iff_eq_none, roomy] at k
  obtain ⟨⟨⟨⟨⟨⟨⟨⟨c, d⟩, o⟩, f⟩, m⟩, r⟩, w⟩, n⟩, p⟩ := k
  refine ⟨a, sc, by', dsg, ps, e, clear_ok c, fun x hx => ?_, places_ok e', fun x => absurd x (by simp [o]), f, m,
    ⟨Or.inr r.1, Or.inl r.2⟩, w.2, n, fun k => ?_⟩
  · rw [d] at hx; cases hx
  · have q := List.all_eq_true.mp p
    unfold State.core
    rw [List.getD_eq_getElem?_getD]
    cases z : (memReady i).cores[k]? with
    | none => rfl
    | some c => exact List.isEmpty_iff.mp (q c (List.mem_of_getElem? z))

/-! ### Control -/

/-- An instruction that a table of claims gives an entry, with its conditions met, clear and with room. -/
def Meets (T : State → Instr → Option Claim) (s : State) (i : Instr) : Prop :=
  ∃ c, T s i = some c ∧ c.need ∧ s.Clear i ∧ c.base.Room c.post c.room

theorem meets {T : State → Instr → Option Claim} {s : State} {i : Instr} {c : Claim} (e : T s i = some c) (n : c.need)
    (h : (clear i s && roomy c.base c.post c.room) = true) : Meets T s i := by
  rw [Bool.and_eq_true] at h
  exact ⟨c, e, n, clear_ok h.1, roomy_ok h.2⟩

def br0 : Instr := .br { s := false, off := 0 }
def uc (c : UcForm → Instr) (reg : BitVec 8) : Instr := c { s := false, reg := reg, off := 0 }

/-- Ready, with uniform registers 10 to 15 given, and lanes of v5. -/
def withRegs (i : Instr) (ws : List Word) (v5 : List Word) : State := (ready i).setCo fun c =>
  { c with s := (c.s.take 10) ++ ws ++ c.s.drop (10 + ws.length), v := c.v.set 5 (v5 ++ List.replicate (96 - v5.length) 0)
           link := 0x400008 }

/-- The same in trap mode, with a word on the history save area. -/
def trapped (s : State) : State := s.setCo fun c => { c with tm := true, hsave := [7] }

def jumpList : List (Instr × State) :=
  [(br0, ready br0),
   (uc .brz 10, ready (uc .brz 10)), (uc .brnz 10, withRegs (uc .brnz 10) [1] []),
   (.call { s := false, off := 0 }, ready (.call { s := false, off := 0 })),
   (u .ret 0 0 0, withRegs (u .ret 0 0 0) [] []), (u .jmpr 0 10 0, withRegs (u .jmpr 0 10 0) [0x400008] []),
   (uc .brl 5, withRegs (uc .brl 5) [] [1]), (uc .brlz 5, ready (uc .brlz 5))]

/-- JumpResults, for every transfer. -/
theorem witness_jumps : ∀ p ∈ jumpList, ∃ va call post, jumps p.2 p.1 = some (va, call, post)
    ∧ p.2.decodeChecks p.1 = none ∧ p.2.checkArrival va false call = .ok ∧ p.2.Room post 64 := by
  have h : ∀ p ∈ jumpList, ((jumps p.2 p.1).any fun x => (p.2.decodeChecks p.1).isNone
      && decide (p.2.checkArrival x.1 false x.2.1 = .ok) && roomy p.2 x.2.2 64) = true := by decide +kernel
  intro p hp
  obtain ⟨⟨va, call, post⟩, e, k⟩ := (Option.any_eq_true _ _).mp (h p hp)
  simp only [Bool.and_eq_true, Option.isNone_iff_eq_none, decide_eq_true_eq] at k
  exact ⟨va, call, post, e, k.1.1, k.1.2, roomy_ok k.2⟩

theorem witness_brz : Meets steps (withRegs (uc .brz 10) [1] []) (uc .brz 10) := meets rfl trivial (by decide +kernel)
theorem witness_brnz : Meets steps (ready (uc .brnz 10)) (uc .brnz 10) := meets rfl trivial (by decide +kernel)
theorem witness_brl : Meets steps (ready (uc .brl 5)) (uc .brl 5) := meets rfl trivial (by decide +kernel)
theorem witness_brlz : Meets steps (withRegs (uc .brlz 5) [] [1]) (uc .brlz 5) := meets rfl trivial (by decide +kernel)
theorem witness_commit : Meets steps (ready (u .commit 0 0 0)) (u .commit 0 0 0) := meets rfl trivial (by decide +kernel)
theorem witness_rewind : Meets steps (ready (u .rewind 0 10 0)) (u .rewind 0 10 0) :=
  meets rfl (by show _ ∧ _ ∧ _; decide +kernel) (by decide +kernel)
theorem witness_rewind_trapped : Meets steps (trapped (ready (u .rewind 0 10 0))) (u .rewind 0 10 0) :=
  meets rfl (by show _ ∧ _; decide +kernel) (by decide +kernel)
theorem witness_hpush : Meets steps (trapped (ready (u .hpush 0 10 0))) (u .hpush 0 10 0) :=
  meets rfl (by show _ ≤ _; decide +kernel) (by decide +kernel)
theorem witness_hpop : Meets steps (trapped (ready (u .hpop 10 0 0))) (u .hpop 10 0 0) :=
  meets rfl (by show _ = none; decide +kernel) (by decide +kernel)
theorem witness_waitc : Meets steps (ready (u .waitc 0 63 0)) (u .waitc 0 63 0) :=
  meets rfl (by show ∀ k < 6, _; decide +kernel) (by decide +kernel)
theorem witness_regang : Meets steps (ready (u .regang 0 0 0)) (u .regang 0 0 0) := meets rfl trivial (by decide +kernel)
theorem witness_exit : Meets steps (ready (u .exit 0 0 0)) (u .exit 0 0 0) := meets rfl trivial (by decide +kernel)
theorem witness_exit_empty : Meets steps ((ready (u .exit 0 0 0)).setSt fun t => { t with mask := 0 }) (u .exit 0 0 0) :=
  meets rfl trivial (by decide +kernel)
theorem witness_fence : Meets steps (ready (u .fence 0 0 27)) (u .fence 0 0 27) :=
  meets rfl (by show _ → _; decide +kernel) (by decide +kernel)
theorem witness_snap : Meets steps (ready (ux .snap 0 0 0 1)) (ux .snap 0 0 0 1) := meets rfl trivial (by decide +kernel)
theorem witness_tmark : Meets steps (ready (ux .tmark 0 10 0 1)) (ux .tmark 0 10 0 1) := meets rfl trivial (by decide +kernel)
theorem witness_dbrk : Meets steps (ready (ux .dbrk 0 0 0 1)) (ux .dbrk 0 0 0 1) :=
  meets rfl (by show _ ∨ _; decide +kernel) (by decide +kernel)
theorem witness_yield : Meets steps (trapped (ready (ux .yield 0 10 11 0))) (ux .yield 0 10 11 0) :=
  meets rfl (by show _ ∧ _ ∧ _ ∧ _; decide +kernel) (by decide +kernel)

/-! ### Records, traps, walks, splits -/

/-- Only the first slot of the code is a marked target. -/
def noTargets (s : State) : State := s.modLaunch s.co.launch fun x =>
  { x with pins := x.pins.map fun p => { p with words := p.words.set 1 5 } }
def unmarked (i : Instr) : State := noTargets (ready i)

theorem canTrap {s : State} (h : s.co.handler ≠ 0)
    (l : ((s.pinned s.co.launch (lineOf s.handlerAddr)).any fun ws => decide (lineCheck ws s.handlerAddr false false = .ok)) = true)
    (w : s.co.wheyt ≤ s.co.wheyWb) : s.CanTrap := by
  obtain ⟨ws, e, k⟩ := (Option.any_eq_true _ _).mp l
  exact ⟨h, ⟨ws, e, of_decide_eq_true k⟩, Or.inl w⟩

/-- TrapEntry, UnassignedOpcodes. -/
theorem witness_trap_entry : (handled (ready br0)).CanTrap ∧ (handled (ready br0)).co.debug = false
    ∧ (handled (ready br0)).co.tm = false :=
  ⟨canTrap (by decide +kernel) (by decide +kernel) (by decide +kernel), rfl, rfl⟩

/-- TrapEntry, where it halts: in trap mode, and without a handler. -/
theorem witness_trap_halts : ((trapped (ready br0)).co.debug = false ∧ (trapped (ready br0)).co.tm = true)
    ∧ (ready br0).co.debug = false ∧ (ready br0).co.handler = 0 := ⟨⟨rfl, rfl⟩, rfl, rfl⟩

/-- TrapEntry, the cause word: at the largest code and sub-code. -/
theorem witness_cause_word : (trapOf 255 15 0).code < 256 ∧ (trapOf 255 15 0).sub < 16 := by decide

def iand4 : LForm := { s := false, d := 4, a := 5, b := 6, lit := 0 }
def iadd4 : LForm := { s := false, d := 4, a := 4, b := 6, lit := 0 }
def umov (d : BitVec 8) : UForm := { s := false, d := d, a := 11, b := 0 }

/-- RecordsPushed, each clause; `UMOV` into the first and the last s register. -/
theorem witness_records :
    ((unmarked (.iand iand4)).Clear (.iand iand4) ∧ (unmarked (.iand iand4)).Room (unmarked (.iand iand4)) 428
      ∧ (unmarked (.iand iand4)).co.special = false
      ∧ (unmarked (.iand iand4)).markedTarget ((unmarked (.iand iand4)).after (.iand iand4)) = false
      ∧ (unmarked (.iand iand4)).co.st.mask ≠ 0)
    ∧ ((unmarked (.iadd iadd4)).Clear (.iadd iadd4) ∧ (unmarked (.iadd iadd4)).Room (unmarked (.iadd iadd4)) 428
      ∧ iadd4.a = iadd4.d ∧ iadd4.b.toNat ≠ iadd4.d.toNat
      ∧ (unmarked (.iadd iadd4)).markedTarget ((unmarked (.iadd iadd4)).after (.iadd iadd4)) = false)
    ∧ (∀ d ∈ [3, 191], (unmarked (.umov (umov d))).Clear (.umov (umov d))
      ∧ (unmarked (.umov (umov d))).Room (unmarked (.umov (umov d))) 428 ∧ (unmarked (.umov (umov d))).co.special = false
      ∧ 3 ≤ (umov d).d.toNat ∧ (umov d).d.toNat < 192 ∧ (umov d).d ≠ (umov d).a
      ∧ (unmarked (.umov (umov d))).markedTarget ((unmarked (.umov (umov d))).after (.umov (umov d))) = false)
    ∧ (trapped (ready (.iand iand4))).Clear (.iand iand4)
      ∧ (trapped (ready (.iand iand4))).Room (trapped (ready (.iand iand4))) 428
      ∧ (trapped (ready (.iand iand4))).co.special = true := by
  refine ⟨⟨clear_ok (by decide +kernel), roomy_ok (by decide +kernel), by decide +kernel, by decide +kernel, by decide +kernel⟩,
    ⟨clear_ok (by decide +kernel), roomy_ok (by decide +kernel), by decide +kernel, by decide +kernel, by decide +kernel⟩,
    fun d m => ?_, clear_ok (by decide +kernel), roomy_ok (by decide +kernel), by decide +kernel⟩
  have h : ∀ d ∈ ([3, 191] : List (BitVec 8)), (clear (.umov (umov d)) (unmarked (.umov (umov d)))
      && roomy (unmarked (.umov (umov d))) (unmarked (.umov (umov d))) 428) = true
      ∧ (unmarked (.umov (umov d))).co.special = false ∧ 3 ≤ (umov d).d.toNat ∧ (umov d).d.toNat < 192 ∧ (umov d).d ≠ (umov d).a
      ∧ (unmarked (.umov (umov d))).markedTarget ((unmarked (.umov (umov d))).after (.umov (umov d))) = false := by decide +kernel
  obtain ⟨a, r⟩ := h d m
  rw [Bool.and_eq_true] at a
  exact ⟨clear_ok a.1, roomy_ok a.2, r⟩

/-- ComeFrom. -/
theorem witness_come_from : (ready br0).decodeChecks br0 = none ∧ (ready br0).co.special = false ∧ (ready br0).Room (ready br0) 64
    ∧ (ready br0).checkArrival ((ready br0).pcAddr + 4 * (0 : BitVec 24).signExtend 64) false false = .ok :=
  ⟨by decide +kernel, rfl, roomy_ok (by decide +kernel), by decide +kernel⟩

/-- RegionFull: a region with no room left above the history save area. -/
theorem witness_region_full : ∃ s : State, s.Clear (.iand iand4) ∧ s.co.special = false ∧ s.co.st.mask ≠ 0
    ∧ s.markedTarget (s.after (.iand iand4)) = false ∧ s.co.lim < s.co.wheyt + 4 * (5 + laneCount s.co.st.mask) :=
  ⟨(unmarked (.iand iand4)).setCo fun c => { c with szl := 4 },
    clear_ok (by decide +kernel), by decide +kernel, by decide +kernel, by decide +kernel, by decide +kernel⟩

/-- A state in which each flag's trap is enabled, and `FMUL` overflows. -/
def overflowing : State := (ready (l .fmul)).setCo fun c => { c with
  fmode := 0xFFFFFFFF, v := (c.v.set 5 (List.replicate 96 0x7F000000)).set 6 (List.replicate 96 0x7F000000) }

/-- TrappedFlag. -/
theorem witness_trapped_flag : ∃ (d : Nat) (f : Nat → Word) (fl : Flags),
    laneFloat overflowing (l .fmul) = some (d, f, fl) ∧ overflowing.Clear (l .fmul) ∧ overflowing.Room overflowing 428
    ∧ trappedFlags overflowing.co.fmode fl ≠ 0 := by
  have h : ((laneFloat overflowing (l .fmul)).any fun x => decide (trappedFlags overflowing.co.fmode x.2.2 ≠ 0)) = true := by
    decide +kernel
  obtain ⟨⟨d, f, fl⟩, e, k⟩ := (Option.any_eq_true _ _).mp h
  exact ⟨d, f, fl, e, clear_ok (by decide +kernel), roomy_ok (by decide +kernel), of_decide_eq_true k⟩

/-- ControlReads: the premises of its clauses, at reset of a cohort. -/
theorem witness_control_reads : (ready br0).co.wheyt < 2 ^ 32 ∧ (ready br0).co.szl ≤ 26
    ∧ 64 * ((ready br0).co.stack.length - 32) ≤ 2 ^ (ready br0).co.szl ∧ (ready br0).co.st.id < 4
    ∧ (ready br0).co.sibs.length < 4 := by decide +kernel

/-- CommitEmpties. -/
theorem witness_commit_empties : ∃ o, (ready (.commit o)).Clear (.commit o) ∧ (ready (.commit o)).Room (ready (.commit o)) 64
    ∧ (ready (.commit o)).co.special = false :=
  ⟨{ s := false, d := 0, a := 0, b := 0 }, clear_ok (by decide +kernel), roomy_ok (by decide +kernel), rfl⟩

def both (v5 : List Word) : State :=
  ((ready (uc .brl 5)).setCo fun c => { c with v := c.v.set 5 (v5 ++ List.replicate (96 - v5.length) 0) }).setSt fun t =>
    { t with mask := 3 }

/-- BranchSplits, for `BRL` and `BRLZ`: lane 0 of v5 is 1 and lane 1 is 0. -/
theorem witness_branch_splits : ∀ zero : Bool,
    let o : UcForm := { s := false, reg := 5, off := 0 }
    let i : Instr := if zero then .brlz o else .brl o
    let s := both [1, 0]
    let tk := laneSetOf fun k => s.co.st.mask.getLsbD k && ((s.co.vlane (o.reg.toNat % 128) k == 0) == zero)
    let nt := s.co.st.mask &&& ~~~tk
    s.decodeChecks i = none ∧ s.co.special = false ∧ tk ≠ 0 ∧ nt ≠ 0 ∧ (∃ x, s.co.freeId = some x) ∧ s.co.stack.length < 32
      ∧ s.checkArrival (s.pcAddr + 4 * o.off.signExtend 64) false false = .ok
      ∧ s.checkArrival (seqNext s.pcAddr 1) true false = .ok
      ∧ s.Room ((s.setCo fun c => { c with whey := [] }).trace 4 1 []) 40 := by
  intro zero
  cases zero <;> exact ⟨by decide +kernel, by decide +kernel, by decide +kernel, by decide +kernel, ⟨1, by decide +kernel⟩,
    by decide +kernel, by decide +kernel, by decide +kernel, roomy_ok (by decide +kernel)⟩

def merging : State := (ready (u .regang 0 0 0)).setCo fun c => { c with
  stack := [{ parent := 0, cha := 0, chb := 1, ser := false, join := some 0x400008, second := false, arra := false, arrb := true
              pmask := 3, dmask := 0, dstart := 0 }]
  sibs := [{ c.st with id := 1, mask := 2, held := 2, park := some .regang }] }

/-- RegangMerges. -/
theorem witness_regang_merges : ∃ o e p q, merging.decodeChecks (.regang o) = none
    ∧ merging.co.innermost merging.co.st.id = some e ∧ e.ser = false ∧ (e.join = none ∨ e.join = some merging.pcAddr)
    ∧ (e.mark merging.co.st.id true).arra = true ∧ (e.mark merging.co.st.id true).arrb = true ∧ merging.co.children e = [p, q]
    ∧ merging.checkArrival (seqNext merging.pcAddr 1) true false = .ok ∧ merging.Room merging 128 :=
  ⟨{ s := false, d := 0, a := 0, b := 0 }, _, _, _, by decide +kernel, rfl, rfl, .inr (by decide +kernel), rfl, rfl, rfl,
    by decide +kernel, roomy_ok (by decide +kernel)⟩

/-- ExitEnds. -/
theorem witness_exit_ends : ∃ (o : UForm) (s : State), s.decodeChecks (.exit o) = none ∧ s.co.st.mask ≠ 0
    ∧ s.co.st.held &&& ~~~s.co.st.mask = 0 ∧ s.co.innermost s.co.st.id = none ∧ s.co.sibs = [] ∧ s.Room s 128 :=
  ⟨{ s := false, d := 0, a := 0, b := 0 }, (ready (u .exit 0 0 0)).setSt fun t => { t with held := 1 },
    by decide +kernel, by decide +kernel, by decide +kernel, by decide +kernel, rfl, roomy_ok (by decide +kernel)⟩

def trapI : Instr := .trap { s := false, d := 0, imm := 0xFFFF }
def rewt : UxForm := { s := false, d := 0, a := 12, b := 0, ext := 0 }
def rewF : UForm := { s := false, d := 0, a := 12, b := 0 }

/-- TrapInstructions, both clauses. -/
theorem witness_trap_instructions :
    (∃ (o : UiForm) (s : State), s.Clear (.trap o) ∧ s.CanTrap ∧ s.co.special = false
      ∧ s.markedTarget (s.after (.trap o)) = false ∧ s.co.wheyt ≤ s.co.wheyWb + 1024 ∧ s.co.wheyt ≤ s.co.lim)
    ∧ ∃ (o : UxForm) (s : State), s.Clear (.rewindt o) ∧ s.CanTrap ∧ s.co.special = false
      ∧ s.readU2 o.a.toNat = s.co.st.icnt ∧ s.co.st.floor ≤ s.co.st.icnt ∧ s.landed = true
      ∧ s.markedTarget (s.after (.rewindt o)) = false ∧ s.co.wheyt ≤ s.co.wheyWb + 1024 ∧ s.co.wheyt ≤ s.co.lim :=
  ⟨⟨{ s := false, d := 0, imm := 0xFFFF }, handled (unmarked trapI), clear_ok (by decide +kernel),
      canTrap (by decide +kernel) (by decide +kernel) (by decide +kernel), rfl, by decide +kernel, by decide +kernel,
      by decide +kernel⟩,
    rewt, handled (unmarked (.rewindt rewt)), clear_ok (by decide +kernel),
      canTrap (by decide +kernel) (by decide +kernel) (by decide +kernel), rfl, by decide +kernel, by decide +kernel,
      by decide +kernel, by decide +kernel, by decide +kernel, by decide +kernel⟩

/-- Two steps beyond the floor. -/
def walking (i : Instr) (x : Word) : State :=
  ((ready i).setCo fun c => { c with s := c.s.set 12 x }).setSt fun t => { t with icnt := 2 }

/-- WalkTargets, for `REWIND` and `REWINDT`, from the floor and from one below the count. -/
theorem witness_walk_begins : ∀ i ∈ [.rewind rewF, .rewindt rewt], ∀ n ∈ [0, 1],
    let x := BitVec.ofNat 32 n
    (walking i x).decodeChecks i = none ∧ (walking i x).co.special = false ∧ (walking i x).co.traced = false
    ∧ (walking i x).co.st.floor ≤ (walking i x).readU2 12 ∧ (walking i x).readU2 12 < (walking i x).co.st.icnt
    ∧ (walking i x).landed = true := by decide +kernel

/-- WalkTargets: below the floor, and above the count. -/
theorem witness_walk_out : ∀ i ∈ [.rewind rewF, .rewindt rewt],
    (let s := (walking i 0).setSt fun t => { t with floor := 1 }
     s.decodeChecks i = none ∧ s.co.tm = false ∧ s.readU2 12 ≠ s.co.st.icnt ∧ s.readU2 12 < s.co.st.floor)
    ∧ (walking i 3).decodeChecks i = none ∧ (walking i 3).co.tm = false ∧ (walking i 3).readU2 12 ≠ (walking i 3).co.st.icnt
      ∧ (walking i 3).co.st.floor ≤ (walking i 3).readU2 12 ∧ (walking i 3).co.st.icnt < (walking i 3).readU2 12 := by
  decide +kernel

/-- TrapReturns, whether or not `%tpc` was written. -/
theorem witness_trap_returns : ∀ w : Bool,
    let s := (trapped (ready (ux .tret 0 0 0 0))).setCo fun c => { c with tpc := 0x400008, tpcWritten := w }
    s.decodeChecks (ux .tret 0 0 0 0) = none ∧ s.co.traced = false
    ∧ s.checkArrival (pairOf ((s.co.st.pc.extractLsb' 32 24).setWidth 32) s.co.tpc) (!s.co.tpcWritten) false = .ok := by
  decide +kernel

def dbrkF : UxForm := { s := false, d := 0, a := 0, b := 0, ext := 0xFFFF }

/-- BreakHalts. -/
theorem witness_break_halts : ∃ (o : UxForm) (s : State), s.Clear (.dbrk o) ∧ s.Room s 64 ∧ s.co.traced = false
    ∧ s.host.debugOpen = true ∧ s.dbg.breaks.contains s.co.launch = true :=
  ⟨dbrkF, { ready (.dbrk dbrkF) with
      host := { (ready (.dbrk dbrkF)).host with debugOpen := true }
      dbg := { (ready (.dbrk dbrkF)).dbg with breaks := [(ready (.dbrk dbrkF)).co.launch] } },
    clear_ok (by decide +kernel), roomy_ok (by decide +kernel), rfl, rfl, by decide +kernel⟩

def yieldF : UxForm := { s := false, d := 0, a := 10, b := 11, ext := 0 }
/-- A cohort in trap mode with a request to leave its core. -/
def asked : State := (trapped (ready (.yield yieldF))).modBlock (ready (.yield yieldF)).co.block fun b => { b with phase := 1 }

/-- YieldSaves. -/
theorem witness_yield_saves : asked.Clear (.yield yieldF) ∧ asked.leaving = true ∧ asked.cohortQuiet = true
    ∧ (asked.readU 10).toNat % 8 = 0 ∧ (asked.readU 10).toNat ≤ asked.co.nregs ∧ (asked.readU 11).toNat % 128 = 0
    ∧ (asked.readU 11).toNat ≤ (asked.blockRange asked.co.block).2
    ∧ (asked.modBlock asked.co.block Block.forceAll).forcedLeft asked.co.block = 0 ∧ asked.co.wheyt ≤ asked.co.wheyWb := by
  refine ⟨clear_ok (by decide +kernel), ?_⟩
  decide +kernel

/-! ### Issue, decoding, steps -/

/-- A lane instruction that names a vector register the cohort does not have. -/
def farReg : Instr := .iand { s := false, d := 64, a := 5, b := 6, lit := 0 }
def few : State := (ready farReg).setCo fun c => { c with nregs := 64 }
/-- A set bit in a field that is not used. -/
def badBits : Instr := .inot { s := false, d := 4, a := 5, b := 1, lit := 0 }
def settled : Instr := .iand { s := true, d := 4, a := 5, b := 6, lit := 0 }
/-- A result of v4 outstanding. -/
def pendingV4 (i : Instr) : State := (ready i).setSt fun t =>
  { t with outst := [{ cls := .dm, count := 0, dests := [.v 4 1 (List.replicate 96 0)] }] }

/-- IssueCauses and IssueChecksFirst: an operand, a mode and a field value that are not allowed; a reserved bit; the settle
marker; a read, and a write, of a register with an outstanding write. -/
theorem witness_issue_causes :
    operandFault few farReg
    ∧ operandFault (ready (u .hpush 0 10 0)) (u .hpush 0 10 0)
    ∧ operandFault (ready (qf .bfe 5 0 0 0 0)) (qf .bfe 5 0 0 0 0)
    ∧ (¬ operandFault (ready badBits) badBits ∧ badBits.reservedOk = false)
    ∧ (¬ operandFault (pendingV4 settled) settled ∧ settled.reservedOk = true ∧ settled.word0.getLsbD 30 = true
      ∧ (pendingV4 settled).co.st.outst ≠ [])
    ∧ (let i := l .iand
       let i' : Instr := .iand { s := false, d := 5, a := 4, b := 6, lit := 0 }
       (¬ operandFault (pendingV4 i') i' ∧ i'.reservedOk = true ∧ i'.word0.getLsbD 30 = false
        ∧ (i'.operands.flatMap Operand.reads).find? (fun r => (pendingV4 i').co.st.pending.contains r) = some (false, 4))
       ∧ ¬ operandFault (pendingV4 i) i ∧ i.reservedOk = true ∧ i.word0.getLsbD 30 = false
        ∧ (∀ r ∈ i.operands.flatMap Operand.reads, r ∉ (pendingV4 i).co.st.pending)
        ∧ ∃ r ∈ i.operands.flatMap Operand.writes, r ∈ (pendingV4 i).co.st.pending) := by
  unfold operandFault
  decide +kernel

def longAdd : Instr := .iadd { s := true, d := 127, a := 127, b := 255, lit := 0xFFFFFFFF }

/-- DecodeEncode and EncodeDecode: a well-formed instruction with a literal, and its words. -/
theorem witness_decode_encode : longAdd.wellFormed = true ∧ decode (encode longAdd) = .ok longAdd := ⟨by decide +kernel, rfl⟩

/-- UnassignedOpcodes: opcodes on both sides of the gaps, and the first extended opcode without an instruction. -/
theorem witness_unassigned : (Claims.unassignedLane 0x83 ∧ Claims.unassignedLane 0xFF ∧ Claims.unassignedLane 0
      ∧ ((0xFF : Word) <<< 22).getLsbD 31 = false)
    ∧ (0xBF000000 : Word).getLsbD 31 = true ∧ ((0xBF000000 : Word).extractLsb' 24 6).toNat = 0x3F
    ∧ 0x16 ≤ ((0x16000000 : Word).extractLsb' 24 8).toNat := by
  unfold Claims.unassignedLane
  decide +kernel

/-- Reset with a `NOP` where the next step fetches. -/
def fetching : State := State.reset.withFetchWord 32 0x97000000

/-- StepRunsDecoded. -/
theorem witness_step_runs : ∃ core half vector rest k ws i t,
    fetching.power.tripped = false ∧ fetching.agenda = .issue core half vector :: rest
    ∧ firstCand (State.candidates exec { fetching with agenda := rest } core half vector) = some k
    ∧ (let q := (({ fetching with agenda := rest } : State).passOver k
        (State.candidates exec { fetching with agenda := rest } core half vector)).focus k.uid k.strand
       (q.co.dir = false ∨ q.co.tm = true) ∧ q.co.debug = false ∧ q.co.haltReq = none ∧ q.co.st.late = none
       ∧ q.co.st.reports = [] ∧ q.co.preempt = none ∧ q.pinned q.co.launch (lineOf q.pcAddr) = some ws
       ∧ (q.entering = true → lineCheck ws q.pcAddr false true = .ok)
       ∧ decode (slotWords ws (slotOf q.pcAddr)) = .ok i ∧ exec i q = .next t) := by
  have h : (match fetching.agenda with
    | .issue core half vector :: rest =>
      !fetching.power.tripped && (firstCand (State.candidates exec { fetching with agenda := rest } core half vector)).any fun k =>
        let q := (({ fetching with agenda := rest } : State).passOver k
          (State.candidates exec { fetching with agenda := rest } core half vector)).focus k.uid k.strand
        !q.co.dir && !q.co.debug && q.co.haltReq.isNone && q.co.st.late.isNone && q.co.st.reports.isEmpty && q.co.preempt.isNone
          && (q.pinned q.co.launch (lineOf q.pcAddr)).any fun ws =>
            (!q.entering || decide (lineCheck ws q.pcAddr false true = .ok))
              && (match decode (slotWords ws (slotOf q.pcAddr)) with
                | .ok i => (match exec i q with
                  | .next _ => true
                  | _ => false)
                | .error _ => false)
    | _ => false) = true := by decide +kernel
  split at h
  · rename_i core half vector rest e
    simp only [Bool.and_eq_true, Bool.not_eq_true'] at h
    obtain ⟨k, ek, h⟩ := (Option.any_eq_true _ _).mp h.2
    simp only [Bool.and_eq_true, Bool.not_eq_true', Option.isNone_iff_eq_none, List.isEmpty_iff] at h
    obtain ⟨ws, ew, h'⟩ := (Option.any_eq_true _ _).mp h.2
    simp only [Bool.and_eq_true, Bool.or_eq_true, Bool.not_eq_true', decide_eq_true_eq] at h'
    obtain ⟨ht, h2⟩ := h'
    split at h2
    · rename_i i ei
      split at h2
      · rename_i t et
        exact ⟨core, half, vector, rest, k, ws, i, t, by decide +kernel, e, ek, .inl h.1.1.1.1.1.1, h.1.1.1.1.1.2, h.1.1.1.1.2,
          h.1.1.1.2, h.1.1.2, h.1.2, ew, fun x => ht.resolve_left (by simp [x]), ei, et⟩
      · cases h2
    · cases h2
  · cases h

/-- EveryStepSafe: the reset module is not tripped, and a tripped one exists. -/
theorem witness_every_step : State.reset.power.tripped = false
    ∧ ({ State.reset with power := { State.reset.power with tripped := true } }).power.tripped = true := ⟨rfl, rfl⟩

/-- StoreFrame: beside what `witness_stores` shows, memory in canonical form. -/
theorem witness_store_frame : ∀ i ∈ storeList, (memReady i).memoryOk := by
  unfold State.memoryOk
  decide +kernel

theorem fetching_ok : fetching.memoryOk := by
  unfold State.memoryOk
  decide +kernel

theorem fetching_runs : runs (step fetching) = true := by decide +kernel

/-- MemoryInvariant: the step that runs a `NOP`. -/
theorem witness_memory_invariant : fetching.memoryOk ∧ ∃ t, step fetching = .next t := ⟨fetching_ok, runs_ok fetching_runs⟩

/-! ### Queues, objects, tasks -/

/-- The block of the focused cohort changed. -/
def ofBlock (s : State) (f : Block → Block) : State := s.modBlock s.co.block f

def entry1 : QEntry := { words := List.replicate 96 9, valid := 3 }

/-- Ready, with an entry in queue 0. -/
def queued (i : Instr) : State := ofBlock (ready i) fun b => { b with queues := [[entry1], [], [], []] }
/-- Ready, with queue 0 full. -/
def fullQ (i : Instr) : State := ofBlock (ready i) fun b => { b with queues := [[entry1, entry1, entry1, entry1], [], [], []] }

def qpushI : Instr := .qpush { s := false, d := 0, a := 0, b := 6, lit := 0 }
def qpopI : Instr := .qpop { s := false, d := 4, a := 0, b := 0, lit := 0 }
def qpeekI : Instr := .qpeek { s := false, d := 4, a := 0, b := 0, lit := 0 }
def qstatI : Instr := ux .qstat 20 0 0 0

theorem witness_qpush : Meets queues (ready qpushI) qpushI := meets rfl (by show _ ∧ _ ∧ (_ → _); decide +kernel) (by decide +kernel)
theorem witness_qpop : Meets queues (queued qpopI) qpopI := meets rfl (by show _ < _; decide +kernel) (by decide +kernel)
theorem witness_qpeek : Meets queues (queued qpeekI) qpeekI := meets rfl (by show _ < _; decide +kernel) (by decide +kernel)
theorem witness_qstat : Meets queues (ready qstatI) qstatI := meets rfl (by show _ ∧ _ ∧ _; decide +kernel) (by decide +kernel)

/-- QueueFullOrEmpty. -/
theorem witness_queue_full : ((fullQ qpushI).Clear qpushI ∧ (fullQ qpushI).linkBar 0 = none ∧ (fullQ qpushI).queueFree 0 = 0)
    ∧ ((ready qpopI).Clear qpopI ∧ (ready qpopI).queueEntries 0 = [])
    ∧ (ready qpeekI).Clear qpeekI ∧ (ready qpeekI).queueEntries 0 = [] :=
  ⟨⟨clear_ok (by decide +kernel), by decide +kernel, by decide +kernel⟩, ⟨clear_ok (by decide +kernel), by decide +kernel⟩,
    clear_ok (by decide +kernel), by decide +kernel⟩

/-- BarrierArrival: each clause has an object; the fields at their bounds. -/
theorem witness_barrier_arrival :
    (∃ o : BarObj, o.bad = false ∧ ¬ (o.cexp = 0 ∧ o.sexp = 0) ∧ o.carr = o.cexp)
    ∧ (∃ o : BarObj, o.bad = false ∧ ¬ (o.cexp = 0 ∧ o.sexp = 0) ∧ o.carr ≠ o.cexp ∧ ¬ (o.carr + 1 = o.cexp ∧ o.sarr = o.sexp))
    ∧ (∃ o : BarObj, o.bad = false ∧ o.carr + 1 = o.cexp ∧ o.sarr = o.sexp)
    ∧ (∃ o : BarObj, o.bad = false ∧ ¬ (o.cexp = 0 ∧ o.sexp = 0) ∧ o.sarr ≠ o.sexp ∧ ¬ (o.carr = o.cexp ∧ o.sarr + 1 = o.sexp))
    ∧ (∃ o : BarObj, o.bad = false ∧ o.carr = o.cexp ∧ o.sarr + 1 = o.sexp)
    ∧ ∃ o : BarObj, o.cexp < 2 ^ 16 ∧ o.carr < 2 ^ 16 ∧ o.sexp < 2 ^ 24 ∧ o.sarr < 2 ^ 24 ∧ o.bad = false := by
  let b (carr cexp sarr sexp : Nat) : BarObj := { carr := carr, cexp := cexp, sarr := sarr, sexp := sexp, phase := true, ovr := true, bad := false }
  refine ⟨⟨b 2 2 0 0, ?_⟩, ⟨b 0 2 0 0, ?_⟩, ⟨b 1 2 0 0, ?_⟩, ⟨b 0 2 0 1, ?_⟩, ⟨b 2 2 0 1, ?_⟩,
    b (2 ^ 16 - 1) (2 ^ 16 - 1) (2 ^ 24 - 1) (2 ^ 24 - 1), ?_⟩ <;> simp [b]

/-- Memory mapped, with bytes at its start, and uniform registers from 10 on; four cores, which keeps the kernel's work small. -/
def object (i : Instr) (cells : List Host.Cell) (ws : List Word) : State :=
  { mapped (withRegs i ws []) with
    mem := cells ++ (mapped (ready i)).mem, cores := (mapped (ready i)).cores.take 4 }

theorem object_ok {s : State} {dsg : DWord} {n : Nat} {acc : Acc} {p : Place} (f : dsgFault dsg n = none)
    (h : places s { sp := dsg.getLsbD 63, order := 0, n := n, align := 1, acc := acc, rmw := true, need := [], fabOk := false,
                    lanes := [⟨127, if dsg.getLsbD 63 then dsg.toNat % 2 ^ 24 else dsg.toNat⟩] }
      = some [(⟨127, if dsg.getLsbD 63 then dsg.toNat % 2 ^ 24 else dsg.toNat⟩, p)]) : s.Object dsg n acc p :=
  ⟨f, places_ok h⟩

def at0 (n : Nat) : Place := .mem (spanNat 0 n)
/-- A barrier object at 0 that one cohort completes. -/
def bar1 (i : Instr) : State := object i [⟨2, 1⟩] []
def barI : Instr := ue .bar 20 12 0 0
def barWI : Instr := ue .bar 20 12 11 0x2000000
def baraI : Instr := ue .bara 20 12 0 0
def bariI : Instr := ux .bari 20 12 11 0
def waitqI : Instr := ue .waitq 20 12 0 0
def wakeI : Instr := ue .wake 20 12 11 0
def rflushI : Instr := ux .rflush 0 0 0 0
def twaitI : Instr := ux .twait 20 12 0 0
def waitkI : Instr := u .waitk 0 12 11

set_option maxRecDepth 100000 in
theorem witness_bar : Meets (objects · (at0 16)) (bar1 barI) barI :=
  meets rfl ⟨object_ok (by decide +kernel) (by decide +kernel), fun _ => by decide +kernel, rfl⟩ (by decide +kernel)
theorem witness_bar_resumed : Meets (objects · (at0 16))
    ((bar1 barI).setSt fun t => { t with park := some (.barrier 0 false (some 1)) }) barI :=
  meets rfl rfl (by decide +kernel)
theorem witness_bar_w : Meets (objects · (at0 16)) (object barWI [⟨2, 1⟩] [0, 1]) barWI :=
  meets rfl ⟨object_ok (by decide +kernel) (by decide +kernel), by decide +kernel, by decide +kernel, rfl⟩ (by decide +kernel)
set_option maxRecDepth 100000 in
theorem witness_bara : Meets (objects · (at0 16)) (bar1 baraI) baraI :=
  meets rfl ⟨object_ok (by decide +kernel) (by decide +kernel), fun _ => by decide +kernel⟩ (by decide +kernel)
theorem witness_bari : Meets (objects · (at0 16)) (bar1 bariI) bariI :=
  meets rfl ⟨object_ok (by decide +kernel) (by decide +kernel), by decide +kernel, by decide +kernel, fun _ => by decide +kernel⟩
    (by decide +kernel)
set_option maxRecDepth 100000 in
theorem witness_waitq : Meets (objects · (at0 8)) (object waitqI [⟨4, 1⟩] []) waitqI :=
  meets rfl ⟨⟨object_ok (by decide +kernel) (by decide +kernel), by decide +kernel⟩,
    object_ok (by decide +kernel) (by decide +kernel), by decide +kernel, by decide +kernel⟩ (by decide +kernel)
theorem witness_wake : Meets (objects · (at0 8)) (object wakeI [⟨0, 1⟩] [0, 1]) wakeI :=
  meets rfl ⟨object_ok (by decide +kernel) (by decide +kernel), fun _ => by decide +kernel, by decide +kernel⟩ (by decide +kernel)
theorem witness_rflush : Meets (objects · (at0 8)) (object rflushI [] []) rflushI :=
  meets rfl (by show _ = _; decide +kernel) (by decide +kernel)
theorem witness_rflush_resumed : Meets (objects · (at0 8))
    ((object rflushI [] []).setSt fun t => { t with park := some (.resource (.flush 0)) }) rflushI :=
  meets rfl rfl (by decide +kernel)
theorem witness_twait : Meets (objects · (at0 4)) (object twaitI [] []) twaitI :=
  meets rfl ⟨places_ok (by decide +kernel), by decide +kernel, by decide +kernel⟩ (by decide +kernel)
theorem witness_waitk : Meets (objects · (at0 1)) (object waitkI [⟨0, 1⟩] []) waitkI :=
  meets rfl ⟨places_ok (by decide +kernel), by decide +kernel, rfl⟩ (by decide +kernel)

/-- A module with a queue of tasks and a task arena, whose launch may spawn. -/
def spawning (i : Instr) (ws : List Word) : State :=
  let s := object i [⟨0x10002, 4⟩, ⟨0x10008, 4⟩, ⟨0x1000B, 0x10⟩] ws
  { s.modLaunch s.co.launch fun x => { x with record := { x.record with ten := true } } with
    setup := { s.setup with qtbase := 0x10000, arenaNext := 0x100000 }
    host := { s.host with regions := some { State.reset.host.regions.getD ⟨0, 0, 0, 0, 0, 0, 0, 0⟩ with arena := 0x100000, arenaSize := 0x100000 } } }

def spawnI : Instr := ue .spawn 0 8 0 0
def tjoinI : Instr := u .tjoin 0 0 0
def tendI : Instr := u .tend 0 0 0
def tclaimI : Instr := u .tclaim 4 0 0
def qpostI : Instr := ue .qpost 20 10 12 0

/-- An entry still to be posted, with its ticket. -/
def posting (i : Instr) : State :=
  (spawning i []).setSt fun t => { t with park := some (.post 0 [⟨0, List.replicate 60 0⟩]) }

theorem witness_spawn : Meets tasks (posting spawnI) spawnI := meets rfl (by show _ = []; decide +kernel) (by decide +kernel)
theorem witness_spawn_none : Meets tasks ((spawning spawnI []).setSt fun t => { t with mask := 0 }) spawnI :=
  meets rfl ⟨rfl, by decide +kernel⟩ (by decide +kernel)
theorem witness_tjoin : Meets tasks (spawning tjoinI []) tjoinI :=
  meets rfl ⟨fun _ => by decide +kernel, by decide +kernel, by decide +kernel⟩ (by decide +kernel)
theorem witness_tend : Meets tasks ((spawning tendI []).setCo fun c => { c with task := some 0 }) tendI :=
  meets rfl ⟨rfl, fun _ => by decide +kernel, by decide +kernel, by decide +kernel⟩ (by decide +kernel)
theorem witness_tclaim : Meets tasks (spawning tclaimI []) tclaimI := meets rfl trivial (by decide +kernel)
theorem witness_qpost : Meets tasks (posting qpostI) qpostI := meets rfl (by show _ = []; decide +kernel) (by decide +kernel)

/-! ### Engines -/

/-- A leader core whose follower has a block of the same launch, with an unused grant of a class, uniform registers by
number, and bytes at the start of memory. -/
def engine (i : Instr) (cls : Nat) (rs : List (Nat × Word)) (cells : List Host.Cell) : State :=
  let s := object i cells []
  let c := { s.co with s := rs.foldl (fun l r => l.set r.1 r.2) s.co.s
                       grants := [{ cls := cls, watts := leaveCost cls, die := 0, use := 0, tile := 0, since := 0 }] }
  { s with co := c, blocks := s.blocks ++ s.blocks.map fun b => { b with uid := 1000, core := 1, index := 1 } }

/-- A layout record from `s32` on: a row of 4 bytes, or 2 rows. -/
def layRegs (rank2 : Bool) : List (Nat × Word) :=
  [(32 + 17, if rank2 then 0x20004 else 4), (32 + 20, 16), (34, if rank2 then 16 else 0), (36, 4), (37, if rank2 then 2 else 0)]

def copyI : Instr := ue .copy 20 32 60 0
def gatherI : Instr := ux .gather 20 32 60 0x2C00
def laychkI : Instr := ux .laychk 0 32 0 0
def leaveI : Instr := ux .leave 0 0 0 4
def dropI : Instr := ux .leave 0 0 0 5
def znewI : Instr := u .znew 0 0 0
def zclrI : Instr := ux .zclr 0 0 0 0
def zrdI : Instr := ue .zrd 8 0 0 0
def zstI : Instr := ux .zst 20 0 0 0x100
def mmaI : Instr := ue .mma 0 8 12 0

theorem witness_copy : Meets copies (engine copyI 3 (layRegs false) []) copyI :=
  meets rfl ⟨by decide +kernel, by decide +kernel, by decide +kernel, by decide +kernel, by decide +kernel⟩ (by decide +kernel)

theorem witness_gather : Meets copies (engine gatherI 3 (layRegs true) []) gatherI :=
  meets rfl ⟨by decide +kernel, by decide +kernel, by decide +kernel, by decide +kernel, by decide +kernel⟩ (by decide +kernel)

theorem witness_laychk : Meets engines (engine laychkI 3 (layRegs true) []) laychkI :=
  meets rfl ⟨by decide +kernel, by decide +kernel⟩ (by decide +kernel)

theorem witness_leave : Meets engines (engine leaveI 4 [] []) leaveI := meets rfl (by show _ = _; decide +kernel) (by decide +kernel)

theorem witness_leave_drop : Meets engines (engine dropI 4 [] []) dropI := meets rfl trivial (by decide +kernel)

theorem witness_znew : Meets engines (engine znewI 0 [] []) znewI := meets rfl (by show _ = _; decide +kernel) (by decide +kernel)

theorem witness_zclr : Meets engines (engine zclrI 0 [] []) zclrI := meets rfl (by show _ = _; decide +kernel) (by decide +kernel)

theorem witness_zrd : Meets engines (engine zrdI 0 [] []) zrdI := meets rfl ⟨by decide +kernel, by decide +kernel⟩ (by decide +kernel)

theorem witness_zst : Meets engines (engine zstI 0 [] []) zstI := by
  have hp : ((engine zstI 0 [] []).blockRange (engine zstI 0 [] []).co.block).2 = 65536 := by decide +kernel
  have hd : ((engine zstI 0 [] []).readU 20).toNat = 0 := by decide +kernel
  refine meets rfl ⟨by decide +kernel, by decide +kernel, by decide +kernel, by decide +kernel, fun i hi a ha => ?_,
    fun _ h => by cases h⟩ (by decide +kernel)
  change a ∈ spanNat (((engine zstI 0 [] []).readU 20).toNat + i * 256) 256 at ha
  change a ≤ 0x1FFFFF ∧ a < ((engine zstI 0 [] []).blockRange (engine zstI 0 [] []).co.block).2
  rw [hd] at ha
  rw [hp]
  simp only [spanNat, List.mem_map, List.mem_range] at ha
  obtain ⟨k, hk, rfl⟩ := ha
  omega

theorem witness_mma : Meets engines (engine mmaI 0 [] []) mmaI :=
  meets rfl ⟨by decide +kernel, by decide +kernel, by decide +kernel, by decide +kernel, by decide +kernel, by decide +kernel,
    by decide +kernel⟩ (by decide +kernel)

def collF : UeForm := { s := false, d := 0, a := 12, b := 10, ext := 0 }
/-- The header of an all-reduce of two ranks at 0, in chunks of 128 bytes within the package. -/
def collState : State := engine (.coll collF) 4 [] [⟨4, 2⟩, ⟨16, 0x80⟩, ⟨20, 4⟩]

/-- CollResults, for rank 0. -/
theorem witness_coll :
    let s := collState
    let spec (a : DWord) (n align : Nat) : AccSpec :=
      { sp := false, order := 0, n := n, align := align, acc := .read, rmw := false, need := [], fabOk := false
        lanes := [⟨127, a.toNat⟩] }
    let r := s.readPlaces [] [(⟨127, 0⟩, at0 64)]
    let header := wordsOf 16 ((r.1.map (·.2)).headD [])
    let x := r.2.readPlaces [] [(⟨127, 64⟩, .mem (spanNat 64 32))]
    let e := RankEntry.ofBytes ((x.1.map (·.2)).headD [])
    let post := (((x.2.askLeave 4).2.useGrant true 4 3 0).joinPlan 0 header 0).settlePlan 0
    s.Clear (.coll collF) ∧ s.readU2 12 = 0 ∧ s.readU 10 = 0
    ∧ s.Reaches (spec 0 64 64) [(⟨127, 0⟩, at0 64)] ∧ headerFault header = none ∧ 0 < (Header.ofWords header).npart
    ∧ r.2.Reaches (spec 64 32 1) [(⟨127, 64⟩, .mem (spanNat 64 32))] ∧ e.device = s.fabric.device ∧ e.die = dieOf s.co.core
    ∧ (s.plans.any fun p => p.addr == 0 && p.joined.any (·.rank == 0)) = false ∧ (x.2.askLeave 4).1 = true
    ∧ (post.core s.co.core).mse.length ≤ 128 ∧ s.Room post 64 :=
  ⟨clear_ok (by decide +kernel), by decide +kernel, by decide +kernel, places_ok (by decide +kernel), by decide +kernel,
    by decide +kernel, places_ok (by decide +kernel), by decide +kernel, by decide +kernel, by decide +kernel,
    by decide +kernel, by decide +kernel, roomy_ok (by decide +kernel)⟩

/-! ### Accumulates and prefetch -/

def accF : LmForm := { s := false, d := 8, a := 0, b := 140, scope := 0, order := 0, xs := 3, size := 2, sx := false, disp := 0 }

/-- Ready for an `ACC` at 0, whose line core 0 holds update-only. -/
def holding : State := (memReady (.acc accF)).modCore 0 fun c => { c with upd := [{ line := 0, sums := [] }] }

/-- AccumulateResults, first clause. -/
theorem witness_accumulate : ∃ ps,
    let s := holding
    let t := s.accLanes accF.aop (fun x => BitVec.ofNat 64 (laneNum s.co accF.d.toNat (sizeRegs accF.sizeN) x.lane)) ps
    s.Clear (.acc accF) ∧ s.co.st.park ≠ some (.resource .eddy) ∧ s.Reaches (lmSpec s accF false (disp16 accF) .write false .write) ps
    ∧ fabLaneBusy s ps = false ∧ (t.core s.co.core).mse.length ≤ 128 ∧ t.accPending s.co.uid s.co.st.id = false ∧ s.Room t 64 := by
  have h : (places (holding) (lmSpec (holding) accF false (disp16 accF) .write false .write)).any
      (fun ps =>
        let s := holding
        let t := s.accLanes accF.aop (fun x => BitVec.ofNat 64 (laneNum s.co accF.d.toNat (sizeRegs accF.sizeN) x.lane)) ps
        clear (.acc accF) s && decide (s.co.st.park ≠ some (.resource .eddy)) && !fabLaneBusy s ps
          && decide ((t.core s.co.core).mse.length ≤ 128) && !t.accPending s.co.uid s.co.st.id && roomy s t 64) = true := by
    decide +kernel
  obtain ⟨ps, e, k⟩ := (Option.any_eq_true _ _).mp h
  simp only [Bool.and_eq_true, Bool.not_eq_true', decide_eq_true_eq] at k
  exact ⟨ps, clear_ok k.1.1.1.1.1, k.1.1.1.1.2, places_ok e, k.1.1.1.2, k.1.1.2, k.1.2, roomy_ok k.2⟩

/-- AccumulateResults, second clause: the addends' last answer has come. -/
theorem witness_accumulate_waited :
    let s := (holding).setSt fun t => { t with park := some (.resource .eddy) }
    s.Clear (.acc accF) ∧ s.co.st.park = some (.resource .eddy) ∧ s.accPending s.co.uid s.co.st.id = false ∧ s.Room s 64 :=
  ⟨clear_ok (by decide +kernel), rfl, by decide +kernel, roomy_ok (by decide +kernel)⟩

/-- AccumulateHeld: core 0 holds line 0 update-only, with a sum at byte 4 behind another. -/
theorem witness_accumulate_held : ∃ (s : State) (u : UpdLine) (p r : PSum),
    s.co.core < s.cores.length ∧ (s.core s.co.core).upd = [] ++ u :: [] ∧ u.line = 4 / 128 ∧ u.sums = [r] ++ p :: []
    ∧ ¬ (r.pa = 4 ∧ r.op = 0) ∧ p.pa = 4 ∧ p.op = 0 :=
  ⟨(ready br0).modCore 0 fun c => { c with upd := [{ line := 0, sums := [{ pa := 0, op := 0, val := 0 }, { pa := 4, op := 0, val := 0 }] }] },
    { line := 0, sums := [{ pa := 0, op := 0, val := 0 }, { pa := 4, op := 0, val := 0 }] }, { pa := 4, op := 0, val := 0 },
    { pa := 0, op := 0, val := 0 }, by decide +kernel, by decide +kernel, rfl, rfl, by decide, rfl, rfl⟩

def pfetchF : LmForm := { s := false, d := 0, a := 0, b := 140, scope := 0, order := 0, xs := 3, size := 0, sx := false, disp := 0 }

/-- PrefetchResults. -/
theorem witness_prefetch : (memReady (.pfetch pfetchF)).Clear (.pfetch pfetchF)
    ∧ (memReady (.pfetch pfetchF)).Room (memReady (.pfetch pfetchF)) 64 :=
  ⟨clear_ok (by decide +kernel), roomy_ok (by decide +kernel)⟩

/-! ### Events -/

/-- An event that a table gives an entry, and is due. -/
def DueMet (T : State → Instr → Option Due) (s : State) (i : Instr) : Prop := ∃ d, T s i = some d ∧ d.need

/-- One cohort, number 3, of block 2 and launch 1 on core 0; and the same with memory mapped. -/
def r0 : State := ready br0
def m0 : State := mapped r0

theorem due_stall : DueMet coreEvents (r0.setSt fun t => { t with park := some .settle }) (.stallCycle 3) := ⟨_, rfl, rfl, rfl⟩

theorem due_landing : DueMet coreEvents (pendingV4 br0) (.resultLanding 3 0 0) :=
  ⟨_, rfl, by show ∀ d ∈ _, _; decide +kernel⟩

theorem due_mismatch : DueMet coreEvents (r0.setSt fun t => { t with icnt := 2 }) (.checkMismatch 3 0 1) :=
  ⟨_, rfl, by show _ ∧ _ ∧ _ ∧ _ ∧ _; decide +kernel⟩

theorem due_late : DueMet coreEvents ((handled r0).setSt fun t => { t with late := some ⟨0x0A, 0, 0⟩ }) (.lateFault 3) :=
  ⟨_, rfl, by decide +kernel, rfl, rfl, canTrap (by decide +kernel) (by decide +kernel) (by decide +kernel)⟩

/-- A walk of page 0 by die 0. -/
def walks0 (s : State) : State := s.modDie 0 fun d => { d with walks := [0] }

theorem due_walk : DueMet coreEvents (walks0 m0) (.pageWalk 0 0) := ⟨_, rfl, by show _ ∈ _; decide +kernel⟩

theorem due_walk_invalid : DueMet coreEvents { walks0 r0 with invalid := [0] } (.pageWalk 0 0) :=
  ⟨_, rfl, by show _ ∈ _; decide +kernel⟩

theorem due_walk_absent : DueMet coreEvents (walks0 r0) (.pageWalk 0 0) := ⟨_, rfl, by show _ ∈ _; decide +kernel⟩

theorem due_code_fill : DueMet coreEvents m0 (.codeFill 1 0x80) := ⟨_, rfl, by show _ ∧ _; decide +kernel⟩

theorem due_line_fill : DueMet coreEvents (m0.modCore 0 fun c => { c with mse := [⟨0, 0, true, false, false⟩] }) (.lineFill 0 0) :=
  ⟨_, rfl, trivial⟩

theorem due_store_ack : DueMet coreEvents (m0.setSt fun t => { t with unacked := [⟨1, 0, true, none⟩] }) (.storeAck 3 0) :=
  ⟨_, rfl, trivial⟩

theorem due_horizon : DueMet coreEvents { r0 with time := 1 } (.horizonPassed 3 0) :=
  ⟨_, rfl, by show ∀ x ∈ _, _ → _; decide +kernel⟩

theorem due_rdc_fill : DueMet coreEvents (m0.modDie 0 fun d => { d with rdc := [⟨0, none, 0⟩] }) (.rdcFill 0 0) :=
  ⟨_, rfl, ⟨⟨0, none, 0⟩, by decide +kernel, rfl, rfl⟩, by decide +kernel⟩

theorem due_writeback : DueMet coreEvents m0 (.l1WritebackTimer 0) :=
  ⟨_, rfl, by unfold State.memoryOk; decide +kernel, by decide +kernel⟩

/-- A request for line 0 at slice 0, with one addend. -/
def asks (s : State) : State :=
  s.modSlice 0 fun x => { x with requests := [⟨0, 0, [⟨2, 3, 0, 0, 0, 1, none⟩]⟩] }

theorem due_update_only : DueMet coreEvents (asks m0) (.updateOnlyRequest 0) := ⟨_, rfl, trivial⟩

theorem due_update_refused : DueMet coreEvents ((asks m0).modSlice 0 fun x => { x with quota := 0 }) (.updateOnlyRequest 0) :=
  ⟨_, rfl, trivial⟩

theorem due_rollover : DueMet coreEvents { r0 with cycle := 1024 } (.accWindowRollover 0) := ⟨_, rfl, by show _ ≠ _; decide +kernel⟩

theorem due_eddy_age : DueMet coreEvents r0 (.eddyAgeExpiry 2) := ⟨_, rfl, trivial⟩

theorem due_forced : DueMet coreEvents (r0.modBlock 2 fun b => { b with forced := [⟨1, 0, 0, 1, 0⟩] }) (.forcedDelivery 2) :=
  ⟨_, rfl, trivial⟩

theorem due_arrival : DueMet coreEvents { m0 with arrivals := [⟨0, 0, 2, 3, 0, []⟩] } (.storeArrival 0) := ⟨_, rfl, rfl⟩

theorem due_link_entry : DueMet coreEvents { r0 with flying := [⟨1, 7, 1, entry1⟩] } (.linkEntryArrival 0) :=
  ⟨_, rfl, fun x h => by cases h⟩

theorem due_report : DueMet coreEvents ((handled r0).setSt fun t => { t with reports := [⟨8, 0⟩] }) (.reportDelivery 3) :=
  ⟨_, rfl, by decide +kernel, rfl, canTrap (by decide +kernel) (by decide +kernel) (by decide +kernel)⟩

theorem isDue {T : State → Instr → Option Due} {s : State} {i : Instr} (h : (T s i).isSome = true)
    (n : ∀ d, T s i = some d → d.need) : DueMet T s i := by
  obtain ⟨d, e⟩ := Option.isSome_iff_exists.mp h
  exact ⟨d, e, n d e⟩

/-- A command of core 0's engine, and of what it reads: four bytes at 0. -/
def copying (kind : CopyKind) (s : State) : State :=
  s.modCore 0 fun c => { c with copies := [{
    id := 1, kind := kind, layout := [0, 0, 0, 0, 4, 0, 0, 0, 0, 0, 0, 0, 0, 0, 0, 0, 0, 4, 0, 0, 16, 0, 0, 0]
    origin := [0, 0, 0, 0, 0], spm := 0, block := 2, acq := false, rel := false, scope := 0, dsg := none, cohort := 3, strand := 0
    lines := [0], stage := 0, due := 0, fab := [] }] }

theorem copyNeed (s : State) (core k : Nat) (h : ((s.copyAt core k).all fun c => c.moves) = true) :
    (∀ d, engineEvents s (.copyCompletion core k) = some d → d.need) ∧ ∀ d, engineEvents s (.copyFault core k) = some d → d.need := by
  constructor <;> intro d e <;> simp only [engineEvents] at e <;>
    (obtain ⟨cp, e1, e2⟩ := Option.bind_eq_some_iff.mp e
     rw [e1] at h
     split at e2 <;> cases e2
     exact h)

theorem due_copy : DueMet engineEvents (copying .inn m0) (.copyCompletion 0 0) :=
  isDue (by decide +kernel) (copyNeed _ _ _ (by decide +kernel)).1

theorem due_copy_out : DueMet engineEvents (copying .out m0) (.copyCompletion 0 0) :=
  isDue (by decide +kernel) (copyNeed _ _ _ (by decide +kernel)).1

theorem due_copy_fault : DueMet engineEvents (copying .inn { r0 with invalid := [0] }) (.copyFault 0 0) :=
  isDue (by decide +kernel) (copyNeed _ _ _ (by decide +kernel)).2

/-- EngineEvents, second clause: the command moves bytes within this device. -/
theorem due_plain_copy : ∀ kind ∈ [CopyKind.inn, .out, .gather [0]],
    let s := copying kind m0
    (s.copyAt 0 0).any (fun cp =>
      let y := Layout.ofWords cp.layout
      let out := (copyWay cp).1
      let us := y.units out cp.origin (copyWay cp).2 cp.spm (s.blockRange cp.block).1
      cp.moves && cp.stage == 0 && cp.fab.isEmpty && us.all (fun u => u.va.all fun va => !isFabric va)
        && (s.fabDenied out y.esize us).isNone && !(cp.rel && decide (4 ≤ cp.scope))
        && us.all fun u => u.offs.all fun o => (s.core 0).present (o / 128)) = true := by decide +kernel

def cmd0 : MmaCmd :=
  { cohort := 3, strand := 0, count := 0, tile := 0, src := none, dst := 0, fb := [0, 0, 0, 0], rows := 0, a := [], acq := false
    scope := 0, leader := 2, follower := 2, miss := 0, redo := false }

/-- A pair's command, queued or run. -/
def arrays (q c : List MmaCmd) : State :=
  r0.modPair 0 fun p => { p with queue := q, checks := c, tiles := [{ id := 0, vals := none, checked := false }], next := 1 }

theorem due_mma : DueMet engineEvents (arrays [cmd0] []) (.mmaExecute 0) := by
  refine ⟨_, rfl, ?_⟩
  show (arrays [cmd0] []).mmaLines 0 cmd0 = true
  have a : ((arrays [cmd0] []).core 0).absent = [] := by decide +kernel
  have b : ((arrays [cmd0] []).core 1).absent = [] := by decide +kernel
  simp [State.mmaLines, Core.present, a, b]

theorem due_mma_redo : DueMet engineEvents (arrays [{ cmd0 with redo := true }] []) (.mmaExecute 0) := ⟨_, rfl, trivial⟩

theorem due_check : DueMet engineEvents (arrays [] [cmd0]) (.mmaCheck 0 true) := ⟨_, rfl, trivial⟩

theorem due_check_again : DueMet engineEvents (arrays [] [cmd0]) (.mmaCheck 0 false) := ⟨_, rfl, trivial⟩

theorem due_check_halts : DueMet engineEvents (arrays [] [{ cmd0 with miss := 2 }]) (.mmaCheck 0 false) :=
  ⟨_, rfl, by show _ = _; decide +kernel⟩

theorem due_zst : DueMet engineEvents (copying (.zst 0 none 0 256 0 false) r0) (.zstEngine 0 0) :=
  ⟨_, rfl, by show _ = _; decide +kernel⟩

/-- A reduction of two ranks of this die to rank 0, 4 bytes long, in progress; 4 cores. -/
def planned : State :=
  { m0 with
    cores := m0.cores.take 4
    plans := [{ addr := 0, header := [0x10330000, 2, 4, 0, 128, 4, 0, 0, 0, 0, 0, 0, 0, 0, 0, 0]
                joined := [⟨0, 3, 0, 0, [], []⟩, ⟨1, 3, 0, 0, [], []⟩], partials := [], sent := [] }] }

theorem due_chunk : DueMet engineEvents planned (.collChunk 0 0 0) := by
  refine isDue (by decide +kernel) fun d e => ?_
  simp only [engineEvents] at e
  obtain ⟨p, e1, e⟩ := Option.bind_eq_some_iff.mp e
  obtain ⟨j, e2, e⟩ := Option.bind_eq_some_iff.mp e
  have n : 0 < (Header.ofWords p.header).chunks ∧ 0 ∉ j.bits ∧ planned.allJoined p = true
      ∧ ((planned.planDevices p).length ≤ 1 ∨ (Header.ofWords p.header).scope = 5) := by
    have h : ((planned.plans.find? (·.addr == 0)).all fun p => (p.joined.find? (·.rank == 0)).all fun j =>
        decide (0 < (Header.ofWords p.header).chunks ∧ 0 ∉ j.bits ∧ planned.allJoined p = true
          ∧ ((planned.planDevices p).length ≤ 1 ∨ (Header.ofWords p.header).scope = 5))) = true := by decide +kernel
    rw [e1] at h
    simp only [Option.all_some] at h
    rw [e2] at h
    simpa using h
  repeat' split at e
  all_goals first | cases e | skip
  all_goals exact n

theorem due_leave : DueMet engineEvents (r0.modDie 0 fun d => { d with waiting := [⟨3, 0, 4, 4, 7⟩] }) (.leaveGrant 0) :=
  ⟨_, rfl, by show _ ∧ _; decide +kernel⟩

theorem due_lend : DueMet engineEvents r0 (.sluiceLend 3) := ⟨_, rfl, by show _ ∧ _; decide +kernel⟩

theorem due_reclaim : DueMet engineEvents (r0.modDie 3 fun d => { d with waiting := [⟨3, 0, 4, 4, 7⟩] }) (.sluiceLend 3) :=
  ⟨_, rfl, by show _ < _; decide +kernel⟩

theorem due_chain : DueMet engineEvents { r0 with cycle := 2048 } (.leaveChainRelease 3 0) := ⟨_, rfl, by show _ ∧ _; decide +kernel⟩

theorem due_unused : DueMet engineEvents r0 (.leaveUnusedExpiry 3) := ⟨_, rfl, trivial⟩

/-- A launch queue with one published record of zeros, which is refused; one core. -/
def recordQueue : State :=
  { m0 with
    cores := m0.cores.take 1, mem := [⟨0x10002, 4⟩, ⟨0x10008, 4⟩, ⟨0x10010, 1⟩, ⟨0x400FC, 1⟩] ++ m0.mem
    setup := { m0.setup with qtbase := 0x10000 } }

theorem due_record : DueMet launchEvents recordQueue (.launchRecord 0) := by
  refine isDue (by decide +kernel) fun d e => ?_
  have h : (match recordQueue.openQueue 0 with
    | .ok (some x, _) => decide (x.kind = 0)
    | _ => false) = true := by decide +kernel
  simp only [launchEvents] at e
  split at e
  · rename_i x t eq
    rw [eq] at h
    obtain ⟨bs, _, e⟩ := Option.bind_eq_some_iff.mp e
    split at e <;> cases e
    exact of_decide_eq_true h
  · cases e

/-- A module of one core, in which nothing is placed of launch 1. -/
def unplaced : State :=
  { r0 with co := Cohort.reset, blocks := [], cores := r0.cores.take 1
            launches := r0.launches.map fun x => { x with phase := 0, placed := 0, blocks := 1 } }

theorem due_placement : DueMet launchEvents unplaced (.blockPlacement 1) :=
  ⟨_, rfl, by show _ ∧ _ ∧ _ ∧ _; decide +kernel⟩

/-- Launch 1 with its one block ended. -/
def finished : State :=
  { m0 with co := Cohort.reset, cores := m0.cores.take 1, blocks := m0.blocks.map fun b => { b with phase := 3 }
            launches := m0.launches.map fun x => { x with ended := 1 } }

theorem due_completion : DueMet launchEvents finished (.launchCompletion 1) := by
  refine isDue (by decide +kernel) fun d e => ?_
  simp only [launchEvents] at e
  obtain ⟨x, e1, e⟩ := Option.bind_eq_some_iff.mp e
  have h : ((finished.launch? 1).all fun l => decide (l.phase = 1 ∧ l.status = 0 ∧ l.unwritten = none ∧ l.ended = l.blocks
      ∧ finished.tasksLeft l = false ∧ l.presses = [] ∧ (∀ c ∈ finished.cohorts, c.launch ≠ 1)
      ∧ ∀ b ∈ finished.blocks, b.launch = 1 → 3 ≤ b.phase)) = true := by decide +kernel
  rw [e1] at h
  cases e
  exact of_decide_eq_true h

/-- Block 2 fills core 0, the only core; launch 9 of higher priority has waited 20 us. -/
def crowded : State :=
  { r0 with
    cores := r0.cores.take 1, time := 20000, blocks := r0.blocks.map fun b => { b with p := 2096128 }
    launches := (r0.launches.map fun x => { x with record := { x.record with prio := 0 } })
      ++ r0.launches.map fun x => { x with uid := 9, phase := 0, placed := 0 } }

theorem due_request : DueMet launchEvents crowded (.preemptRequest 9) :=
  ⟨_, rfl, by show _ ∧ _ ∧ _; decide +kernel⟩

theorem due_preempt : DueMet launchEvents ((handled r0).setCo fun c => { c with preempt := some 0 }) (.preemptTrap 3) :=
  ⟨_, rfl, by decide +kernel, canTrap (by decide +kernel) (by decide +kernel) (by decide +kernel)⟩

theorem due_forced_save : DueMet launchEvents { r0.modBlock 2 fun b => { b with phase := 1, t0 := some 0 } with time := 20000 }
    (.forcedSave 3) := ⟨_, rfl, by show _ ∧ _ ∧ _ ∧ _; decide +kernel⟩

/-- Block 2 has been asked to leave, and its cohort is saved. -/
def leavingS (phase : Nat) : State := (r0.modBlock 2 fun b => { b with phase := phase }).setCo fun c => { c with saved := some (8, 0) }

theorem due_block_leave : DueMet launchEvents (leavingS 1) (.blockLeave 2) := ⟨_, rfl, by show _ ∧ _; decide +kernel⟩

theorem due_restore : DueMet launchEvents { leavingS 2 with cores := r0.cores.take 1 } (.blockRestore 2) :=
  ⟨_, rfl, by show _ ∧ _; decide +kernel⟩

/-- A launch of domain 8 that awaits its peers. -/
def grouped : State :=
  { r0 with launches := r0.launches.map fun x => { x with record := { x.record with levels := [⟨1, 0, 0⟩, ⟨1, 8, 5⟩] } }
            fabric := { r0.fabric with gsize := 2 } }

theorem due_report_placed : DueMet launchEvents grouped (.placementReport 1 1 none) := ⟨_, rfl, by show _ ∧ _ ∧ _; decide +kernel⟩

theorem due_report_refused : DueMet launchEvents grouped (.placementReport 1 1 (some 3)) :=
  ⟨_, rfl, by show _ ∧ _ ∧ _; decide +kernel⟩

theorem due_abort : DueMet launchEvents r0 (.firmwareAbort 1) := ⟨_, rfl, by show _ ≠ _; decide +kernel⟩

theorem due_resume : DueMet launchEvents (r0.setCo fun c => { c with halt := some .check }) (.firmwareResume 3) := ⟨_, rfl, rfl⟩

theorem due_press_resume : DueMet launchEvents r0 (.firmwarePressResume 0) := ⟨_, rfl, trivial⟩

theorem due_invalid : DueMet launchEvents r0 (.firmwareDeclareInvalid 0) := ⟨_, rfl, by show _ = _; decide +kernel⟩

/-- Launch 1 takes tasks from queue 0, which holds one published entry; one core. -/
def tasking : State :=
  { m0 with
    cores := m0.cores.take 1
    mem := [⟨0x10002, 4⟩, ⟨0x10008, 4⟩, ⟨0x1000B, 0x10⟩, ⟨0x10010, 1⟩, ⟨0x4003C, 1⟩] ++ m0.mem
    setup := { m0.setup with qtbase := 0x10000, arenaNext := 0x100000 }
    host := { m0.host with regions := some ⟨0, 0, 0, 0, 0, 0, 0x100000, 0x100000⟩ }
    launches := m0.launches.map fun x => { x with record := { x.record with ten := true, tslots := 1 } } }

theorem due_gather : DueMet launchEvents tasking (.taskGather 1) := by
  refine isDue (by decide +kernel) fun d e => ?_
  have h : ((tasking.launch? 1).all fun l => decide (l.phase = 1 ∧ l.status = 0 ∧ l.record.ten = true)
      && (match tasking.openQueue l.record.taskq with
        | .ok (some d, t) =>
          let run := t.gatherRun l d (d.resv - d.head).toNat ⟨[], 0, t.setup.arenaNext⟩
          run.tasks.head?.all fun f => t.arenaRoom (run.next - t.setup.arenaNext
            + viewBlockSize (t.tilesAt (t.declFor l.record (dwordAt f.bytes 0)).1))
        | _ => false)) = true := by decide +kernel
  simp only [launchEvents] at e
  obtain ⟨x, e1, e⟩ := Option.bind_eq_some_iff.mp e
  rw [e1] at h
  simp only [Option.all_some, Bool.and_eq_true, decide_eq_true_eq] at h
  split at e
  · rename_i q t eq
    rw [eq] at h
    obtain ⟨f, e2, e⟩ := Option.bind_eq_some_iff.mp e
    obtain ⟨m, _, e⟩ := Option.bind_eq_some_iff.mp e
    obtain ⟨sp, _, e⟩ := Option.bind_eq_some_iff.mp e
    cases e
    have k := h.2
    simp only [e2, Option.all_some] at k
    exact ⟨h.1.1, h.1.2.1, h.1.2.2, k⟩
  · cases e

/-- A press of a final task without tiles is due. -/
def pressing : State :=
  { m0 with
    cores := m0.cores.take 1
    launches := m0.launches.map fun x =>
      { x with tasks := [⟨0x1000, 0, 0, 0, 3, false, 0, 0⟩], presses := [⟨0x1000, 3, 0, 0, 0, none⟩] } }

set_option maxRecDepth 100000 in
theorem due_press : DueMet launchEvents pressing (.press 0x1000) := ⟨_, rfl, trivial⟩

def opened (s : State) : State := { s with host := { s.host with debugOpen := true } }

/-- The cohort is halted by the debug agent. -/
def stopped : State := opened (r0.setCo fun c => { c with halt := some (.debug 0 0 0) })

theorem due_halt : DueMet debugEvents (opened r0) (.haltRequest 3) := ⟨_, rfl, rfl, rfl, rfl⟩

theorem due_halt_parked : DueMet debugEvents (opened (r0.setSt fun t => { t with park := some .settle })) (.haltRequest 3) :=
  ⟨_, rfl, rfl, rfl, rfl⟩

theorem due_buffer : DueMet debugEvents stopped (.programBuffer 3 [0x97000000]) :=
  ⟨_, rfl, rfl, rfl, by decide, by decide, rfl⟩

theorem due_darg : DueMet debugEvents (opened r0) (.dargWrite 5) := ⟨_, rfl, rfl⟩

theorem due_resume_halted : DueMet debugEvents stopped (.resume 3) := ⟨_, rfl, trivial⟩

theorem due_single : DueMet debugEvents stopped (.singleStep 3) := ⟨_, rfl, trivial⟩

theorem due_resume_at : DueMet debugEvents stopped (.resumeAtPc 3 0x400008) := ⟨_, rfl, by show _ = _; decide +kernel⟩

/-- Another cohort of the core is under full trace. -/
def tracing : State := { r0 with others := [{ r0.co with uid := 8, traced := true }] }

theorem due_time : DueMet debugEvents tracing (.traceTimePacket 0) := ⟨_, rfl, by show _ = _; decide +kernel⟩

theorem due_summary : DueMet debugEvents tracing (.traceSummary 3) := ⟨_, rfl, by show _ ∧ _; decide +kernel⟩

theorem due_room : DueMet debugEvents tracing (.traceRoomReturn 0) := ⟨_, rfl, trivial⟩

theorem due_room_lost : DueMet debugEvents (tracing.modCore 0 fun c => { c with trace := { c.trace with lost := 2 } })
    (.traceRoomReturn 0) := ⟨_, rfl, trivial⟩

theorem due_snapshots : DueMet debugEvents r0 .snapshotAgentTrigger ∧ DueMet debugEvents r0 .snapshotInput
    ∧ DueMet debugEvents r0 (.snapshotArm 2) := ⟨⟨_, rfl, trivial⟩, ⟨_, rfl, trivial⟩, _, rfl, trivial⟩

/-- Link 0 of the module changed. -/
def link (f : Link → Link) : State :=
  { r0 with fabric := { r0.fabric with links := r0.fabric.links.map f } }

def flit (tag : Bool) (seq : BitVec 16) : RxFlit := { seq := seq, ack := 0, kind := 0, cred := 1, tagGood := tag, fecGood := true }

theorem due_packets : DueMet linkEvents r0 (.crossbarPacket 0 true) ∧ DueMet linkEvents r0 (.crossbarPacket 0 false) :=
  ⟨⟨_, rfl, trivial⟩, _, rfl, trivial⟩

/-- A flit in order, one out of order, one whose tag fails. -/
theorem due_flits : DueMet linkEvents (link fun l => { l with rx := { l.rx with ack := 4 } }) (.flitReceive 0 (flit true 5))
    ∧ DueMet linkEvents (link fun l => { l with rx := { l.rx with ack := 4 } }) (.flitReceive 0 (flit true 6))
    ∧ DueMet linkEvents r0 (.flitReceive 0 (flit false 0)) := ⟨⟨_, rfl, trivial⟩, ⟨_, rfl, trivial⟩, _, rfl, trivial⟩

theorem due_nak : DueMet linkEvents (link fun l => { l with tx := { l.tx with replay := [4, 5] } }) (.nak 0 5) :=
  ⟨_, rfl, by show _ ∈ _; decide +kernel⟩

theorem due_wreq : DueMet linkEvents r0 (.wreq 0 0) ∧ DueMet linkEvents r0 (.wreq 0 0x7F) := ⟨⟨_, rfl, trivial⟩, _, rfl, trivial⟩

theorem due_wchg : DueMet linkEvents r0 (.wchg 0 0x0F) := ⟨_, rfl, trivial⟩

theorem due_wack : DueMet linkEvents (link fun l => { l with tx := { l.tx with pending := some (0x0F, 9) } }) (.wack 0 9) :=
  ⟨_, rfl, 0x0F, rfl⟩

theorem due_retrain : DueMet linkEvents r0 (.retrainWindow 0 7 65)
    ∧ DueMet linkEvents (link fun l => { l with rx := { l.rx with bad := 0x7F } }) (.retrainWindow 0 7 65) :=
  ⟨⟨_, rfl, by show _ ∧ _ ∧ _; decide +kernel⟩, _, rfl, by show _ ∧ _ ∧ _; decide +kernel⟩

theorem due_trained : DueMet linkEvents (link fun l => { l with rx := { l.rx with bad := 0x80, training := 0x80 } })
    (.trainingComplete 0 7 16) := ⟨_, rfl, by show _ ∧ _ ∧ _; decide +kernel⟩

theorem due_width : DueMet linkEvents r0 (.widthPolicy 0 ⟨true, false, 0⟩) := ⟨_, rfl, by show _ ∨ _; decide +kernel⟩

theorem due_rekey : DueMet linkEvents (link fun l => { l with tx := { l.tx with flits := 2 ^ 40 } }) (.linkRekey 0) :=
  ⟨_, rfl, by show _ ∨ _; decide +kernel⟩

theorem due_relight : DueMet linkEvents (link fun l => { l with tx := { l.tx with active := 0x0F } }) (.relight 0 7) :=
  ⟨_, rfl, by show _ ∧ _ ∧ _; decide +kernel⟩

def head1 : FabHead := ⟨1, 7, 0⟩
/-- Memory mapped, and one core. -/
def m1 : State := { m0 with cores := m0.cores.take 1 }

set_option maxRecDepth 100000 in
theorem due_read : DueMet fabricEvents m1 (.read head1 4) := ⟨_, rfl, by show _ ∉ _; decide +kernel⟩

theorem due_read_long : DueMet fabricEvents m1 (.read head1 129) := ⟨_, rfl, by show _ ∉ _; decide +kernel⟩

theorem due_read_absent : DueMet fabricEvents r0 (.read head1 4) := ⟨_, rfl, by show _ ∉ _; decide +kernel⟩

theorem due_read_denied : DueMet fabricEvents { r0 with invalid := [0] } (.read head1 4) := ⟨_, rfl, by show _ ∉ _; decide +kernel⟩

theorem due_write : DueMet fabricEvents m1 (.write head1 [true] [5]) := ⟨_, rfl, by show _ ∉ _; decide +kernel⟩

theorem due_rmw : DueMet fabricEvents m1 (.readModifyWrite head1 (.atom 0 false 1)) := ⟨_, rfl, by show _ ∉ _; decide +kernel⟩

theorem due_accumulate : DueMet fabricEvents m1 (.accumulate head1 0 1) := ⟨_, rfl, by show _ ∉ _; decide +kernel⟩

theorem due_misaligned : DueMet fabricEvents m1 (.accumulate ⟨1, 7, 1⟩ 0 1) := ⟨_, rfl, by show _ ∉ _; decide +kernel⟩

theorem due_arrive : DueMet fabricEvents m1 (.arrive head1 0) := ⟨_, rfl, by show _ ∉ _; decide +kernel⟩

theorem due_arrive_bad : DueMet fabricEvents m1 (.arrive head1 8) := ⟨_, rfl, by show _ ∉ _; decide +kernel⟩

/-- A message of this device is out. -/
def sentMsg (kind cohort : Nat) : State :=
  { r0 with fabric := { r0.fabric with out := [{
      tid := 7, device := 1, link := some 0, kind := kind, va := 0, target := 0, data := [], mask := [], op := none
      cohort := cohort, strand := 0, lane := 0, size := 4, piece := none }] } }

theorem due_response : DueMet fabricEvents (sentMsg 1 3) (.response 7 true [1, 2, 3, 4]) := ⟨_, rfl, trivial⟩

theorem due_written : DueMet fabricEvents (sentMsg 2 3) (.writeAcknowledgement 7 true)
    ∧ DueMet fabricEvents (sentMsg 2 0) (.writeAcknowledgement 7 false) := ⟨⟨_, rfl, trivial⟩, _, rfl, trivial⟩

theorem due_piece : DueMet fabricEvents r0 (.reductionPiece head1 ⟨0, 0, 1, [], []⟩) := ⟨_, rfl, by show _ ∉ _; decide +kernel⟩

theorem due_bit_none : DueMet fabricEvents r0 (.chunkBit head1 0 0 0) := ⟨_, rfl, by show _ ∉ _; decide +kernel⟩

theorem due_bit : DueMet fabricEvents planned (.chunkBit head1 0 0 0) := by
  refine isDue (by decide +kernel) fun d e => ?_
  have h : (head1.src, head1.tid) ∉ planned.fabric.performed := by decide +kernel
  simp only [fabricEvents] at e
  repeat' split at e
  all_goals cases e
  all_goals exact h

def inSession (s : State) : State := { s with host := { s.host with session := true } }

set_option maxRecDepth 100000 in
theorem due_host : DueMet hostEvents r0 (.hostWrite 0 [1]) ∧ DueMet hostEvents (inSession m1) (.hostWrite 0 [1])
    ∧ DueMet hostEvents (inSession r0) (.hostWrite 0 [1]) ∧ DueMet hostEvents (inSession m1) (.hostWrite (2 ^ 36) [1])
    ∧ DueMet hostEvents r0 (.hostRead 0 4) ∧ DueMet hostEvents (inSession m1) (.hostRead 0 4)
    ∧ DueMet hostEvents (inSession r0) (.hostRead 0 4) ∧ DueMet hostEvents (inSession m1) (.hostRead (2 ^ 36) 4) :=
  ⟨⟨_, rfl, trivial⟩, ⟨_, rfl, trivial⟩, ⟨_, rfl, trivial⟩, ⟨_, rfl, trivial⟩, ⟨_, rfl, trivial⟩, ⟨_, rfl, trivial⟩,
    ⟨_, rfl, trivial⟩, _, rfl, trivial⟩

theorem due_doorbells : DueMet hostEvents r0 (.doorbellTicket 0) ∧ DueMet hostEvents r0 (.doorbellHead 0)
    ∧ DueMet hostEvents r0 (.apbaseWrite 0xFFFFFFFFFFFFFFFF) := ⟨⟨_, rfl, trivial⟩, ⟨_, rfl, trivial⟩, _, rfl, trivial⟩

theorem due_registers : ∀ r ∈ [DevReg.linkWpol 127, .linkThresh 127, .window 0 1, .traceSelect 191 0, .traceSelect 191 1,
      .route 1 0, .deviceId, .groupSize, .groupRank, .recording, .mailboxLen, .mailboxBuf 4091, .mailboxBuf 4092],
    DueMet hostEvents r0 (.registerWrite r 0xFFFFFFFF) := by
  simp only [List.forall_mem_cons]
  exact ⟨⟨_, rfl, trivial⟩, ⟨_, rfl, trivial⟩, ⟨_, rfl, trivial⟩, ⟨_, rfl, trivial⟩, ⟨_, rfl, trivial⟩, ⟨_, rfl, trivial⟩,
    ⟨_, rfl, trivial⟩, ⟨_, rfl, trivial⟩, ⟨_, rfl, trivial⟩, ⟨_, rfl, trivial⟩, ⟨_, rfl, trivial⟩, ⟨_, rfl, trivial⟩,
    ⟨_, rfl, trivial⟩, fun _ h => by cases h⟩

theorem due_breakpoints : DueMet hostEvents (opened r0) (.registerWrite (.breakpoints 1) 1) := ⟨_, rfl, rfl⟩

/-- A mailbox request is in service, after bring-up. -/
def asking (s : State) : State :=
  { s with host := { s.host with stage := 4, mail := { s.host.mail with status := 0xFFFFFFFF } } }

theorem due_requests : ∀ i ∈ [Instr.unmap 0 0, .unmap 0 0x10000, .setregBaseAllowance 300, .setregAccControl 95 0,
      .setregLease 95 0, .setregDebugKey [], .attest [], .session [], .debugReq [] [], .regions ⟨0, 0, 0, 0, 0, 0, 0, 0⟩, .stats,
      .reset, .map ⟨0, 0x10000, 0, true, true, true, 0⟩, .map ⟨1, 0x10000, 0, true, true, true, 0⟩],
    DueMet hostEvents (asking r0) i := by
  have h : (asking r0).host.mail.status = 0xFFFFFFFF ∧ ((asking r0).host.stage = 4 ∨ true = true ∧ (asking r0).host.stage = 15) :=
    ⟨rfl, .inl rfl⟩
  have g : (asking r0).host.mail.status = 0xFFFFFFFF ∧ ((asking r0).host.stage = 4 ∨ false = true ∧ (asking r0).host.stage = 15) :=
    ⟨rfl, .inl rfl⟩
  simp only [List.forall_mem_cons]
  exact ⟨⟨_, rfl, g⟩, ⟨_, rfl, g⟩, ⟨_, rfl, g⟩, ⟨_, rfl, g⟩, ⟨_, rfl, g⟩, ⟨_, rfl, g⟩, ⟨_, rfl, h⟩, ⟨_, rfl, g⟩, ⟨_, rfl, g⟩,
    ⟨_, rfl, g⟩, ⟨_, rfl, g⟩, ⟨_, rfl, .inl rfl⟩, ⟨_, rfl, g⟩, ⟨_, rfl, g⟩, fun _ h => by cases h⟩

def starts (good : Bool) : BringUp :=
  { good := good, err := 1, cxl0 := 0, cxl1 := 0, root := 0x20000000, qtbase := 0, saveArena := 0, codeArena := 0, deadLinks := [0] }

theorem due_bring_up : ∀ good : Bool, ∀ n < 4,
    DueMet powerEvents { r0 with host := { r0.host with stage := n } } (.bringUp (starts good)) := by
  intro good n h
  match n, h with
  | 0, _ => cases good <;> exact ⟨_, rfl, trivial⟩
  | 1, _ => cases good <;> exact ⟨_, rfl, trivial⟩
  | 2, _ => cases good <;> exact ⟨_, rfl, trivial⟩
  | 3, _ => cases good <;> exact ⟨_, rfl, trivial⟩

def hotter (thr : Bool) (clk n : Nat) : State :=
  { r0 with time := 1000000, power := { r0.power with thr := thr, clk := clk, hot := n, temps := [50], samples := List.replicate 100 100 } }

theorem due_power : DueMet powerEvents r0 (.powerSample 2400 [60]) ∧ DueMet powerEvents (hotter true 3 0) .clockStepDown
    ∧ DueMet powerEvents (hotter false 1 0) .clockStepUp ∧ DueMet powerEvents (hotter true 0 1000) .thermalTrip
    ∧ DueMet powerEvents r0 (.mctpControl []) ∧ DueMet powerEvents r0 (.pldmMonitoring 0)
    ∧ DueMet powerEvents r0 (.vendorAttest []) :=
  ⟨⟨_, rfl, trivial⟩, ⟨_, rfl, by show _ ∧ _ ∧ _; decide +kernel⟩, ⟨_, rfl, by show _ ∧ _ ∧ _ ∧ _; decide +kernel⟩,
    ⟨_, rfl, by show _ ≤ _; decide +kernel⟩, ⟨_, rfl, trivial⟩, ⟨_, rfl, trivial⟩, _, rfl, trivial⟩

/-! ### Decoding: words written out from the formats of 03 R67-R71 and the opcode maps of R72-R74 -/

def decodesTo (ws : List Word) (i : Instr) : Bool := (decode ws).toOption == some i

/-- Format L: SET, S, OP8, D, A, B. -/
def lWord (op : Nat) (d a : BitVec 7) (b : BitVec 8) : Word := 0#1 ++ 0#1 ++ BitVec.ofNat 8 op ++ d ++ a ++ b
/-- Format U: SET, S, OP6, D8, A8, B8. -/
def uWord (op : Nat) (d a b : BitVec 8) : Word := 1#1 ++ 0#1 ++ BitVec.ofNat 6 op ++ d ++ a ++ b

/-- R72, format L with two sources. -/
theorem test_decode_lane_two : ∀ p ∈ ([(0x01, .iadd), (0x02, .isub), (0x03, .imul), (0x04, .imulh), (0x05, .laneUmulh),
      (0x07, .iand), (0x08, .ior), (0x09, .ixor), (0x0C, .shl), (0x0D, .shr), (0x0E, .sar), (0x0F, .rol), (0x10, .ror),
      (0x11, .imin), (0x12, .imax), (0x13, .laneUmin), (0x14, .laneUmax), (0x1B, .iadds), (0x1C, .isubs), (0x28, .fadd),
      (0x29, .fsub), (0x2A, .fmul), (0x2D, .fmin), (0x2E, .fmax), (0x31, .fdiv), (0x3C, .fscale)] : List (Nat × (LForm → Instr))),
    decodesTo [lWord p.1 4 5 6] (p.2 { s := false, d := 4, a := 5, b := 6, lit := 0 }) = true := by decide +kernel

/-- R72, format L with one source; `MOV` (A unused), `QPUSH` (D unused), `QPOP`, `QPEEK`. -/
theorem test_decode_lane_one : (∀ p ∈ ([(0x0A, .inot), (0x0B, .ineg), (0x15, .iabs), (0x16, .popc), (0x17, .clz), (0x18, .brev),
      (0x1F, .swap), (0x2F, .fabs), (0x30, .fneg), (0x32, .fsqrt), (0x33, .frcp), (0x34, .frsq), (0x35, .fexp2), (0x36, .flog2),
      (0x37, .fsin), (0x38, .fcos), (0x39, .ftanh), (0x3A, .fsigm), (0x3D, .fclass), (0x81, .qpop), (0x82, .qpeek)] :
      List (Nat × (LForm → Instr))),
    decodesTo [lWord p.1 4 5 0] (p.2 { s := false, d := 4, a := 5, b := 0, lit := 0 }) = true)
    ∧ decodesTo [lWord 0x1E 4 0 6] (.mov { s := false, d := 4, a := 0, b := 6, lit := 0 }) = true
    ∧ decodesTo [lWord 0x80 0 5 6] (.qpush { s := false, d := 0, a := 5, b := 6, lit := 0 }) = true := by decide +kernel

/-- Format LQ's extension word: C, MOD, IMM16. -/
def lqExt (c : BitVec 8) (mod : BitVec 8) (imm : BitVec 16) : Word := c ++ mod ++ imm

/-- R72, format LQ, each with fields that it uses. -/
theorem test_decode_lq : ∀ p ∈ ([(0x06, .imad, 6, 7, 0, 0), (0x1D, .sel, 6, 7, 0, 0), (0x5C, .bpick, 6, 7, 0, 0),
      (0x19, .bfe, 0, 0, 0, 0x0D10), (0x1A, .bfi, 6, 0, 0, 0x0D20), (0x20, .icmp, 6, 0, 11, 0), (0x21, .fcmp, 6, 0, 7, 0),
      (0x22, .lread, 0, 0, 0, 3), (0x2B, .ffma, 6, 7, 0xE0, 0), (0x2C, .ffma3, 6, 7, 0xA0, 0), (0x3B, .frint, 0, 0, 0xB0, 0),
      (0x40, .padd, 6, 0, 0x10, 0), (0x41, .psub, 6, 0, 1, 0), (0x42, .pmul, 6, 0, 2, 0), (0x43, .pfma, 6, 7, 0xC6, 0),
      (0x44, .pmin, 6, 0, 3, 0), (0x45, .pmax, 6, 0, 4, 0), (0x46, .pabs, 0, 0, 5, 0), (0x47, .pneg, 0, 0, 7, 0),
      (0x48, .pshl, 6, 0, 0x12, 0), (0x49, .pshr, 6, 0, 1, 0), (0x4A, .psar, 6, 0, 2, 0), (0x4B, .pavg, 6, 0, 3, 0),
      (0x4C, .pcmp, 6, 0, 4, 5), (0x4D, .pdot, 6, 7, 0x14, 0), (0x4E, .psad, 6, 7, 1, 0), (0x50, .cvt, 0, 0, 0x80, 0x2B40),
      (0x51, .pack, 6, 0, 2, 2), (0x52, .unpk, 0, 0, 3, 3), (0x53, .qblk, 0, 0, 0x80, 2), (0x54, .dqblk, 0, 0, 0xE0, 1),
      (0x58, .shfl, 6, 7, 0, 4), (0x59, .shflx, 6, 7, 0, 1), (0x5A, .shflu, 6, 7, 0, 2), (0x5B, .shfld, 6, 7, 0, 3),
      (0x5D, .scan, 0, 0, 0x80, 0x7C)] : List (Nat × (LqForm → Instr) × Nat × Nat × Nat × Nat)),
    decodesTo [lWord p.1 4 5 (BitVec.ofNat 8 p.2.2.1), lqExt (BitVec.ofNat 8 p.2.2.2.1) (BitVec.ofNat 8 p.2.2.2.2.1)
        (BitVec.ofNat 16 p.2.2.2.2.2)]
      (p.2.1 { s := false, d := 4, a := 5, b := BitVec.ofNat 8 p.2.2.1, c := BitVec.ofNat 8 p.2.2.2.1
               mod := BitVec.ofNat 8 p.2.2.2.2.1, imm := BitVec.ofNat 16 p.2.2.2.2.2, lit := 0 }) = true
    ∨ p.1 = 0x22 := by decide +kernel

/-- `LREAD` has no A (R139). -/
theorem test_decode_lread : decodesTo [lWord 0x22 4 0 0, lqExt 0 0 3]
    (.lread { s := false, d := 4, a := 0, b := 0, c := 0, mod := 0, imm := 3, lit := 0 }) = true := by decide +kernel

/-- R67: a literal follows the extension word. -/
theorem test_decode_literal : decodesTo [lWord 0x06 4 5 255, lqExt 7 0 0, 0x12345678]
    (.imad { s := false, d := 4, a := 5, b := 255, c := 7, mod := 0, imm := 0, lit := 0x12345678 }) = true := by decide +kernel

/-- R72, format LM: SCOPE, ORDER, XS, SIZE, SX, DISP. -/
theorem test_decode_lm : ∀ p ∈ ([(0x60, .ld), (0x61, .ldx), (0x62, .st), (0x63, .xchg), (0x64, .ldblk), (0x65, .stblk),
      (0x66, .atom), (0x67, .acas), (0x68, .acc), (0x69, .pfetch), (0x70, .lds), (0x71, .sts), (0x72, .xchgs), (0x73, .atoms),
      (0x74, .ldf), (0x75, .ldsx)] : List (Nat × (LmForm → Instr))),
    decodesTo [lWord p.1 0 3 140, 5#3 ++ 1#3 ++ 2#2 ++ 3#3 ++ 0#1 ++ 0x0FFFF#20]
      (p.2 { s := false, d := 0, a := 3, b := 140, scope := 5, order := 1, xs := 2, size := 3, sx := false, disp := 0x0FFFF }) = true
    ∨ (p.1 = 0x66 ∨ p.1 = 0x68 ∨ p.1 = 0x73) ∧ decodesTo [lWord p.1 0 3 140, 5#3 ++ 1#3 ++ 2#2 ++ 3#3 ++ 0#1 ++ 0x1FFFE#20]
      (p.2 { s := false, d := 0, a := 3, b := 140, scope := 5, order := 1, xs := 2, size := 3, sx := false, disp := 0x1FFFE })
        = true := by decide +kernel

/-- R73, format U: three codes, two codes, and those with fewer. -/
theorem test_decode_u : (∀ p ∈ ([(0x00, .uadd), (0x01, .usub), (0x02, .umul), (0x03, .umulh), (0x04, .uand), (0x05, .uor), (0x06, .uxor),
      (0x08, .ushl), (0x09, .ushr), (0x0A, .usar), (0x0B, .urol), (0x0C, .umin), (0x0D, .umax), (0x14, .uadd64), (0x25, .wrlane)] :
      List (Nat × (UForm → Instr))), decodesTo [uWord p.1 20 12 14] (p.2 { s := false, d := 20, a := 12, b := 14 }) = true)
    ∧ (∀ p ∈ ([(0x07, .unot), (0x0E, .umov), (0x0F, .uswap), (0x15, .umov64), (0x22, .mballot), (0x23, .vote), (0x24, .rdlane)] :
      List (Nat × (UForm → Instr))), decodesTo [uWord p.1 20 12 0] (p.2 { s := false, d := 20, a := 12, b := 0 }) = true)
    ∧ (∀ p ∈ ([(0x17, .nop), (0x1C, .ret), (0x20, .regang), (0x21, .exit), (0x30, .commit), (0x35, .tend), (0x36, .tjoin)] :
      List (Nat × (UForm → Instr))), decodesTo [uWord p.1 0 0 0] (p.2 { s := false, d := 0, a := 0, b := 0 }) = true)
    ∧ (∀ p ∈ ([(0x1D, .jmpr), (0x31, .rewind), (0x32, .hpush)] : List (Nat × (UForm → Instr))),
      decodesTo [uWord p.1 0 12 0] (p.2 { s := false, d := 0, a := 12, b := 0 }) = true)
    ∧ decodesTo [uWord 0x33 20 0 0] (.hpop { s := false, d := 20, a := 0, b := 0 }) = true
    ∧ decodesTo [uWord 0x37 20 0 0] (.tclaim { s := false, d := 20, a := 0, b := 0 }) = true
    ∧ decodesTo [uWord 0x3B 3 0 0] (.znew { s := false, d := 3, a := 0, b := 0 }) = true
    ∧ decodesTo [uWord 0x2C 0 0 0x1D] (.fence { s := false, d := 0, a := 0, b := 0x1D }) = true
    ∧ decodesTo [uWord 0x2D 0 63 14] (.waitc { s := false, d := 0, a := 63, b := 14 }) = true
    ∧ decodesTo [uWord 0x2E 5 12 14] (.waitk { s := false, d := 5, a := 12, b := 14 }) = true := by decide +kernel

/-- R73, formats UI and UB. -/
theorem test_decode_ui_ub :
    (∀ p ∈ ([(0x10, .uaddi), (0x11, .umovi), (0x12, .umovh), (0x13, .uxori)] : List (Nat × (UiForm → Instr))),
      decodesTo [1#1 ++ 1#1 ++ BitVec.ofNat 6 p.1 ++ 20#8 ++ 0x8001#16] (p.2 { s := true, d := 20, imm := 0x8001 }) = true)
    ∧ decodesTo [1#1 ++ 0#1 ++ 0x3E#6 ++ 0#8 ++ 0x8001#16] (.trap { s := false, d := 0, imm := 0x8001 }) = true
    ∧ (∀ p ∈ ([(0x18, .br), (0x1B, .call)] : List (Nat × (UbForm → Instr))),
      decodesTo [1#1 ++ 0#1 ++ BitVec.ofNat 6 p.1 ++ 0x800001#24] (p.2 { s := false, off := 0x800001 }) = true)
    ∧ ∀ p ∈ ([(0x19, .brz), (0x1A, .brnz), (0x1E, .brl), (0x1F, .brlz)] : List (Nat × (UcForm → Instr))),
      decodesTo [1#1 ++ 0#1 ++ BitVec.ofNat 6 p.1 ++ 10#8 ++ 0x8001#16] (p.2 { s := false, reg := 10, off := 0x8001 }) = true := by
  decide +kernel

/-- R73, format UE, each with an extension word that it allows. -/
theorem test_decode_ue : ∀ p ∈ ([(0x16, .ucmp, 20, 12, 14, 0xB8000000), (0x26, .uld, 20, 12, 0, 0x400000),
      (0x27, .ust, 20, 12, 0, 0x400000), (0x28, .bar, 20, 12, 14, 0x2000000), (0x29, .bara, 20, 12, 0, 0x20000000),
      (0x2A, .waitq, 20, 12, 0, 0x80000000), (0x2B, .wake, 20, 12, 14, 0xA0000000), (0x2F, .uatom, 20, 12, 14, 0x400000),
      (0x34, .spawn, 0, 8, 0, 0xFFFFFF), (0x38, .qpost, 20, 10, 12, 0x80FFFFFF), (0x39, .copy, 20, 32, 60, 0),
      (0x3A, .mma, 3, 8, 12, 0), (0x3C, .zrd, 8, 3, 0, 7), (0x3D, .coll, 0, 12, 10, 0)] :
      List (Nat × (UeForm → Instr) × Nat × Nat × Nat × Nat)),
    decodesTo [uWord p.1 (BitVec.ofNat 8 p.2.2.1) (BitVec.ofNat 8 p.2.2.2.1) (BitVec.ofNat 8 p.2.2.2.2.1), BitVec.ofNat 32 p.2.2.2.2.2]
      (p.2.1 { s := false, d := BitVec.ofNat 8 p.2.2.1, a := BitVec.ofNat 8 p.2.2.2.1, b := BitVec.ofNat 8 p.2.2.2.2.1
               ext := BitVec.ofNat 32 p.2.2.2.2.2 }) = true := by decide +kernel

/-- R74, format UX: XOP8 in bits 31:24 of the extension word. -/
theorem test_decode_ux : ∀ p ∈ ([(0x00, .usel, 20, 12, 14, 0x0A0000), (0x01, .ubfe, 20, 12, 0, 0x0D10), (0x02, .ubfi, 20, 12, 14, 0x0D20),
      (0x03, .upopc, 20, 12, 0, 0), (0x04, .uclz, 20, 12, 0, 0), (0x05, .uxchg, 20, 12, 0, 4), (0x06, .uacas, 20, 12, 14, 4),
      (0x07, .rflush, 0, 0, 0, 0), (0x08, .yield, 0, 10, 11, 15), (0x09, .snap, 0, 0, 0, 0xFFFF), (0x0A, .tmark, 0, 10, 0, 0xFFFF),
      (0x0B, .dbrk, 0, 0, 0, 0xFFFF), (0x0C, .leave, 0, 0, 0, 4), (0x0D, .zst, 20, 3, 0, 0x300100), (0x0E, .zclr, 3, 0, 0, 0),
      (0x0F, .gather, 20, 32, 60, 0x2C00), (0x10, .rewindt, 0, 12, 0, 0), (0x11, .laychk, 0, 32, 0, 0), (0x12, .bari, 20, 12, 11, 0),
      (0x13, .qstat, 20, 0, 0, 7), (0x14, .tret, 0, 0, 0, 0), (0x15, .twait, 20, 12, 0, 0)] :
      List (Nat × (UxForm → Instr) × Nat × Nat × Nat × Nat)),
    decodesTo [uWord 0x3F (BitVec.ofNat 8 p.2.2.1) (BitVec.ofNat 8 p.2.2.2.1) (BitVec.ofNat 8 p.2.2.2.2.1),
        BitVec.ofNat 8 p.1 ++ BitVec.ofNat 24 p.2.2.2.2.2]
      (p.2.1 { s := false, d := BitVec.ofNat 8 p.2.2.1, a := BitVec.ofNat 8 p.2.2.2.1, b := BitVec.ofNat 8 p.2.2.2.2.1
               ext := BitVec.ofNat 24 p.2.2.2.2.2 }) = true := by decide +kernel

/-! ### WellFormed refuses -/

/-- An event, an operand code that names nothing, a field value never allowed, a set reserved bit, a literal without B = 255. -/
theorem test_ill_formed : (Instr.reset).wellFormed = false
    ∧ (Instr.iadd { s := false, d := 4, a := 5, b := 248, lit := 0 }).wellFormed = false
    ∧ (Instr.umov64 { s := false, d := 10, a := 13, b := 0 }).wellFormed = false
    ∧ (Instr.bfe { s := false, d := 4, a := 5, b := 0, c := 0, mod := 0, imm := 0, lit := 0 }).wellFormed = false
    ∧ (Instr.inot { s := false, d := 4, a := 5, b := 1, lit := 0 }).wellFormed = false
    ∧ (Instr.iadd { s := false, d := 4, a := 5, b := 6, lit := 1 }).wellFormed = false := by decide +kernel

/-! ### Words that the spec's examples give -/

/-- 05 R128 and its worked example, 09 R204, 12 R277, R291, 16 R345, R348, R351, R352, R356, 09's worked example. -/
theorem test_words :
    decodesTo [0x00C18308] (.imul { s := false, d := 3, a := 3, b := 8, lit := 0 }) = true
    ∧ decodesTo [0x0AC08203, 0x04A00000] (.ffma { s := false, d := 1, a := 2, b := 3, c := 4, mod := 0xA0, imm := 0, lit := 0 }) = true
    ∧ decodesTo [0x9E050003] (.brl { s := false, reg := 5, off := 3 }) = true
    ∧ decodesTo [0x19820288, 0x66400000]
        (.atom { s := false, d := 4, a := 2, b := 136, scope := 3, order := 1, xs := 2, size := 2, sx := false, disp := 0 }) = true
    ∧ decodesTo [0xA81E1400, 0x80000000] (.bar { s := false, d := 30, a := 20, b := 0, ext := 0x80000000 }) = true
    ∧ decodesTo [0xB91E0820, 0x94480000] (.copy { s := false, d := 30, a := 8, b := 32, ext := 0x94480000 }) = true
    ∧ decodesTo [0xBA011028, 0x50000000] (.mma { s := false, d := 1, a := 16, b := 40, ext := 0x50000000 }) = true
    ∧ decodesTo [0xBC180100, 5] (.zrd { s := false, d := 24, a := 1, b := 0, ext := 5 }) = true
    ∧ decodesTo [0xBF320000, 0x0D100080] (.zst { s := false, d := 50, a := 0, b := 0, ext := 0x100080 }) = true
    ∧ decodesTo [0xAE041416] (.waitk { s := false, d := 4, a := 20, b := 22 }) = true
    ∧ decodesTo [0x20000009] (.qpush { s := false, d := 0, a := 0, b := 9, lit := 0 }) = true
    ∧ decodesTo [0x20450000] (.qpop { s := false, d := 10, a := 0, b := 0, lit := 0 }) = true
    ∧ decodesTo [0xBF1E0000, 0x13000000] (.qstat { s := false, d := 30, a := 0, b := 0, ext := 0 }) = true := by decide +kernel

/-! ### One step; the expected values are the spec's, or worked out by hand from its rules -/

/-- Ready, with `v5`, `v6` and `v7` alike in all lanes. -/
def with567 (i : Instr) (a b c : Word) : State := (ready i).setCo fun k =>
  { k with v := ((k.v.set 5 (List.replicate 96 a)).set 6 (List.replicate 96 b)).set 7 (List.replicate 96 c) }

/-- Lane 0 of v4 after an instruction. -/
def lane0 (i : Instr) (a b c : Word) : Word := (after i (with567 i a b c)).co.vlane 4 0

/-- R120: wrap, high half, shift by 32, saturation. -/
theorem test_lane_integer : lane0 (l .iadd) 0xFFFFFFFF 2 0 = 1 ∧ lane0 (l .imulh) 0xFFFFFFFF 2 0 = 0xFFFFFFFF
    ∧ lane0 (l .laneUmulh) 0xFFFFFFFF 2 0 = 1 ∧ lane0 (l .shl) 1 32 0 = 0 ∧ lane0 (l .sar) 0x80000000 40 0 = 0xFFFFFFFF
    ∧ lane0 (l .iadds) 0x7FFFFFFF 1 0 = 0x7FFFFFFF ∧ lane0 (l .isubs) 0x80000000 1 0 = 0x80000000
    ∧ lane0 (l .rol) 0x80000001 1 0 = 3 := by decide +kernel

/-- R122, R124, R126: bits 4 to 11 sign-extended; an unsigned compare; a selection. -/
theorem test_lane_bits : lane0 (qf .bfe 5 0 0 0 0x2110) 0xF80 0 0 = 0xFFFFFFF8 ∧ lane0 (q .sel 0 0) 1 2 0 = 2
    ∧ lane0 (q .sel 0 0) 1 2 9 = 1 := by decide +kernel

/-- R127: 1.5 + 2.25 = 3.75; 3 × 3 + 1 = 10; 1 / 0 raises DZ and gives infinity when it lands. -/
theorem test_lane_float : lane0 (l .fadd) 0x3FC00000 0x40100000 0 = 0x40700000
    ∧ lane0 (q .ffma 0 0) 0x40400000 0x40400000 0x3F800000 = 0x41200000
    ∧ (after (l .fdiv) (with567 (l .fdiv) 0x3F800000 0 0)).co.st.outst.map (fun o => o.dests.map fun d => match d with
        | .v n _ ws => (n, wordAt ws 0)
        | _ => (0, 0)) = [[(4, 0x7F800000)]] := by decide +kernel

/-- R131: `.i8` bytes that saturate; R133: four products of `.i8`. -/
theorem test_lane_packed : lane0 (qf .padd 5 6 0 0x12 0) 0x7F800102 0x01FF0101 0 = 0x7F800203
    ∧ lane0 (qf .pdot 5 6 7 2 0) 0x01020304 0x01010101 5 = 15 := by decide +kernel

/-- 02, the worked T8 beat: scale 0x81, codes 0x64, 0xB8, 0x0A. -/
theorem test_qblk :
    let i := qf .qblk 5 0 0 0 0
    let s := (ready i).setCo fun k => { k with
      v := k.v.set 5 ([0x41C00000, 0xC0400000, 0x3DCCCCCD] ++ List.replicate 93 0), st := { k.st with mask := 0xFFFFFFFF } }
    (List.range 4).map ((after i s).co.vlane 4) = [0x8164, 0x81B8, 0x810A, 0x8100] := by decide +kernel

/-- 05, the worked SCAN tree: 16,777,218.0 in lanes 2 and 3. -/
theorem test_scan :
    let i := qf .scan 5 0 0 0 0x09
    let s := (ready i).setCo fun k => { k with
      v := k.v.set 5 ([0x4B800000, 0x3F800000, 0x3F800000, 0x3F800000] ++ List.replicate 92 0), st := { k.st with mask := 15 } }
    (List.range 4).map ((after i s).co.vlane 4) = [0x4B800000, 0x4B800000, 0x4B800001, 0x4B800001] := by decide +kernel

/-- 05, the worked example of `IMUL`: the six lanes that lose bits push their old values. -/
theorem test_imul_record :
    let i : Instr := .imul { s := false, d := 3, a := 3, b := 8, lit := 0 }
    let s := (unmarked i).setCo fun k => { k with
      v := (k.v.set 3 (List.replicate 96 5)).set 8 ((List.range 96).map fun n => if n ∈ [10, 11, 40, 41, 80, 81] then 2 else 3)
      st := { k.st with mask := BitVec.allOnes 96 } }
    ((after i s).co.whey.map fun r => match r.body with
      | .lane n m ws => (n, lanesOf m, ws)
      | _ => (0, [], [])) = [(3, [10, 11, 40, 41, 80, 81], [5, 5, 5, 5, 5, 5])]
    ∧ (after i s).co.vlane 3 0 = 15 ∧ (after i s).co.wheyt = 44 := by decide +kernel

/-- 12, the worked example: three lanes add 1, 2 and 4 to a word that holds 10. -/
theorem test_atom :
    let i : Instr := .atom { s := false, d := 4, a := 2, b := 136, scope := 3, order := 1, xs := 2, size := 2, sx := false, disp := 0 }
    let s := (noTargets (object i [⟨0, 10⟩] [])).setCo fun k => { k with
      v := k.v.set 4 ([1, 2, 4] ++ List.replicate 93 0), st := { k.st with mask := 7 } }
    (after i s).homeWord 0 = 17
    ∧ (after i s).co.st.outst.map (fun o => o.dests.map fun d => match d with
        | .v n m ws => (n, lanesOf m, ws.take 3)
        | _ => (0, [], [])) = [[(4, [0, 1, 2], [10, 11, 13])]]
    ∧ (after i s).co.wheyt = 104 := by decide +kernel

/-- 09, the worked pop: valid lanes outside the mask set the queue's bit of `%qdrop`. -/
theorem test_qpop :
    let s := ofBlock (ready qpopI) fun b => { b with queues := [[⟨List.replicate 96 9, BitVec.allOnes 96⟩, entry1], [], [], []] }
    (after qpopI s).co.qdrop = 1 ∧ (after qpopI s).qstat 0 = 0x00020301 := by decide +kernel

/-- 12, the worked phase: three store arrivals, a fourth too many, then the second cohort. -/
theorem test_barrier_phase :
    let o : BarObj := { carr := 1, cexp := 2, sarr := 3, sexp := 3, phase := false, ovr := false, bad := false }
    o.storeArrive = ({ o with ovr := true }, none)
    ∧ ({ o with ovr := true } : BarObj).cohortArrive
      = .ok ({ o with carr := 0, sarr := 0, phase := true }, some 3) := ⟨by decide, rfl⟩

/-- R94, R98: a carry into the high half; the upper immediate keeps the low half; a signed 64-bit compare. -/
theorem test_uniform :
    (let i := u .uadd64 20 10 12
     let s := withRegs i [0xFFFFFFFF, 1, 1, 0] []
     wordAt (after i s).co.s 20 = 0 ∧ wordAt (after i s).co.s 21 = 2)
    ∧ (let i : Instr := .umovh { s := false, d := 10, imm := 0x1234 }
       wordAt (after i (withRegs i [0xAAAA5678] [])).co.s 10 = 0x12345678)
    ∧ (let i : Instr := .uaddi { s := false, d := 10, imm := 0xFFFF }
       wordAt (after i (withRegs i [3] [])).co.s 10 = 2) := by decide +kernel

/-- R102, R104, R113: a branch backwards, a call's link, and a trap's entry. -/
theorem test_control :
    (after br0 r0).co.st.pc = 0x400008
    ∧ (let i : Instr := .call { s := false, off := 0 }
       (after i (ready i)).co.link = 0x40000C ∧ (after i (ready i)).co.st.pc = 0x400008)
    ∧ ((after trapI (handled (unmarked trapI))).co.cause = 6 ∧ (after trapI (handled (unmarked trapI))).co.tinfo = 0xFFFF
      ∧ (after trapI (handled (unmarked trapI))).co.tpc = 0x40000C ∧ (after trapI (handled (unmarked trapI))).co.st.pc = 0x400008) := by
  decide +kernel

/-- R72: the all-zero word raises cause 0x01. -/
theorem test_zero_word : (after (.illegalInstruction 0 0) (handled r0)).co.cause = 1
    ∧ (after (.illegalInstruction 0 0) (handled r0)).co.tinfo = 0 := by decide +kernel

/-- R160: half of two lanes branch; a child gets the others. -/
theorem test_split : let i := uc .brl 5
    ((after i (both [1, 0])).co.strands.map fun t => (t.id, t.mask)) = [(0, 1), (1, 2)] := by decide +kernel

/-- 12 R273, R274: four bytes stored are four bytes loaded, in one order. -/
theorem test_store_load :
    let i := lm .st 140 2 0 0
    let s := (object i [] []).setCo fun k => { k with v := k.v.set 8 (List.replicate 96 0x04030201) }
    (((after i s).core 0).l1Find 0).map (·.val) = some 0x04030201 := by decide +kernel

/-! ### Rules of single instructions -/

/-- An instruction in its state, with a record to push and a successor that is no marked target. -/
def plain (i : Instr) : Bool :=
  clear i (unmarked i) && roomy (unmarked i) (unmarked i) 428 && !(unmarked i).co.special && (unmarked i).co.st.mask != 0
    && !(unmarked i).markedTarget ((unmarked i).after i)

/-- A reserved field is set, and no operand is at fault. -/
def strays (i : Instr) : Bool :=
  !(ready i).modeBad i && !i.badValue && i.operands.all (ready i).co.operandOk && !i.reservedOk

theorem strays_ok {i : Instr} (h : strays i = true) : ¬ operandFault (ready i) i ∧ i.reservedOk = false := by
  simp only [strays, Bool.and_eq_true, Bool.not_eq_true', List.all_eq_true] at h
  refine ⟨?_, h.2⟩
  rintro (g | g | ⟨o, m, g⟩)
  · rw [h.1.1.1] at g; cases g
  · rw [h.1.1.2] at g; cases g
  · rw [h.1.2 o m] at g; cases g

/-- BitFields, IntegerCompare, LanePosition, Shuffles, BytePick, NoOperation, SelectMoveSwap: instructions that complete, at
the ends of their fields' ranges. -/
theorem witness_rules_complete : ∀ i ∈ [qf .bfe 5 0 0 0 0x0400, qf .bfe 5 0 0 0 0xF830, qf .bfi 5 6 0 0 0x0400, qf .bfi 5 6 0 0 0xF820,
      qf .icmp 5 6 0 0 0, qf .icmp 5 6 0 11 0, qf .lread 0 0 0 0 0, qf .lread 0 0 0 0 1, qf .lread 0 0 0 0 2, qf .lread 0 0 0 0 3,
      q .shfl 0 0, q .shfl 0 4, q .shflx 0 4, q .shflu 0 4, q .shfld 0 4, q .bpick 0 0, u .nop 0 0 0, q .sel 0 0,
      .mov { s := false, d := 4, a := 0, b := 255, lit := 1 }, .swap { s := false, d := 4, a := 4, b := 0, lit := 0 }],
    (unmarked i).Clear i ∧ (unmarked i).Room (unmarked i) 428 ∧ (unmarked i).co.special = false ∧ (unmarked i).co.st.mask ≠ 0
      ∧ (unmarked i).markedTarget ((unmarked i).after i) = false := by
  have h : ∀ i ∈ [qf .bfe 5 0 0 0 0x0400, qf .bfe 5 0 0 0 0xF830, qf .bfi 5 6 0 0 0x0400, qf .bfi 5 6 0 0 0xF820,
      qf .icmp 5 6 0 0 0, qf .icmp 5 6 0 11 0, qf .lread 0 0 0 0 0, qf .lread 0 0 0 0 1, qf .lread 0 0 0 0 2, qf .lread 0 0 0 0 3,
      q .shfl 0 0, q .shfl 0 4, q .shflx 0 4, q .shflu 0 4, q .shfld 0 4, q .bpick 0 0, u .nop 0 0 0, q .sel 0 0,
      .mov { s := false, d := 4, a := 0, b := 255, lit := 1 }, .swap { s := false, d := 4, a := 4, b := 0, lit := 0 }],
    plain i = true := by decide +kernel
  intro i m
  have := h i m
  simp only [plain, Bool.and_eq_true, Bool.not_eq_true', bne_iff_ne] at this
  exact ⟨clear_ok this.1.1.1.1, roomy_ok this.1.1.1.2, this.1.1.2, this.1.2, this.2⟩

/-- The same rules: instructions with a reserved field or code, at the first value that is refused. -/
theorem witness_rules_refuse : ∀ i ∈ [qf .bfe 5 0 0 0 0x0401, qf .bfe 5 1 0 0 0x0400, qf .bfi 5 6 0 0 0x0401, qf .bfi 5 6 0 0 0x0410,
      qf .icmp 5 6 0 12 0, qf .icmp 5 6 0 16 0, qf .lread 0 0 0 0 4, qf .lread 1 0 0 0 0, qf .lread 0 1 0 0 0, qf .lread 0 0 1 0 0,
      qf .lread 0 0 0 1 0, q .shfl 0 5, q .shflx 0 8, q .shflu 1 0, q .shfld 0 7, q .bpick 1 0, q .bpick 0 1, u .nop 0 0 1],
    ¬ operandFault (ready i) i ∧ i.reservedOk = false := by
  have h : ∀ i ∈ [qf .bfe 5 0 0 0 0x0401, qf .bfe 5 1 0 0 0x0400, qf .bfi 5 6 0 0 0x0401, qf .bfi 5 6 0 0 0x0410,
      qf .icmp 5 6 0 12 0, qf .icmp 5 6 0 16 0, qf .lread 0 0 0 0 4, qf .lread 1 0 0 0 0, qf .lread 0 1 0 0 0, qf .lread 0 0 1 0 0,
      qf .lread 0 0 0 1 0, q .shfl 0 5, q .shflx 0 8, q .shflu 1 0, q .shfld 0 7, q .bpick 1 0, q .bpick 0 1, u .nop 0 0 1],
    strays i = true := by decide +kernel
  exact fun i m => strays_ok (h i m)

/-- BitFields: lengths and positions that raise cause 0x01; NoOperation: the settle marker with a result outstanding. -/
theorem witness_rules_others : (qf .bfe 5 0 0 0 0).badValue = true ∧ (qf .bfi 5 6 0 0 0x0420).badValue = true
    ∧ (qf .bfe 5 0 0 0 0x0C00).badValue = true
    ∧ (pendingV4 (.nop { s := true, d := 0, a := 0, b := 0 })).co.st.outst ≠ [] := by decide +kernel

/-- `BFE` of bits 31:28 with sign extension, `BPICK` of byte 3 of B reversed into byte 0, `ICMP` unsigned at the sign bit
(05 R122, R124, R139). -/
theorem test_fields : bfeW 28 4 true 0xA0000000 = 0xFFFFFFFA ∧ bpickW 0 0x01000000 0x0000001F = 0x00000080
    ∧ bpickW 0x44332211 0x88776655 0x00010203 = 0x11223344 ∧ condHolds 6 1 0x80000000 = true
    ∧ condHolds 2 1 0x80000000 = false := by decide

/-- 19 R383: a load of a scratchpad unit that is poisoned meets cause 0x0B, late; a write that covers a unit whole clears
it. -/
theorem test_poison :
    (let i := lm .lds 140 2 0 0
     ((after i ((memReady i).modCore 0 fun c => { c with spBad := [0] })).co.st.late.map (·.code)) = some 0x0B)
    ∧ (((r0.modCore 0 fun c => { c with spBad := [0, 1] }).spWrite 0 ((List.range 8).map fun a => (a, 1))).core 0).spBad
        = [1] := by decide +kernel

end Sys2Proof.Tests
end

/-! The trace of a cohort, and trap entry (01 R29). -/

namespace Sys2Proof.Machine

/-! ### Parts of the module after a change -/

theorem modifyAt_eq_modify {α : Type} (f : α → α) (l : List α) (k : Nat) : modifyAt f l k = l.modify k f := by
  induction l generalizing k with
  | nil => simp [modifyAt]
  | cons a l ih => cases k <;> simp [modifyAt, ih]

theorem State.core_modCore (s : State) (k j : Nat) (f : Core → Core) :
    (s.modCore k f).core j = if j = k ∧ k < s.cores.length then f (s.core k) else s.core j := by
  simp only [State.core, State.modCore_cores, modifyAt_eq_modify, List.getD_eq_getElem?_getD, List.getElem?_modify]
  by_cases hj : k = j
  · subst hj
    by_cases hk : k < s.cores.length <;> simp [hk]
  · simp [hj, Ne.symm hj]

/-! ### The trace -/

/-- `u` is `s` but for packets in the cores' trace streams and the count of packets since the last SYNC (20 R406, R408). -/
structure OnlyTrace (s u : State) : Prop where
  eq : u = { s with cores := u.cores, co := { s.co with sinceSync := u.co.sinceSync } }
  core : ∀ k, u.core k = { s.core k with trace := (u.core k).trace }

theorem OnlyTrace.refl (s : State) : OnlyTrace s s := ⟨rfl, fun _ => rfl⟩

theorem OnlyTrace.trans {s t u : State} (h : OnlyTrace s t) (k : OnlyTrace t u) : OnlyTrace s u := by
  refine ⟨?_, fun j => ?_⟩
  · rw [k.eq, h.eq]
  · rw [k.core j, h.core j]

theorem OnlyTrace.setSince (s : State) (n : Cohort → Nat) :
    OnlyTrace s (s.setCo fun c => { c with sinceSync := n c }) := ⟨rfl, fun _ => rfl⟩

theorem OnlyTrace.modTrace (s : State) (k : Nat) (f : Core → Trace) :
    OnlyTrace s (s.modCore k fun c => { c with trace := f c }) := by
  refine ⟨rfl, fun j => ?_⟩
  rw [State.core_modCore]
  split
  · next h => rw [h.1]
  · rfl

theorem OnlyTrace.tracePut (s : State) (k : Nat) (ws : List Word) : OnlyTrace s (s.tracePut k ws) := by
  unfold State.tracePut
  dsimp only
  split <;> exact OnlyTrace.modTrace _ _ _

theorem OnlyTrace.traceSync (s : State) : OnlyTrace s s.traceSync := by
  unfold State.traceSync
  split
  · exact (OnlyTrace.tracePut _ _ _).trans (OnlyTrace.setSince _ fun _ => 0)
  · exact OnlyTrace.refl s

theorem OnlyTrace.trace (s : State) (kind spec : Nat) (extra : List Word) : OnlyTrace s (s.trace kind spec extra) := by
  unfold State.trace
  split
  · have h := (OnlyTrace.tracePut s s.co.core (packet kind s.co.st.id spec extra)).trans
      (OnlyTrace.setSince _ fun c => c.sinceSync + 1)
    dsimp only
    split
    · exact h.trans (OnlyTrace.traceSync _)
    · exact h
  · exact OnlyTrace.refl s

/-- A cohort that is not under full trace puts no packet (20 R406). -/
theorem trace_untraced {s : State} (h : s.co.traced = false) (kind spec : Nat) (extra : List Word) :
    s.trace kind spec extra = s := by
  simp [State.trace, h]

/-! ### Trap entry -/

/-- What trap entry writes in the cohort, the handler's address given (01 R29). -/
def Cohort.entered (c : Cohort) (t : Trap) (handler : DWord) : Cohort :=
  { c with
    cause := t.word, tinfo := t.info, tpc := c.st.pc.extractLsb' 0 32, tpcWritten := false, tm := true
    trapped := c.st.id, hbase := c.wheyt, hsave := []
    st := { c.st with pc := handler.setWidth 56, park := none } }

theorem Cohort.bare_bare (c : Cohort) : c.bare.bare = c.bare := by
  simp [Cohort.bare, Function.comp_def]

theorem Cohort.bare_entered (c : Cohort) (t : Trap) (h : DWord) : (c.entered t h).bare = (c.bare.entered t h).bare := by
  simp [Cohort.bare, Cohort.entered, Cohort.wheyt, Function.comp_def]

theorem Cohort.bare_pass (c : Cohort) : c.pass.bare = c.bare := by
  simp [Cohort.bare, Cohort.pass, Cohort.mapStrands, Function.comp_def]

theorem WroteWhey.onlyMem {s p u : State} (h : WroteWhey s p u) : OnlyMem p u := by
  obtain rfl | ⟨bs, -, h⟩ := h
  · exact OnlyMem.refl _
  · exact vaStore_onlyMem h

/-- The write-back before a trap entry that meets no obstacle (01 R15, R29). -/
theorem State.CanTrap.flush {s : State} (h : s.CanTrap) : ∃ u v, s.wheyFlush 0 = .ok u ∧ WroteWhey s s v
    ∧ u = { v with co := u.co } ∧ u.co.bare = s.co.bare ∧ s.co.wheyt ≤ u.co.wheyWb := by
  unfold State.wheyFlush
  dsimp only
  split
  · next hle => exact ⟨s, s, rfl, .inl rfl, rfl, rfl, by omega⟩
  · next hdue =>
    obtain hle | ⟨hsz, htr⟩ := h.writeBack
    · omega
    generalize hbs : List.take _ _ = bs
    have hlen : bs.length ≤ s.co.wheyt - 0 - s.co.wheyWb := hbs ▸ List.length_take_le _ _
    have hreg : s.co.wheyWb + bs.length ≤ 2 ^ s.co.szl := by omega
    obtain ⟨v, hv⟩ := vaStore_ok (core := s.co.core) (htr s.co.wheyWb bs.length hreg)
    rw [hv]
    refine ⟨_, v, rfl, .inr ⟨bs, hreg, hv⟩, rfl, ?_, ?_⟩
    · rw [State.setCo_co, (vaStore_onlyMem hv).co]
      exact Cohort.bare_pass s.co
    · simp [State.setCo]

theorem State.pinned_of_launches {s u : State} (h : u.launches = s.launches) (l : Nat) (va : DWord) :
    u.pinned l va = s.pinned l va := by
  simp [State.pinned, State.launch?, h]

theorem pairOf_getLsbD (h l : Word) (i : Nat) :
    (pairOf h l).getLsbD i = if i < 32 then l.getLsbD i else h.getLsbD (i - 32) :=
  BitVec.getLsbD_append

/-- An address in a strand's code window passes the check of the window (01 R8). -/
theorem inWindow_pairOf (pc : BitVec 56) (l : Word) :
    ((pairOf ((pc.extractLsb' 32 24).setWidth 32) l).extractLsb' 56 8 != 0
      || (pairOf ((pc.extractLsb' 32 24).setWidth 32) l).extractLsb' 32 24 != pc.extractLsb' 32 24) = false := by
  rw [Bool.or_eq_false_iff, bne_eq_false_iff_eq, bne_eq_false_iff_eq]
  constructor <;> apply BitVec.eq_of_getLsbD_eq <;> intro i hi <;>
    simp only [BitVec.getLsbD_extractLsb', pairOf_getLsbD, BitVec.getLsbD_setWidth, hi, decide_true, Bool.true_and]
  · simp [show ¬ 56 + i < 32 by omega, show ¬ 56 + i - 32 < 24 by omega]
  · simp [show 32 + i - 32 = i by omega, hi, show i < 32 by omega]

/-- The handler's line passes the checks of an arrival (03 R61). -/
theorem State.handlerArrival {s : State} {ws : List Word} (hp : s.pinned s.co.launch (lineOf s.handlerAddr) = some ws)
    (hl : lineCheck ws s.handlerAddr false false = .ok) : s.checkArrival s.handlerAddr false false = .ok := by
  unfold State.checkArrival
  rw [hp, State.handlerAddr, inWindow_pairOf]
  exact hl

/-- A line that passes the checks of an arrival needs no fill. -/
theorem State.filledFor_of_ok {s : State} {va : DWord} (h : s.checkArrival va false false = .ok) : s.filledFor va = s := by
  simp [State.filledFor, h]

/-- What trap entry reads of a cohort, its bare fields hold. -/
theorem sameBare_fields {s u : State} (h : u.co.bare = s.co.bare) :
    u.co.launch = s.co.launch ∧ u.handlerAddr = s.handlerAddr := by
  have hl : u.co.bare.launch = s.co.bare.launch := by rw [h]
  have hpc : u.co.bare.st.pc = s.co.bare.st.pc := by rw [h]
  have hh : u.co.bare.handler = s.co.bare.handler := by rw [h]
  simp only [Cohort.bare] at hl hpc hh
  exact ⟨hl, by rw [State.handlerAddr, State.handlerAddr, hpc, hh]⟩

/-- A trap entry that meets no obstacle is made (01 R29). -/
theorem trapEntry_entered {s : State} (h : s.CanTrap) (t : Trap) : Entered s (s.trapEntry t) t := by
  obtain ⟨u, v, hu, hv, huv, hbare, hwb⟩ := h.flush
  obtain ⟨ws, hp, hl⟩ := h.line
  obtain ⟨hlaunch, hhandler⟩ := sameBare_fields hbare
  have hlaunches : u.launches = s.launches := by rw [huv, hv.onlyMem.eq]
  have harr : u.checkArrival u.handlerAddr false false = .ok := by
    refine State.handlerArrival (ws := ws) ?_ (by rwa [hhandler])
    rwa [State.pinned_of_launches hlaunches, hlaunch, hhandler]
  unfold State.trapEntry
  rw [if_neg h.handler, hu]
  dsimp only
  rw [State.filledFor_of_ok harr, harr]
  dsimp only
  generalize htr : u.trace _ _ _ = w
  have hw : OnlyTrace u w := htr ▸ OnlyTrace.trace u _ _ _
  have hwco : w.co.bare = s.co.bare := by
    rw [hw.eq]
    exact hbare
  have hco : (((w.setCo fun c =>
      { c with cause := t.word, tinfo := t.info, tpc := c.st.pc.extractLsb' 0 32, tpcWritten := false
               tm := true, trapped := c.st.id, hbase := c.wheyt, hsave := [] }).setPc w.handlerAddr).setSt
      fun st => { st with park := none }) = { w with co := w.co.entered t w.handlerAddr } := rfl
  rw [hco, (sameBare_fields hwco).2]
  refine ⟨?_, ?_, v, hv, ?_, fun k => ?_⟩
  · show (w.co.entered t s.handlerAddr).bare = (s.co.entered t s.handlerAddr).bare
    rw [Cohort.bare_entered, hwco, ← Cohort.bare_entered]
  · show s.co.wheyt ≤ w.co.wheyWb
    rw [hw.eq]
    exact hwb
  · rw [hw.eq, huv]
  · have hvu : v.core k = u.core k := by rw [huv]; rfl
    rw [hvu]
    exact hw.core k

/-- A cause raised outside trap and debug mode, where trap entry meets no obstacle, enters the trap. -/
theorem raise_entered {s : State} (h : s.CanTrap) (hd : s.co.debug = false) (htm : s.co.tm = false) (t : Trap) :
    Entered s (s.raise t) t := by
  simp only [State.raise, hd, htm, Bool.false_eq_true, if_false]
  exact trapEntry_entered h t

/-- A cause raised in trap mode, or without a handler, halts the cohort. -/
theorem raise_halts {s : State} (hd : s.co.debug = false) (h : s.co.tm = true ∨ s.co.handler = 0) (t : Trap) :
    s.raise t = s.haltTrap t := by
  cases htm : s.co.tm with
  | true => simp [State.raise, hd, htm]
  | false =>
    have hh : s.co.handler = 0 := by simpa [htm] using h
    simp [State.raise, hd, htm, State.trapEntry, hh]

/-- `%cause` of a trap as a number. -/
theorem Trap.word_toNat (t : Trap) (hc : t.code < 256) (hs : t.sub < 16) :
    t.word.toNat = t.press.toNat * 2 ^ 14 + t.walk.toNat * 2 ^ 13 + t.late.toNat * 2 ^ 12 + t.sub * 2 ^ 8 + t.code := by
  obtain ⟨code, sub, info, late, walk, press⟩ := t
  dsimp only at hc hs
  cases late <;> cases walk <;> cases press <;>
    simp only [Trap.word, BitVec.toNat_ofNat, Bool.toNat_true, Bool.toNat_false, if_true, Bool.false_eq_true, if_false] <;>
    omega

theorem getLsbD_of_toNat {n k : Nat} {x : BitVec n} {b : Bool} (h : x.toNat / 2 ^ k % 2 = b.toNat) : x.getLsbD k = b := by
  rw [BitVec.getLsbD, Nat.testBit_eq_decide_div_mod_eq, h]
  cases b <;> rfl

/-- The fields of `%cause` (01 R29). -/
theorem Trap.word_fields (t : Trap) (hc : t.code < 256) (hs : t.sub < 16) :
    (t.word.extractLsb' 0 8).toNat = t.code ∧ (t.word.extractLsb' 8 4).toNat = t.sub ∧ t.word.getLsbD 12 = t.late
      ∧ t.word.getLsbD 13 = t.walk ∧ t.word.getLsbD 14 = t.press ∧ t.word.extractLsb' 15 17 = 0 := by
  have hw := t.word_toNat hc hs
  have hl := t.late.toNat_lt
  have hk := t.walk.toNat_lt
  have hp := t.press.toNat_lt
  refine ⟨?_, ?_, ?_, ?_, ?_, BitVec.eq_of_toNat_eq ?_⟩
  · simp only [BitVec.extractLsb'_toNat, Nat.shiftRight_eq_div_pow]
    omega
  · simp only [BitVec.extractLsb'_toNat, Nat.shiftRight_eq_div_pow]
    omega
  · exact getLsbD_of_toNat (by omega)
  · exact getLsbD_of_toNat (by omega)
  · exact getLsbD_of_toNat (by omega)
  · simp only [BitVec.extractLsb'_toNat, Nat.shiftRight_eq_div_pow]
    show _ = 0
    omega

/-- Settles O20: entry is made by `raise_entered`, a halt by `raise_halts`, and `%cause` is read off as a number. -/
theorem trapEntry : Obligations.TrapEntry := by
  unfold Obligations.TrapEntry
  refine ⟨fun s t h hd htm => raise_entered h hd htm t, fun s t hd h => ?_, Trap.word_fields⟩
  rw [raise_halts hd h]
  rfl

end Sys2Proof.Machine

namespace Sys2Proof.Machine

/-! ### Issue -/

/-- An instruction that may issue and goes on in sequence ends with the outcome of its own rules. -/
theorem issueSeq_concludes {i : Instr} {s : State} (hc : s.Clear i) (act : State → Act) :
    issueSeq i act s = .next (s.conclude i (act s) (s.after i)) := by
  unfold issueSeq issue
  rw [hc.checks]
  dsimp only
  rcases hc.successor with h | h
  · rw [if_pos h]
    rfl
  · rw [h]
    split <;> rfl

/-- An instruction that decides itself where control goes ends with the outcome of its own rules. -/
theorem issue_own {i : Instr} {next : State → Next} {s : State} (hc : s.decodeChecks i = none) (hn : next s = .own)
    (act : State → Act) : issue i next act s = .next (s.conclude i (act s) s.pcAddr) := by
  unfold issue
  rw [hc]
  dsimp only
  rw [hn]

/-! ### What an instruction pushes (01 R12, R14, R18) -/

/-- In trap and debug mode nothing is pushed (01 R29). -/
theorem Effect.whey_pushed_special {s : State} (h : s.co.special = true) (e : Effect) (next : DWord) :
    (e.pushed s next).whey = e.post.co.whey := by
  simp only [Effect.pushed, h, if_true, Bool.true_or, Effect.cohort]
  cases e.outst <;> dsimp only <;> split <;> rfl

/-- Outside those modes an instruction whose successor is no marked target pushes its own records. -/
theorem Effect.pushed_unmarked {s : State} {next : DWord} (hs : s.co.special = false) (hm : s.markedTarget next = false)
    (e : Effect) : e.pushed s next = e.cohort.pushRecs s.co.st.icnt.low (e.bodies s) := by
  simp [Effect.pushed, hs, hm]

theorem Effect.whey_pushed {s : State} {next : DWord} (hs : s.co.special = false) (hm : s.markedTarget next = false)
    (e : Effect) : (e.pushed s next).whey =
      ((e.bodies s).map fun b => ⟨e.post.co.st.id, s.co.st.icnt.low, b⟩).reverse ++ e.post.co.whey := by
  have hc : e.cohort.whey = e.post.co.whey ∧ e.cohort.st.id = e.post.co.st.id := by
    unfold Effect.cohort
    cases e.outst <;> dsimp only <;> split <;> exact ⟨rfl, rfl⟩
  rw [e.pushed_unmarked hs hm, Cohort.pushRecs, hc.1, hc.2]

/-- An instruction without records leaves the whey as its effect has it, in every mode. -/
theorem Effect.whey_pushed_nil {s : State} {next : DWord} {e : Effect} (hb : e.bodies s = [])
    (hm : s.markedTarget next = false) : (e.pushed s next).whey = e.post.co.whey := by
  cases hs : s.co.special with
  | true => exact e.whey_pushed_special hs next
  | false => simp [e.whey_pushed hs hm, hb]

/-- Without flags an effect's records are its own. -/
theorem Effect.bodies_of_noFlags {e : Effect} (h : e.flags = 0) (s : State) : e.bodies s = e.recs := by
  simp [Effect.bodies, h, newSticky]

theorem Effect.bytes_of_noFlags {e : Effect} (h : e.flags = 0) (s : State) : e.bytes s = bodyBytes e.recs + 16 := by
  rw [Effect.bytes, Effect.bodies_of_noFlags h]

theorem Effect.bytes_le_of_noFlags {e : Effect} (h : e.flags = 0) (s : State) {n : Nat} (hn : bodyBytes e.recs + 16 ≤ n) :
    e.bytes s ≤ n := by
  rw [Effect.bytes_of_noFlags h]
  exact hn

/-! ### Lane sets -/

theorem getLsbD_foldl_lanes (f : Nat → Bool) {j : Nat} (hj : j < 96) (l : List Nat) (m : LaneSet) :
    (l.foldl (fun m i => if f i then m ||| (1#96 <<< i) else m) m).getLsbD j
      = (m.getLsbD j || (l.contains j && f j)) := by
  induction l generalizing m with
  | nil => simp
  | cons i l ih =>
    rw [List.foldl_cons, ih]
    by_cases hij : i = j
    · subst hij
      cases f i <;> simp [hj]
    · have hb : (1#96 <<< i).getLsbD j = false := by
        simp only [BitVec.getLsbD_shiftLeft, BitVec.getLsbD_one]
        simp [hj]
        omega
      cases f i <;> simp [hb, Ne.symm hij]

theorem getLsbD_laneSetOf (f : Nat → Bool) {j : Nat} (hj : j < 96) : (laneSetOf f).getLsbD j = f j := by
  rw [laneSetOf, getLsbD_foldl_lanes f hj]
  simp [laneNums, hj]

theorem laneSetOf_getLsbD (m : LaneSet) : laneSetOf m.getLsbD = m :=
  BitVec.eq_of_getLsbD_eq fun _ hi => getLsbD_laneSetOf _ hi

theorem laneSetOf_false : laneSetOf (fun _ => false) = 0 :=
  BitVec.eq_of_getLsbD_eq fun i hi => by rw [getLsbD_laneSetOf _ hi]; simp

/-! ### The records of the lane and uniform instructions -/

/-- A lane instruction without flags completes with the whey that its records make. -/
theorem laneWrite_whey {i : Instr} {act : State → Act} {s : State} {d : Nat} {f : Nat → Word} {ci : Nat → Bool}
    (hc : s.Clear i) (hr : s.Room s 428) (ha : act s = .done (laneWrite s d (laneVals f) ci 0)) :
    ∃ t, issueSeq i act s = .next t
      ∧ t.co.whey = ((laneWrite s d (laneVals f) ci 0).pushed s (s.after i)).whey := by
  obtain ⟨t, ht, -⟩ := lanePlain_completes hc hr ha
  exact ⟨t, ht, issueSeq_whey (n := 428) hc ha ⟨rfl, rfl, rfl, rfl, rfl, rfl, rfl⟩
    (Room.ofCo hr (s.writeV d s.co.st.mask (laneVals f)).co rfl rfl) (laneWrite_bytes s d _ ci 0) (trapped_zero _) rfl ht⟩

/-- A class-D lane instruction pushes the old values of the active lanes of D (05 R118). -/
theorem laneWriteD_bodies {s : State} (hm : s.co.st.mask ≠ 0) (d : Nat) (vals : List Word) :
    (laneWriteD s d vals 0).bodies s
      = [.lane d s.co.st.mask ((lanesOf s.co.st.mask).map (s.co.vlane d))] := by
  rw [Effect.bodies_of_noFlags rfl]
  simp only [laneWriteD, laneWrite, Bool.not_false, Bool.and_true]
  rw [laneSetOf_getLsbD, laneRecs, if_neg hm]
  rfl

/-- A lane instruction that is class I in every lane pushes nothing (05 R121). -/
theorem laneWrite_bodies_classI (s : State) (d : Nat) (vals : List Word) :
    (laneWrite s d vals (fun _ => true) 0).bodies s = [] := by
  rw [Effect.bodies_of_noFlags rfl]
  simp only [laneWrite, Bool.not_true, Bool.and_false]
  rw [laneSetOf_false]
  rfl

/-- `IAND` is class D (05 R121): the effect of its own rules. -/
def iandEffect (o : LForm) (s : State) : Effect :=
  laneWriteD s o.d.toNat
    (laneVals fun k => wordAt (s.co.vreg o.a.toNat) k &&& wordAt (s.laneSrc o.b o.lit) k) 0

theorem exec_iand_eq (o : LForm) (s : State) :
    exec (.iand o) s = issueSeq (.iand o) (fun s => .done (iandEffect o s)) s := exec_iand s o

theorem iand_whey {o : LForm} {s : State} (hc : s.Clear (.iand o)) (hr : s.Room s 428) :
    ∃ t, exec (.iand o) s = .next t ∧ t.co.whey = ((iandEffect o s).pushed s (s.after (.iand o))).whey := by
  rw [exec_iand_eq]
  exact laneWrite_whey hc hr rfl

/-- `IADD` of v d and another register into v d is class I (05 R121). -/
theorem iadd_whey {o : LForm} {s : State} (hc : s.Clear (.iadd o)) (hr : s.Room s 428) (ha : o.a = o.d)
    (hb : o.b.toNat ≠ o.d.toNat) (hm : s.markedTarget (s.after (.iadd o)) = false) :
    ∃ t, exec (.iadd o) s = .next t ∧ t.co.whey = s.co.whey := by
  rw [exec_iadd]
  have hci : (fun _ : Nat => o.a == o.d && bNotD o.b o.d && true) = fun _ => true := by
    simp only [ha, bNotD, bne_iff_ne.mpr hb, beq_self_eq_true, Bool.and_self]
  obtain ⟨t, ht, hw⟩ := laneWrite_whey (f := fun k =>
      wordAt (s.co.vreg o.a.toNat) k + wordAt (s.laneSrc o.b o.lit) k) (ci := fun _ => true) (d := o.d.toNat) hc hr
    (act := fun s => .done (laneWrite s o.d.toNat (laneVals fun k =>
      wordAt (s.co.vreg o.a.toNat) k + wordAt (s.laneSrc o.b o.lit) k) (fun _ => true) 0)) rfl
  refine ⟨t, ?_, ?_⟩
  · simp only [execIadd, lane2I, hci]
    exact ht
  · rw [hw, Effect.whey_pushed_nil (laneWrite_bodies_classI s _ _) hm]
    rfl

/-- `UMOV` of another register into an s register is class D (04 R86). -/
theorem umov_whey {o : UForm} {s : State} (hc : s.Clear (.umov o)) (hr : s.Room s 428) (hs : s.co.special = false)
    (h3 : 3 ≤ o.d.toNat) (h192 : o.d.toNat < 192) (hda : o.d ≠ o.a) (hm : s.markedTarget (s.after (.umov o)) = false) :
    ∃ t, exec (.umov o) s = .next t
      ∧ t.co.whey = ⟨s.co.st.id, s.co.st.icnt.low, .uni o.d.toNat (wordAt s.co.s o.d.toNat)⟩ :: s.co.whey := by
  have hwrite : ∀ w, s.writeU o.d.toNat w = s.setCo fun c => { c with s := c.s.set o.d.toNat w } := by
    intro w
    simp [State.writeU, show ¬ o.d.toNat < 3 by omega, h192]
  have hcause : ∀ w, s.writeCause o.d.toNat w = none := by
    intro w
    unfold State.writeCause
    split
    iterate 5 · omega
    · rfl
  have hrec : s.recsU (o.d == o.a) [o.d.toNat] = [.uni o.d.toNat (wordAt s.co.s o.d.toNat)] := by
    simp [State.recsU, State.recU, hda, State.readU, show ¬ o.d.toNat < 3 by omega, h192]
  have hroom : ∀ w, s.Room (s.writeU o.d.toNat w) 36 := fun w =>
    Room.mono (Room.ofCo hr (s.writeU o.d.toNat w).co (by rw [hwrite]; rfl) (by rw [hwrite]; rfl)) (by omega)
  rw [exec_umov]
  obtain ⟨t, ht, -⟩ := uni1_completes (ci := o.d == o.a) (f := id) hc (hroom _) (hcause _)
  have ha : uniWrite (.umov o) s (o.d == o.a) [(o.d.toNat, s.readU o.a.toNat)]
      = .done { post := s.writeU o.d.toNat (s.readU o.a.toNat)
                recs := [.uni o.d.toNat (wordAt s.co.s o.d.toNat)] } := by
    simp only [uniWrite, List.findSome?_cons, List.findSome?_nil, hcause, List.map_cons, List.map_nil, hrec]
    rfl
  refine ⟨t, ht, ?_⟩
  have hk := writeU_keeps s o.d.toNat (s.readU o.a.toNat)
  rw [issueSeq_whey (n := 36) hc ha ⟨hk.whey, hk.wheyWb, hk.wheyBase, hk.core, hk.pc, hk.icnt, hk.floor⟩ (hroom _)
    (Effect.bytes_le_of_noFlags rfl s (by simp [bodyBytes, RecBody.size])) (trapped_zero _) rfl ht,
    Effect.whey_pushed hs hm,
    Effect.bodies_of_noFlags rfl, hwrite]
  rfl

/-- Settles O21: what each of the three instructions pushes follows from its class. -/
theorem recordsPushed : Obligations.RecordsPushed := by
  unfold Obligations.RecordsPushed
  refine ⟨fun o s hc hr hs hm hmask => ?_, fun o s hc hr ha hb hm => iadd_whey hc hr ha hb hm,
    fun o s hc hr hs h3 h192 hda hm => umov_whey hc hr hs h3 h192 hda hm, fun o s hc hr hs => ?_⟩
  · obtain ⟨t, ht, hw⟩ := iand_whey hc hr
    refine ⟨t, ht, ?_⟩
    rw [hw, Effect.whey_pushed hs hm, iandEffect, laneWriteD_bodies hmask]
    rfl
  · obtain ⟨t, ht, hw⟩ := iand_whey hc hr
    exact ⟨t, ht, by rw [hw, Effect.whey_pushed_special hs]; rfl⟩

/-! ### A full region (01 R17) -/

/-- An instruction whose records do not fit below LIM raises cause 0x0D with the bytes needed. -/
theorem issueSeq_regionFull {i : Instr} {act : State → Act} {s : State} {e : Effect} (hc : s.Clear i)
    (ha : act s = .done e) (hs : s.co.special = false)
    (hfull : (e.pushed s (s.after i)).lim < (e.pushed s (s.after i)).wheyt) :
    issueSeq i act s
      = .next (s.raise (trapOf 0x0D 0 (BitVec.ofNat 64 ((e.pushed s (s.after i)).wheyt - s.co.wheyt)))) := by
  obtain ⟨d, hd, -⟩ := logTime_eq e.post i
  have hp : ({ e with post := e.post.logTime i } : Effect).pushed s (s.after i) = e.pushed s (s.after i) := by
    rw [hd]
    rfl
  rw [issueSeq_concludes hc, ha]
  simp only [State.conclude, State.complete, State.tryComplete, hp, hs, Bool.not_false, Bool.true_and, hfull, decide_true,
    if_true]

/-- Settles O23: the records of `IAND` are those of its active lanes. -/
theorem regionFull : Obligations.RegionFull := by
  unfold Obligations.RegionFull
  intro o s hc hs hmask hm hlim
  have hp : (iandEffect o s).pushed s (s.after (.iand o)) = (iandEffect o s).cohort.pushRecs s.co.st.icnt.low
      [.lane o.d.toNat s.co.st.mask ((lanesOf s.co.st.mask).map (s.co.vlane o.d.toNat))] := by
    rw [Effect.pushed_unmarked hs hm, iandEffect, laneWriteD_bodies hmask]
  have hw : ((iandEffect o s).pushed s (s.after (.iand o))).wheyt
      = s.co.wheyt + 4 * (5 + laneCount s.co.st.mask) := by
    rw [hp, wheyt_pushRecs, Effect.wheyt_cohort]
    simp only [bodyBytes, RecBody.size, Nat.add_zero, Nat.add_right_cancel_iff]
    rfl
  have hl : ((iandEffect o s).pushed s (s.after (.iand o))).lim = s.co.lim := by
    refine ((iandEffect o s).pushed_fields s _).1.trans ?_
    simp only [iandEffect, laneWriteD, laneWrite, State.writeV, State.setCo_co, Cohort.lim, Cohort.spilled]
  rw [exec_iand_eq, issueSeq_regionFull hc rfl hs (by rw [hl, hw]; exact hlim), hw, Nat.add_sub_cancel_left]

/-! ### `COMMIT` (01 R22) -/

/-- A class-H instruction commits when it completes (01 R13). -/
theorem tryComplete_commits {s t : State} {e : Effect} {next : DWord} (h : s.tryComplete e next = .ok t)
    (hh : e.hard = true) : ∃ c : Cohort, t.co = c.commit := by
  unfold State.tryComplete at h
  dsimp only at h
  split at h
  · cases h
  split at h
  · cases h
  split at h
  · cases h
  · cases h
  · cases h
    exact ⟨_, by rw [hh]; rfl⟩

theorem Cohort.floor_commit (c : Cohort) : ∀ x ∈ c.commit.strands, x.floor = x.icnt := by
  simp [Cohort.strands, Cohort.commit, Cohort.mapStrands]

/-- Settles O28: `COMMIT` is class H and changes nothing else. -/
theorem commitEmpties : Obligations.CommitEmpties := by
  unfold Obligations.CommitEmpties
  intro o s hc hr hs
  obtain ⟨t, ht, hcomp⟩ := tryComplete_completes (e := { post := s, hard := true }) (next := s.after (.commit o))
    ⟨rfl, rfl, rfl, rfl, rfl, rfl, rfl⟩ hr (Effect.bytes_le_of_noFlags rfl s (by simp [bodyBytes])) (trapped_zero _)
  obtain ⟨c, hco⟩ := tryComplete_commits ht rfl
  have hlog : s.logTime (.commit o) = s := by simp [State.logTime, Instr.operands]
  have hexec : exec (.commit o) s = .next t := by
    rw [exec_commit, execCommit, issueSeq_concludes hc]
    simp only [State.conclude, State.complete, hlog, ht]
  refine ⟨t, hexec, ?_, ?_, ?_, ?_⟩
  · rw [hco]
    rfl
  · rw [hco]
    rfl
  · rw [hcomp.icnt, hs]
    rfl
  · rw [hco]
    exact c.floor_commit

end Sys2Proof.Machine

namespace Sys2Proof.Machine

/-! ### `REWIND` and `REWINDT` (01 R23, R24) -/

theorem rewindAct_below {target : DWord} {s : State} (h : target < s.co.st.floor) (kind : WalkKind) (zero : State → Act) :
    rewindAct kind target zero s = .trap (trapOf 0x0E 0 target) := by
  simp [rewindAct, h]

theorem rewindAct_above {target : DWord} {s : State} (hf : s.co.st.floor ≤ target) (h : s.co.st.icnt < target)
    (kind : WalkKind) (zero : State → Act) : rewindAct kind target zero s = .trap (trapOf 0x0E 1 target) := by
  simp [rewindAct, BitVec.not_lt.mpr hf, h]

/-- The cohort turns round: the direction and the walk's target. -/
theorem rewindAct_turns {target : DWord} {s : State} (hd : s.co.debug = false) (ht : s.co.traced = false)
    (hf : s.co.st.floor ≤ target) (hi : target < s.co.st.icnt) (hl : s.landed = true) (kind : WalkKind)
    (zero : State → Act) : rewindAct kind target zero s = .whole (s.setCo fun c =>
      { c with dir := true, walk := some ⟨target, c.st.id, kind⟩, st := { c.st with park := none } }) := by
  have hne : target ≠ s.co.st.icnt := BitVec.ne_of_lt hi
  have hle : ¬ s.co.st.icnt < target := BitVec.not_lt.mpr (BitVec.le_of_lt hi)
  simp only [rewindAct, BitVec.not_lt.mpr hf, hle, hl, hne, hd, if_false, Bool.not_true, Bool.false_eq_true,
    trace_untraced ht]
  rfl

/-- Outside trap mode, with a target that is not the own count, `REWIND` and `REWINDT` run the rules they share. -/
theorem exec_rewinds {i : Instr} {kind : WalkKind} {target : DWord} {s : State}
    (hi : (∃ o, i = .rewind o ∧ target = s.readU2 o.a.toNat ∧ kind = .plain)
      ∨ ∃ o, i = .rewindt o ∧ target = s.readU2 o.a.toNat ∧ kind = .trap)
    (hc : s.decodeChecks i = none) (htm : s.co.tm = false) (hne : target ≠ s.co.st.icnt) :
    ∃ zero, exec i s = .next (s.conclude i (rewindAct kind target zero s) s.pcAddr) := by
  obtain ⟨o, rfl, rfl, rfl⟩ | ⟨o, rfl, rfl, rfl⟩ := hi
  · rw [exec_rewind, execRewind, issue_own hc (by simp [htm, hne])]
    simp only [htm, Bool.false_eq_true, if_false]
    exact ⟨_, rfl⟩
  · rw [exec_rewindt, execRewindt, issue_own hc (by simp [hne])]
    exact ⟨_, rfl⟩

/-- Settles O33: the three outcomes of the rules that `REWIND` and `REWINDT` share. -/
theorem walkTargets : Obligations.WalkTargets := by
  unfold Obligations.WalkTargets
  intro i kind target s hi hc htm
  refine ⟨fun hd ht hf hlt hl => ?_, fun hlt hne => ?_, fun hf hlt => ?_⟩
  · obtain ⟨zero, he⟩ := exec_rewinds hi hc htm (BitVec.ne_of_lt hlt)
    rw [he, rewindAct_turns hd ht hf hlt hl]
    rfl
  · obtain ⟨zero, he⟩ := exec_rewinds hi hc htm hne
    rw [he, rewindAct_below hlt]
    rfl
  · obtain ⟨zero, he⟩ := exec_rewinds hi hc htm (BitVec.ne_of_lt hlt).symm
    rw [he, rewindAct_above hf hlt]
    rfl

/-! ### `TRET` (01 R30) -/

/-- What `TRET` to an address leaves of the cohort (01 R30). -/
def Cohort.trapLeft (c : Cohort) (va : DWord) : Cohort :=
  let c := if c.tpcWritten then c.commit else c
  { c with tm := false, hbase := 0, hsave := [], walk := c.walk.map fun w => { w with kind := .plain }
           st := { c.st with pc := va.setWidth 56, park := none } }

/-- `TRET` to an address that passes the checks, without trace packets (04 R114). -/
theorem tret_returns {o : UxForm} {s : State} {va : DWord} (hc : s.decodeChecks (.tret o) = none)
    (ht : s.co.traced = false) (hva : va = pairOf ((s.co.st.pc.extractLsb' 32 24).setWidth 32) s.co.tpc)
    (ha : s.checkArrival va (!s.co.tpcWritten) false = .ok) :
    exec (.tret o) s = .next (s.setCo fun c => c.trapLeft va) := by
  rw [exec_tret, execTret, issue_own hc rfl, ← hva]
  dsimp only
  rw [ha]
  dsimp only
  generalize hu : State.setCo (if s.co.tpcWritten then s.setCo Cohort.commit else s) _ = u
  have hut : u.co.traced = false := by
    rw [← hu]
    split <;> exact ht
  have hleft : State.setSt ((u.trace 3 0 (dwordWords va)).setPc va) (fun st => { st with park := none })
      = s.setCo fun c => c.trapLeft va := by
    rw [trace_untraced hut, ← hu]
    cases hw : s.co.tpcWritten <;> simp [State.setCo, State.setPc, State.setSt, Cohort.trapLeft, hw]
  refine congrArg _ (Eq.trans ?_ hleft)
  simp only [State.conclude]
  split
  · rw [trace_untraced hut]
  · rfl

/-- Settles O34: `TRET` commits and checks for a marked target when `%tpc` was written. -/
theorem trapReturns : Obligations.TrapReturns := by
  unfold Obligations.TrapReturns
  exact fun o s hc ht ha => tret_returns hc ht rfl ha

/-! ### A step that issues (01 R21, 03 R62) -/

/-- At its boundary a strand without reports or a request goes on with its instruction (19 R381). -/
theorem boundary_plain {q : State} (hr : q.co.st.reports = []) (hp : q.co.preempt = none) (t : State) :
    q.boundary t = t.afterBuffer.afterStep := by
  have h1 : q.co.st.takesReport = false := by simp [Strand.takesReport, hr]
  have h2 : q.co.takesPreempt = false := by simp [Cohort.takesPreempt, hp]
  simp [State.boundary, h1, h2]

/-- The focused strand runs the instruction that the pinned version of its line decodes to (03 R63). -/
theorem fetch_runs {q : State} {ws : List Word} {i : Instr} (hp : q.pinned q.co.launch (lineOf q.pcAddr) = some ws)
    (he : q.entering = true → lineCheck ws q.pcAddr false true = .ok)
    (hd : decode (slotWords ws (slotOf q.pcAddr)) = .ok i) (run : Sem) : q.fetch run = run i q := by
  have hok : (if q.entering then lineCheck ws q.pcAddr false true else .ok) = .ok := by
    split
    · next h => exact he h
    · rfl
  unfold State.fetch
  dsimp only
  rw [hp]
  dsimp only
  rw [hok]
  dsimp only
  rw [State.runWords, hd]

/-- A focused strand with no walk, halt request, late event, report or request issues its instruction (19 R381). -/
theorem issueHere_runs {q t : State} {ws : List Word} {i : Instr} {run : Sem} (hdir : q.co.dir = false ∨ q.co.tm = true)
    (hdb : q.co.debug = false) (hh : q.co.haltReq = none) (hl : q.co.st.late = none) (hr : q.co.st.reports = [])
    (hpre : q.co.preempt = none) (hp : q.pinned q.co.launch (lineOf q.pcAddr) = some ws)
    (he : q.entering = true → lineCheck ws q.pcAddr false true = .ok)
    (hd : decode (slotWords ws (slotOf q.pcAddr)) = .ok i) (hrun : run i q = .next t) :
    q.issueHere run = .next t.afterBuffer.afterStep := by
  have hw : (q.co.dir && !q.co.tm) = false := by
    rcases hdir with h | h <;> simp [h]
  have ha : q.attempt run = .next t := by
    rw [State.attempt, hdb]
    exact (fetch_runs hp he hd run).trans hrun
  unfold State.issueHere
  rw [hw, hh, hl, ha]
  simp only [Bool.false_and, Bool.false_eq_true, if_false]
  rw [boundary_plain hr hpre]

/-- Settles O15: the slot's candidate is taken, and its instruction is the one decoded. -/
theorem stepRunsDecoded : Obligations.StepRunsDecoded := by
  unfold Obligations.StepRunsDecoded
  intro s q t core half vector rest k ws i hon hag hk hq hdir hdb hh hl hr hpre hp he hd hrun
  have hslot : ({ s with agenda := rest } : State).issueSlot exec core half vector = .next t.afterBuffer.afterStep := by
    unfold State.issueSlot
    dsimp only
    rw [hk]
    dsimp only
    rw [← hq]
    exact issueHere_runs hdir hdb hh hl hr hpre hp he hd hrun
  unfold step State.runStep
  rw [hon, hag]
  simp only [State.move, hslot, Bool.false_eq_true, if_false]

end Sys2Proof.Machine

namespace Sys2Proof.Machine

open Sys2Proof.Claims

/-! ### Cohorts by their uid -/

theorem modifyFirst_congr {α : Type} {p : α → Bool} {f g : α → α} {l : List α} {x : α} (h : l.find? p = some x)
    (hfg : f x = g x) : modifyFirst p f l = modifyFirst p g l := by
  induction l with
  | nil => rfl
  | cons a l ih =>
    simp only [modifyFirst]
    cases ha : p a with
    | true =>
      rw [List.find?_cons_of_pos ha] at h
      obtain rfl := Option.some.inj h
      simp [hfg]
    | false =>
      rw [List.find?_cons_of_neg (by simp [ha])] at h
      simp [ih h]

/-- Where a resident cohort stands: in focus, or among the others. -/
theorem State.cohort?_cases {s : State} {uid : Nat} {c : Cohort} (h : s.cohort? uid = some c) :
    (s.co.uid = uid ∧ c = s.co) ∨ (s.co.uid ≠ uid ∧ s.others.find? (·.uid == uid) = some c) := by
  have hu : c.uid = uid := by simpa using List.find?_some h
  have h0 : (c.uid != 0) = true := (List.mem_filter.mp (List.mem_of_find?_eq_some h)).2
  have hne : uid ≠ 0 := by simpa [hu] using h0
  have hfind : s.cohorts.find? (·.uid == uid) = (s.co :: s.others).find? (·.uid == uid) := by
    rw [State.cohorts, List.find?_filter]
    refine congrArg (fun p => List.find? p (s.co :: s.others)) (funext fun a => ?_)
    by_cases ha : a.uid = uid
    · simp [ha, hne]
    · simp [ha]
  rw [State.cohort?, hfind, List.find?_cons] at h
  split at h
  · next he => exact .inl ⟨by simpa using he, (Option.some.inj h).symm⟩
  · next he => exact .inr ⟨by simpa using he, h⟩

/-- Changes of a resident cohort that agree on it are the same. -/
theorem State.modCohort_congr {s : State} {uid : Nat} {c : Cohort} {f g : Cohort → Cohort} (h : s.cohort? uid = some c)
    (hfg : f c = g c) : s.modCohort uid f = s.modCohort uid g := by
  obtain ⟨hu, rfl⟩ | ⟨hu, hc⟩ := State.cohort?_cases h
  · simp [State.modCohort, hu, hfg]
  · simp [State.modCohort, hu, modifyFirst_congr hc hfg]

/-- A resident cohort brought into focus. -/
theorem State.focus_co {s : State} {uid : Nat} {c : Cohort} (h : s.cohort? uid = some c) (st : Nat) :
    (s.focus uid st).co = c.focus st := by
  obtain ⟨hu, rfl⟩ | ⟨hu, hc⟩ := State.cohort?_cases h
  · simp [State.focus, hu]
  · simp [State.focus, hu, hc]

/-- Which strand stands in focus is all that focusing changes in a cohort. -/
theorem Cohort.focus_modes (c : Cohort) (st : Nat) : (c.focus st).debug = c.debug ∧ (c.focus st).tm = c.tm := by
  unfold Cohort.focus
  split
  · exact ⟨rfl, rfl⟩
  · split <;> exact ⟨rfl, rfl⟩

theorem State.focus_modes {s : State} {uid : Nat} {c : Cohort} (h : s.cohort? uid = some c) (st : Nat) :
    (s.focus uid st).co.debug = c.debug ∧ (s.focus uid st).co.tm = c.tm := by
  rw [State.focus_co h]
  exact c.focus_modes st

theorem Cohort.special_false {c : Cohort} : c.special = false ↔ c.tm = false ∧ c.debug = false := by
  simp [Cohort.special]

/-! ### Events that leave one state -/

/-- An event of the table `coreEvents` that leaves one state is due when its need holds, and leaves it. -/
theorem next_of_gives {i : Instr} {s t : State} {need : Prop} {d : Due} (hd : gives need t = some d) (hn : d.need)
    (h : need → exec i s = .next t) : ∃ u, exec i s = .next u ∧ d.post u := by
  obtain rfl := Option.some.inj hd
  exact ⟨t, h hn, rfl⟩

/-! ### Results, checks and stalls (01 R25-R27, 03 R65, 20 R404) -/

theorem modifyAt_eq_set (f : Nat → Nat) (l : List Nat) (k : Nat) : modifyAt f l k = l.set k (f (l.getD k 0)) := by
  rw [modifyAt_eq_modify]
  apply List.ext_getElem?
  intro j
  rw [List.getElem?_modify, List.getElem?_set]
  by_cases hj : k = j
  · subst hj
    by_cases hk : k < l.length <;> simp [hk]
  · simp [hj]

theorem stallCycle_due {co : Nat} {s : State} {d : Due} (hd : coreEvents s (.stallCycle co) = some d) (hn : d.need) :
    ∃ t, exec (.stallCycle co) s = .next t ∧ d.post t := by
  obtain ⟨c, hc, hd⟩ := Option.bind_eq_some_iff.mp hd
  obtain ⟨k, hk, hd⟩ := Option.bind_eq_some_iff.mp hd
  refine next_of_gives hd hn fun ⟨hh, hs⟩ => ?_
  rw [exec_stallCycle, execStallCycle]
  congr 1
  apply State.modCohort_congr hc
  simp [hh, hs, hk, modifyAt_eq_set]

theorem resultLanding_due {co st k : Nat} {s : State} {d : Due} (hd : coreEvents s (.resultLanding co st k) = some d)
    (hn : d.need) : ∃ t, exec (.resultLanding co st k) s = .next t ∧ d.post t := by
  obtain ⟨t, ht, hd⟩ := Option.bind_eq_some_iff.mp hd
  obtain ⟨o, ho, hd⟩ := Option.bind_eq_some_iff.mp hd
  refine next_of_gives hd hn fun hready => ?_
  have hall : o.dests.all s.destReady = true := List.all_eq_true.mpr hready
  rw [exec_resultLanding, execResultLanding, ht, Option.bind_some, ho]
  dsimp only
  rw [hall]
  rfl

theorem checkMismatch_due {co st : Nat} {count : DWord} {s : State} {d : Due}
    (hd : coreEvents s (.checkMismatch co st count) = some d) (hn : d.need) :
    ∃ t, exec (.checkMismatch co st count) s = .next t ∧ d.post t := by
  obtain ⟨c, hc, hd⟩ := Option.bind_eq_some_iff.mp hd
  obtain ⟨t, ht, hd⟩ := Option.bind_eq_some_iff.mp hd
  refine next_of_gives hd hn fun ⟨hb, hs, hck, hi, hf⟩ => ?_
  have hdue : (!c.atBoundary || c.special || decide (count < t.checked) || decide (t.icnt ≤ count)
      || decide (count < t.floor)) = false := by
    simp [hb, hs, BitVec.not_lt.mpr hck, BitVec.not_le.mpr hi, BitVec.not_lt.mpr hf]
  rw [exec_checkMismatch, execCheckMismatch, hc]
  dsimp only
  rw [ht]
  dsimp only
  rw [hdue]
  simp only [Bool.false_eq_true, if_false, State.deviceWalk, State.setCo, bumped]
  split <;> rfl

/-- After a trap is entered the cohort is in trap mode. -/
theorem Entered.tm {s u : State} {t : Trap} (h : Entered s u t) : u.co.tm = true := by
  have hb : u.co.bare.tm = _ := congrArg (fun c : Cohort => c.tm) h.co
  exact hb

theorem lateFault_due {co : Nat} {s : State} {d : Due} (hd : coreEvents s (.lateFault co) = some d) (hn : d.need) :
    ∃ t, exec (.lateFault co) s = .next t ∧ d.post t := by
  obtain ⟨c, hc, hd⟩ := Option.bind_eq_some_iff.mp hd
  obtain ⟨t, ht, hd⟩ := Option.bind_eq_some_iff.mp hd
  obtain ⟨ev, hev, hd⟩ := Option.bind_eq_some_iff.mp hd
  obtain rfl := Option.some.inj hd
  obtain ⟨hb, hdb, htm, hcan⟩ := hn
  obtain ⟨hfd, hft⟩ := State.focus_modes hc t.id
  have he := raise_entered hcan (hfd.trans hdb) (hft.trans htm) { trapOf ev.code ev.sub ev.info with late := true }
  refine ⟨_, ?_, _, he, rfl⟩
  rw [exec_lateFault, execLateFault, hc]
  simp only [hb, ht, hev, Bool.not_true, Bool.false_eq_true, if_false, State.lateTrap, he.tm, hft, htm, Bool.not_false,
    Bool.and_self, Bool.or_true, if_true]

theorem reportDelivery_due {co : Nat} {s : State} {d : Due} (hd : coreEvents s (.reportDelivery co) = some d)
    (hn : d.need) : ∃ t, exec (.reportDelivery co) s = .next t ∧ d.post t := by
  obtain ⟨c, hc, hd⟩ := Option.bind_eq_some_iff.mp hd
  obtain ⟨t, ht, hd⟩ := Option.bind_eq_some_iff.mp hd
  obtain ⟨r, hr, hd⟩ := Option.bind_eq_some_iff.mp hd
  obtain rfl := Option.some.inj hd
  obtain ⟨hb, hs, hcan⟩ := hn
  obtain ⟨hfd, hft⟩ := State.focus_modes hc t.id
  obtain ⟨htm, hdb⟩ := Cohort.special_false.mp hs
  have he := raise_entered hcan (hfd.trans hdb) (hft.trans htm) (trapOf 0x1B r.sub r.addr)
  obtain ⟨rest, hrest⟩ := List.head?_eq_some_iff.mp hr
  refine ⟨_, ?_, _, he, rfl⟩
  rw [exec_reportDelivery, execReportDelivery, hc]
  simp only [hb, hs, ht, Bool.not_true, Bool.or_self, Bool.false_eq_true, if_false, State.reportTrap, hrest, he.tm,
    Bool.true_or, if_true, List.drop_succ_cons, List.drop_zero]

/-! ### Acknowledgements (11 R257) -/

theorem storeAck_due {co st : Nat} {s : State} {d : Due} (hd : coreEvents s (.storeAck co st) = some d) (hn : d.need) :
    ∃ t, exec (.storeAck co st) s = .next t ∧ d.post t := by
  obtain ⟨c, hc, hd⟩ := Option.bind_eq_some_iff.mp hd
  obtain ⟨t, ht, hd⟩ := Option.bind_eq_some_iff.mp hd
  obtain ⟨u, hu, hd⟩ := Option.bind_eq_some_iff.mp hd
  refine next_of_gives hd hn fun _ => ?_
  rw [exec_storeAck, execStoreAck, State.strand?, hc, Option.bind_some, ht, Option.bind_some, hu]
  rfl

theorem horizonPassed_due {co st : Nat} {s : State} {d : Due} (hd : coreEvents s (.horizonPassed co st) = some d)
    (hn : d.need) : ∃ t, exec (.horizonPassed co st) s = .next t ∧ d.post t := by
  obtain ⟨c, hc, hd⟩ := Option.bind_eq_some_iff.mp hd
  refine next_of_gives hd hn fun hpast => ?_
  have hone : ∀ x ∈ c.strands, (if x.id == st then (if x.horizon < s.time then { x with horizon := 0 } else x) else x)
      = if x.id == st then { x with horizon := 0 } else x := by
    intro x hx
    by_cases hid : x.id = st
    · simp [hid, hpast x hx hid]
    · simp [hid]
  rw [exec_horizonPassed, execHorizonPassed]
  congr 1
  apply State.modCohort_congr hc
  simp only [Cohort.modStrand, Cohort.mapStrands]
  rw [hone c.st (by simp [Cohort.strands]), List.map_congr_left fun x hx => hone x (by simp [Cohort.strands, hx])]

/-! ### Arrivals and links (12 R451, 15 R332) -/

theorem storeArrival_due {k : Nat} {s : State} {d : Due} (hd : coreEvents s (.storeArrival k) = some d) (hn : d.need) :
    ∃ t, exec (.storeArrival k) s = .next t ∧ d.post t := by
  obtain ⟨a, ha, hd⟩ := Option.bind_eq_some_iff.mp hd
  refine next_of_gives hd hn fun hafter => ?_
  rw [exec_storeArrival, execStoreArrival, ha]
  simp only [hafter, List.isEmpty_nil, Bool.not_true, Bool.false_eq_true, if_false]
  cases s.arrivalPlace a <;> rfl

theorem linkEntryArrival_due {k : Nat} {s : State} {d : Due} (hd : coreEvents s (.linkEntryArrival k) = some d)
    (hn : d.need) : ∃ t, exec (.linkEntryArrival k) s = .next t ∧ d.post t := by
  obtain ⟨e, he, hd⟩ := Option.bind_eq_some_iff.mp hd
  refine next_of_gives hd hn fun hfirst => ?_
  have hnone : (s.flying.take k).any (fun x => x.cluster == e.cluster && x.queue == e.queue) = false := by
    rw [List.any_eq_false]
    intro x hx
    simpa using hfirst x hx
  rw [exec_linkEntryArrival, execLinkEntryArrival, he]
  dsimp only
  rw [hnone]
  rfl

/-! ### Accumulates (10 R236-R242) -/

theorem modifyAt_congr {α : Type} {f g : α → α} {l : List α} {k : Nat} (h : ∀ x, l[k]? = some x → f x = g x) :
    modifyAt f l k = modifyAt g l k := by
  rw [modifyAt_eq_modify, modifyAt_eq_modify]
  apply List.ext_getElem?
  intro j
  rw [List.getElem?_modify, List.getElem?_modify]
  by_cases hj : k = j
  · subst hj
    cases hx : l[k]? with
    | none => rfl
    | some x => simp [h x hx]
  · simp [hj]

/-- Changes of a slice that agree on it are the same. -/
theorem State.modSlice_congr {s : State} {k : Nat} {f g : Slice → Slice} (h : f (s.slice k) = g (s.slice k)) :
    s.modSlice k f = s.modSlice k g := by
  unfold State.modSlice
  rw [modifyAt_congr]
  intro x hx
  rw [State.slice, List.getD_eq_getElem?_getD, hx] at h
  exact h

theorem accWindowRollover_due {slice : Nat} {s : State} {d : Due}
    (hd : coreEvents s (.accWindowRollover slice) = some d) (hn : d.need) :
    ∃ t, exec (.accWindowRollover slice) s = .next t ∧ d.post t := by
  refine next_of_gives hd hn fun hpast => ?_
  rw [exec_accWindowRollover, execAccWindowRollover]
  congr 1
  apply State.modSlice_congr
  rw [Slice.roll, if_neg (Ne.symm hpast)]

theorem eddyAgeExpiry_due {block : Nat} {s : State} {d : Due} (hd : coreEvents s (.eddyAgeExpiry block) = some d)
    (hn : d.need) : ∃ t, exec (.eddyAgeExpiry block) s = .next t ∧ d.post t := by
  refine next_of_gives hd hn fun _ => ?_
  have hold : tooOld s.cycle = fun e : Option EddyEnt => match e with
      | some e => decide (e.born + 65536 ≤ s.cycle)
      | none => false := by
    funext e
    cases e <;> rfl
  rw [exec_eddyAgeExpiry, hold]
  exact rfl

theorem logHome_blocks (s : State) (kind line core : Nat) : (s.logHome kind line core).blocks = s.blocks := by
  unfold State.logHome State.logInput
  split
  · split
    · rfl
    · dsimp only
      split <;> rfl
  · rfl

theorem forcedDelivery_due {block : Nat} {s : State} {d : Due} (hd : coreEvents s (.forcedDelivery block) = some d)
    (hn : d.need) : ∃ t, exec (.forcedDelivery block) s = .next t ∧ d.post t := by
  obtain ⟨b, hb, hd⟩ := Option.bind_eq_some_iff.mp hd
  obtain ⟨e, he, hd⟩ := Option.bind_eq_some_iff.mp hd
  refine next_of_gives hd hn fun _ => ?_
  have hhome : ((s.accAtHome e.addr e.op e.addend).logHome 2 (e.addr / 128) 0).block? block = some b := by
    rw [State.block?, logHome_blocks, (OnlyMem.accAtHome s e.addr e.op e.addend).eq]
    exact hb
  rw [exec_forcedDelivery, execForcedDelivery, hb, Option.bind_some, he]
  dsimp only
  generalize State.block? _ block = held at hhome ⊢
  subst hhome
  exact rfl

/-- A slice refuses an update-only request exactly when it does not grant it (10 R239). -/
theorem refuses_iff {held waits : Bool} {n quota : Nat} {i : Decidable (n < quota)} {j : Decidable (quota ≤ n)} :
    (!held && (decide (quota ≤ n) || waits)) = true ↔ ¬ (held || (decide (n < quota) && !waits)) = true := by
  by_cases h : n < quota
  · cases held <;> simp [h, Nat.not_le.mpr h]
  · cases held <;> simp [h, Nat.not_lt.mp h]

theorem updateOnlyRequest_due {slice : Nat} {s : State} {d : Due}
    (hd : coreEvents s (.updateOnlyRequest slice) = some d) (hn : d.need) :
    ∃ t, exec (.updateOnlyRequest slice) s = .next t ∧ d.post t := by
  simp only [coreEvents] at hd
  cases hreq : (s.slice slice).requests with
  | nil =>
    rw [hreq] at hd
    cases hd
  | cons r rest =>
    have hcore : ∀ f, (s.modSlice slice f).core r.core = s.core r.core := fun _ => rfl
    rw [exec_updateOnlyRequest, execUpdateOnlyRequest]
    rw [hreq] at hd ⊢
    dsimp only at hd ⊢
    rw [hcore]
    split at hd
    · next hgrant =>
      obtain rfl := Option.some.inj hd
      generalize s.modSlice slice _ = v at hgrant ⊢
      generalize List.find? _ (v.slice slice).grants = g at hgrant ⊢
      cases g <;> exact ⟨_, if_neg fun h => refuses_iff.mp h hgrant, rfl⟩
    · next hrefuse =>
      obtain rfl := Option.some.inj hd
      generalize s.modSlice slice _ = v at hrefuse ⊢
      generalize List.find? _ (v.slice slice).grants = g at hrefuse ⊢
      cases g <;> exact ⟨_, if_pos (refuses_iff.mpr hrefuse), rfl⟩

end Sys2Proof.Machine

namespace Sys2Proof.Machine

open Sys2Proof.Claims

/-! ### Strands that wake, and what they wait for (08 R191) -/

/-- A strand whose wait a test ends goes on. -/
def Strand.woken (t : Strand) (p : Wait → Bool) : Strand :=
  match t.park with
  | some w => if p w then { t with park := none } else t
  | none => t

theorem Strand.park_woken {t : Strand} {p : Wait → Bool} {w : Wait} (h : (t.woken p).park = some w) : p w = false := by
  unfold Strand.woken at h
  split at h
  · next v hv =>
    cases hp : p v with
    | true => simp [hp] at h
    | false =>
      rw [hp] at h
      obtain rfl := Option.some.inj (hv.symm.trans h)
      exact hp
  · next hn =>
    rw [hn] at h
    cases h

/-- Changing the strands of every cohort changes them in the cohorts of the module. -/
theorem State.cohorts_mapStrands {s t : State} {g : Cohort → Strand → Strand}
    (hc : t.co = s.co.mapStrands (g s.co)) (ho : t.others = s.others.map fun c => c.mapStrands (g c)) :
    t.cohorts = s.cohorts.map fun c => c.mapStrands (g c) := by
  have hm : t.co :: t.others = (s.co :: s.others).map fun c => c.mapStrands (g c) := by rw [hc, ho, List.map_cons]
  rw [State.cohorts, hm, List.filter_map]
  rfl

theorem State.wake_cohorts (s : State) (p : Cohort → Wait → Bool) :
    (s.wake p).cohorts = s.cohorts.map fun c => c.mapStrands fun t => t.woken (p c) :=
  State.cohorts_mapStrands rfl rfl

theorem State.mapParks_cohorts (s : State) (f : Cohort → Strand → Wait → Wait) :
    (s.mapParks f).cohorts = s.cohorts.map fun c => c.mapStrands fun t => { t with park := t.park.map (f c t) } :=
  State.cohorts_mapStrands rfl rfl

theorem Cohort.strands_mapStrands (c : Cohort) (f : Strand → Strand) : (c.mapStrands f).strands = c.strands.map f := rfl

/-- After a wake no strand waits as its test says. -/
theorem noneWaits_wake {s : State} {p : Cohort → Wait → Bool} {q : Cohort → Wait → Prop}
    (h : ∀ c f w, q (c.mapStrands f) w → p c w = true) : noneWaits (s.wake p) q := by
  intro c hc x hx w hw hq
  rw [State.wake_cohorts] at hc
  obtain ⟨c, -, rfl⟩ := List.mem_map.mp hc
  rw [Cohort.strands_mapStrands] at hx
  obtain ⟨y, -, rfl⟩ := List.mem_map.mp hx
  have hfalse := Strand.park_woken hw
  rw [h c _ w hq] at hfalse
  cases hfalse

/-- After every wait has changed, no strand waits as none of the new waits does. -/
theorem noneWaits_mapParks {s : State} {f : Cohort → Strand → Wait → Wait} {q : Cohort → Wait → Prop}
    (h : ∀ c t w g, ¬ q (c.mapStrands g) (f c t w)) : noneWaits (s.mapParks f) q := by
  intro c hc x hx w hw
  rw [State.mapParks_cohorts] at hc
  obtain ⟨c, -, rfl⟩ := List.mem_map.mp hc
  rw [Cohort.strands_mapStrands] at hx
  obtain ⟨y, -, rfl⟩ := List.mem_map.mp hx
  obtain ⟨v, -, rfl⟩ := Option.map_eq_some_iff.mp hw
  exact h c y v _

/-- A parked strand has the new wait. -/
theorem mapParks_strand {s : State} {f : Cohort → Strand → Wait → Wait} {c : Cohort} {x : Strand} {w : Wait}
    (hc : c ∈ s.cohorts) (hx : x ∈ c.strands) (hw : x.park = some w) :
    ∃ d ∈ (s.mapParks f).cohorts, d.uid = c.uid ∧ ∃ y ∈ d.strands, y = { x with park := some (f c x w) } := by
  refine ⟨c.mapStrands fun t => { t with park := t.park.map (f c t) }, ?_, rfl,
    { x with park := x.park.map (f c x) }, ?_, ?_⟩
  · rw [State.mapParks_cohorts]
    exact List.mem_map_of_mem hc
  · rw [Cohort.strands_mapStrands]
    exact List.mem_map_of_mem (f := fun t => ({ t with park := t.park.map (f c t) } : Strand)) hx
  · rw [hw]
    rfl

@[simp] theorem State.wake_mem (s : State) (p : Cohort → Wait → Bool) : (s.wake p).mem = s.mem := rfl
@[simp] theorem State.wake_dies (s : State) (p : Cohort → Wait → Bool) : (s.wake p).dies = s.dies := rfl
@[simp] theorem State.wake_fw (s : State) (p : Cohort → Wait → Bool) : (s.wake p).fw = s.fw := rfl
@[simp] theorem State.wake_launches (s : State) (p : Cohort → Wait → Bool) : (s.wake p).launches = s.launches := rfl
@[simp] theorem State.mapParks_mem (s : State) (f : Cohort → Strand → Wait → Wait) : (s.mapParks f).mem = s.mem := rfl
@[simp] theorem State.mapParks_dies (s : State) (f : Cohort → Strand → Wait → Wait) : (s.mapParks f).dies = s.dies := rfl
@[simp] theorem State.mapParks_fw (s : State) (f : Cohort → Strand → Wait → Wait) : (s.mapParks f).fw = s.fw := rfl

/-! ### Page walks (10 R245) -/

theorem State.die_modDie (s : State) (k j : Nat) (f : Die → Die) :
    (s.modDie k f).die j = if j = k ∧ k < s.dies.length then f (s.die k) else s.die j := by
  simp only [State.die, State.modDie_dies, modifyAt_eq_modify, List.getD_eq_getElem?_getD, List.getElem?_modify]
  by_cases hj : k = j
  · subst hj
    by_cases hk : k < s.dies.length <;> simp [hk]
  · simp [hj, Ne.symm hj]

theorem State.die_modDie_self {s : State} {k : Nat} (h : k < s.dies.length) (f : Die → Die) :
    (s.modDie k f).die k = f (s.die k) := by
  rw [State.die_modDie, if_pos ⟨rfl, h⟩]

theorem State.length_dies_modDie (s : State) (k : Nat) (f : Die → Die) : (s.modDie k f).dies.length = s.dies.length := by
  simp [modifyAt_eq_modify]

/-- Beyond the dies of the module stands the reset die. -/
theorem State.lt_dies {s : State} {k : Nat} (h : s.die k ≠ .reset) : k < s.dies.length := by
  refine Nat.lt_of_not_le fun hle => h ?_
  simp [State.die, List.getElem?_eq_none hle]

theorem State.die_of_dies {s u : State} (h : u.dies = s.dies) (k : Nat) : u.die k = s.die k := by
  rw [State.die, State.die, h]

/-- An agent's walk looks at device memory alone. -/
theorem walkFrom_of_mem {s u : State} (h : u.mem = s.mem) (va level table : Nat) :
    u.walkFrom va level table = s.walkFrom va level table := by
  have hr : u.homeRead = s.homeRead := by
    have hb : u.homeByte = s.homeByte := by
      funext a
      rw [State.homeByte, State.homeByte, h]
    funext a n
    rw [State.homeRead, State.homeRead, hb]
  induction level generalizing table with
  | zero => simp only [State.walkFrom, hr]
  | succ n ih => simp only [State.walkFrom, hr, ih]

theorem pageWalk_modDie (s : State) (k : Nat) (f : Die → Die) (va : Nat) : (s.modDie k f).pageWalk va = s.pageWalk va :=
  walkFrom_of_mem rfl va 4 s.setup.root

/-- Changes of cores leave all else. -/
theorem foldl_modCore_eq (f : Core → Core) (ks : List Nat) (s : State) :
    ∃ cs, ks.foldl (fun s k => s.modCore k f) s = { s with cores := cs } := by
  induction ks generalizing s with
  | nil => exact ⟨s.cores, rfl⟩
  | cons k ks ih => exact (ih (s.modCore k f)).imp fun _ h => h

/-- An absent page is reported, and nothing else changes. -/
theorem absent_eq (s : State) (die va : Nat) : ∃ l, s.absent die va = { s with fw := l }
    ∧ FwRec.page die (BitVec.ofNat 64 (va / 2 ^ 16 * 2 ^ 16)) ∈ l := by
  unfold State.absent
  dsimp only
  split
  · next h => exact ⟨s.fw, rfl, by simpa using h⟩
  · exact ⟨_, rfl, by simp⟩

/-- A wait for the walk of a page by a die. -/
def walkWait (die page : Nat) : Wait → Bool
  | .walking d v => d == die && v.toNat / 2 ^ 16 == page
  | _ => false

theorem walkWait_iff {die page : Nat} {c : Cohort} {w : Wait} : walkWait die page w = true ↔ walksOn die page c w := by
  unfold walkWait walksOn
  split
  · next d v =>
    simp only [Bool.and_eq_true, beq_iff_eq]
    constructor
    · rintro ⟨rfl, h⟩
      exact ⟨v, rfl, h⟩
    · rintro ⟨_, ⟨⟩, h⟩
      exact ⟨rfl, h⟩
  · next h =>
    constructor
    · intro hf
      cases hf
    · rintro ⟨v, rfl, -⟩
      exact absurd rfl (h die v)

/-- The die's walk of a page is over. -/
def State.walked (s : State) (die page : Nat) : State :=
  s.modDie die fun d => { d with walks := d.walks.filter (· != page) }

theorem walking_die_lt {s : State} {die page : Nat} (hin : page ∈ (s.die die).walks) : die < s.dies.length := by
  refine State.lt_dies fun h => ?_
  rw [h] at hin
  cases hin

/-- The walk is over, and the die is as it was else. -/
theorem walked_die {s : State} {die page : Nat} (hin : page ∈ (s.die die).walks) :
    (s.walked die page).die die = { s.die die with walks := (s.die die).walks.filter (· != page) } :=
  State.die_modDie_self (walking_die_lt hin) _

theorem not_mem_walked {s u : State} {die page : Nat} (hin : page ∈ (s.die die).walks)
    (h : (u.die die).walks = ((s.walked die page).die die).walks) : page ∉ (u.die die).walks := by
  rw [h, walked_die hin]
  simp

/-- The die's walk of a page is over, and its TLB takes the page. -/
def State.pageFound (s : State) (die : Nat) (va : DWord) (e : TlbEnt) : State :=
  (s.walked die (va.toNat / 2 ^ 16)).modDie die fun d =>
    { d with tlb := (e :: d.tlb.filter fun x => !x.covers va.toNat).take 16384 }

theorem pageFound_die {s : State} {die : Nat} {va : DWord} (hin : va.toNat / 2 ^ 16 ∈ (s.die die).walks) (e : TlbEnt) :
    (s.pageFound die va e).die die = { (s.walked die (va.toNat / 2 ^ 16)).die die with
      tlb := (e :: ((s.walked die (va.toNat / 2 ^ 16)).die die).tlb.filter fun x => !x.covers va.toNat).take 16384 } :=
  State.die_modDie_self (by rw [State.walked, State.length_dies_modDie]; exact walking_die_lt hin) _

/-- A page walk that finds the page: the die's TLB and those of waiting cores take it, and its accesses go on. -/
theorem execPageWalk_found {die : Nat} {va : DWord} {s : State} {e : TlbEnt}
    (hin : va.toNat / 2 ^ 16 ∈ (s.die die).walks) (hw : s.pageWalk va.toNat = some e) :
    ∃ cs, execPageWalk die va s
      = .next (State.wake { s.pageFound die va e with cores := cs } fun _ w => walkWait die (va.toNat / 2 ^ 16) w) := by
  unfold execPageWalk
  dsimp only
  rw [List.contains_iff_mem.mpr hin, pageWalk_modDie, hw]
  dsimp only
  generalize dedup _ = ks
  obtain ⟨cs, hcs⟩ := foldl_modCore_eq
    (fun c => { c with tlb := (e :: c.tlb.filter fun x => !x.covers va.toNat).take 384 }) ks (s.pageFound die va e)
  refine ⟨cs, ?_⟩
  rw [← hcs]
  rfl

/-- A page walk that finds nothing of a page declared invalid: its accesses go on, and find it out. -/
theorem execPageWalk_invalid {die : Nat} {va : DWord} {s : State} (hin : va.toNat / 2 ^ 16 ∈ (s.die die).walks)
    (hw : s.pageWalk va.toNat = none) (hi : s.invalid.contains (va.toNat / 2 ^ 16) = true) :
    execPageWalk die va s
      = .next ((s.walked die (va.toNat / 2 ^ 16)).wake fun _ w => walkWait die (va.toNat / 2 ^ 16) w) := by
  unfold execPageWalk
  dsimp only
  rw [List.contains_iff_mem.mpr hin, pageWalk_modDie, hw]
  dsimp only
  rw [State.modDie_invalid, hi]
  rfl

/-- A page walk that finds no page: it is reported, and its accesses wait for it. -/
theorem execPageWalk_absent {die : Nat} {va : DWord} {s : State} (hin : va.toNat / 2 ^ 16 ∈ (s.die die).walks)
    (hw : s.pageWalk va.toNat = none) (hi : s.invalid.contains (va.toNat / 2 ^ 16) = false) :
    execPageWalk die va s = .next (((s.walked die (va.toNat / 2 ^ 16)).absent die va.toNat).mapParks
      fun _ _ w => if walkWait die (va.toNat / 2 ^ 16) w then .page va else w) := by
  unfold execPageWalk
  dsimp only
  rw [List.contains_iff_mem.mpr hin, pageWalk_modDie, hw]
  dsimp only
  rw [State.modDie_invalid, hi]
  rfl

theorem pageWalk_due {die : Nat} {va : DWord} {s : State} {d : Due} (hd : coreEvents s (.pageWalk die va) = some d)
    (hn : d.need) : ∃ t, exec (.pageWalk die va) s = .next t ∧ d.post t := by
  simp only [coreEvents] at hd
  rw [exec_pageWalk]
  split at hd
  · next e hw =>
    obtain rfl := Option.some.inj hd
    obtain ⟨cs, he⟩ := execPageWalk_found hn hw
    refine ⟨_, he, ?_⟩
    have hdie := (State.die_of_dies (s := s.pageFound die va e) (u := State.wake { s.pageFound die va e with cores := cs }
      fun _ w => walkWait die (va.toNat / 2 ^ 16) w) rfl die).trans (pageFound_die hn e)
    refine ⟨not_mem_walked hn ?_, ?_, noneWaits_wake fun _ _ _ h => walkWait_iff.mpr h, rfl⟩
    · rw [hdie]
    · rw [hdie]
      rfl
  · next hw =>
    split at hd
    · next hi =>
      obtain rfl := Option.some.inj hd
      refine ⟨_, execPageWalk_invalid hn hw hi, not_mem_walked hn ?_,
        noneWaits_wake fun _ _ _ h => walkWait_iff.mpr h, rfl, rfl⟩
      rw [State.die_of_dies (State.wake_dies _ _)]
    · next hi =>
      obtain rfl := Option.some.inj hd
      refine ⟨_, execPageWalk_absent hn hw (by simpa using hi), ?_⟩
      obtain ⟨l, hl, hmem⟩ := absent_eq (s.walked die (va.toNat / 2 ^ 16)) die va.toNat
      rw [hl]
      refine ⟨not_mem_walked hn rfl, hmem, noneWaits_mapParks fun c t w g hwait => ?_, fun c hc x hx w hw hwait => ?_, rfl⟩
      · split at hwait
        · obtain ⟨v, hv, -⟩ := hwait
          cases hv
        · next hne => exact hne (walkWait_iff.mpr hwait)
      · have h := mapParks_strand (s := { s.walked die (va.toNat / 2 ^ 16) with fw := l })
          (f := fun _ _ w => if walkWait die (va.toNat / 2 ^ 16) w then .page va else w) hc hx hw
        rwa [if_pos (walkWait_iff.mpr hwait)] at h

/-! ### Code fills (03 R62, R63) -/

theorem find?_modifyFirst {α : Type} {p : α → Bool} {f : α → α} (hp : ∀ x, p (f x) = p x) (l : List α) :
    (modifyFirst p f l).find? p = (l.find? p).map f := by
  induction l with
  | nil => rfl
  | cons a l ih =>
    cases ha : p a with
    | true => simp [modifyFirst, ha, hp]
    | false => simp [modifyFirst, ha, ih]

theorem OnlyMem.bringHome (s : State) (pas : List Nat) : OnlyMem s (s.bringHome pas) :=
  OnlyMem.foldl _ (fun s wa => (OnlyMem.takeBack s (wa / 32)).trans (OnlyMem.recall _ none wa)) _ s

/-- A line pinned for a launch that had not pinned it. -/
theorem pinned_modLaunch {s : State} {launch : Nat} {line : DWord} {ws : List Word}
    (hl : (s.launch? launch).isSome = true) (hp : s.pinned launch line = none) :
    (s.modLaunch launch fun l => { l with pins := l.pins ++ [⟨line, ws⟩] }).pinned launch line = some ws := by
  obtain ⟨l, hl⟩ := Option.isSome_iff_exists.mp hl
  have hnone : l.pins.find? (·.line == line) = none := by
    rw [State.pinned, hl] at hp
    dsimp only at hp
    split at hp
    · cases hp
    · assumption
  have hlaunch : (s.modLaunch launch fun l => { l with pins := l.pins ++ [⟨line, ws⟩] }).launch? launch
      = some { l with pins := l.pins ++ [⟨line, ws⟩] } := by
    rw [State.launch?, State.modLaunch, find?_modifyFirst (by simp)]
    rw [State.launch?] at hl
    rw [hl]
    rfl
  simp [State.pinned, hlaunch, List.find?_append, hnone]

/-- The first fill of a line brings it home and pins its words (03 R63). -/
theorem codeFill_eq {s : State} {launch pa : Nat} {line : DWord} (hp : s.pinned launch line = none)
    (hx : s.xlateLine line.toNat = .ok pa) : s.codeFill launch line =
      (s.bringHome (spanNat pa 128)).modLaunch launch fun l =>
        { l with pins := l.pins ++ [⟨line, wordsOf 32 ((spanNat pa 128).map (s.bringHome (spanNat pa 128)).homeByte)⟩] } := by
  simp [State.codeFill, hp, hx]

/-- A wait for a line of a launch. -/
def fillWait (launch : Nat) (line : DWord) (c : Cohort) : Wait → Bool
  | .fill l => c.launch == launch && l == line
  | _ => false

theorem fillWait_fill {launch : Nat} {line : DWord} {c : Cohort} (h : c.launch = launch) :
    fillWait launch line c (.fill line) = true := by
  simp [fillWait, h]

/-- A fill that has pinned its line wakes the strands that wait for it. -/
theorem execCodeFill_pinned {s : State} {launch : Nat} {line : DWord}
    (h : ((s.codeFill launch (lineOf line)).pinned launch (lineOf line)).isSome = true) :
    execCodeFill launch line s = .next ((s.codeFill launch (lineOf line)).wake (fillWait launch (lineOf line))) := by
  unfold execCodeFill
  dsimp only
  split
  · rw [if_pos h]
    rfl
  · rfl

theorem codeFill_due {launch : Nat} {line : DWord} {s : State} {d : Due}
    (hd : coreEvents s (.codeFill launch line) = some d) (hn : d.need) :
    ∃ t, exec (.codeFill launch line) s = .next t ∧ d.post t := by
  simp only [coreEvents] at hd
  split at hd
  · next pa hx =>
    obtain rfl := Option.some.inj hd
    obtain ⟨hl, hp⟩ := hn
    have ho := OnlyMem.bringHome s (spanNat pa 128)
    have hlaunches : (s.bringHome (spanNat pa 128)).launches = s.launches := by rw [ho.eq]
    have hpinned : (s.codeFill launch (lineOf line)).pinned launch (lineOf line)
        = some (wordsOf 32 ((spanNat pa 128).map (s.bringHome (spanNat pa 128)).homeByte)) := by
      rw [codeFill_eq hp hx]
      refine pinned_modLaunch ?_ ?_
      · rw [State.launch?, hlaunches]
        exact hl
      · rw [State.pinned_of_launches hlaunches]
        exact hp
    refine ⟨_, (exec_codeFill s launch line).trans (execCodeFill_pinned (by rw [hpinned]; rfl)), ?_, ?_, ?_⟩
    · rw [State.pinned_of_launches (State.wake_launches _ _), hpinned]
    · refine noneWaits_wake fun c f w hw => ?_
      obtain ⟨hc, rfl⟩ := hw
      exact fillWait_fill hc
    · rw [State.wake_mem, codeFill_eq hp hx]
      rfl
  · cases hd

end Sys2Proof.Machine

namespace Sys2Proof.Machine

open Sys2Proof.Claims

/-! ### What recalls and take-backs leave of cores and dies (10 R238, 11 R253) -/

/-- `u` has the cores and dies of `s`, each core with the miss-status entries it had. -/
structure KeepsMse (s u : State) : Prop where
  cores : u.cores.length = s.cores.length
  dies : u.dies.length = s.dies.length
  mse : ∀ k, (u.core k).mse = (s.core k).mse

theorem KeepsMse.refl (s : State) : KeepsMse s s := ⟨rfl, rfl, fun _ => rfl⟩

theorem KeepsMse.trans {s t u : State} (h : KeepsMse s t) (k : KeepsMse t u) : KeepsMse s u :=
  ⟨k.cores.trans h.cores, k.dies.trans h.dies, fun j => (k.mse j).trans (h.mse j)⟩

theorem KeepsMse.foldl {α : Type} (f : State → α → State) (hf : ∀ s a, KeepsMse s (f s a)) (l : List α) (s : State) :
    KeepsMse s (l.foldl f s) := by
  induction l generalizing s with
  | nil => exact KeepsMse.refl s
  | cons a l ih => exact (hf s a).trans (ih _)

theorem State.length_cores_modCore (s : State) (k : Nat) (f : Core → Core) :
    (s.modCore k f).cores.length = s.cores.length := by
  simp [modifyAt_eq_modify]

theorem KeepsMse.modCore (s : State) (k : Nat) (f : Core → Core) (hf : ∀ c, (f c).mse = c.mse) :
    KeepsMse s (s.modCore k f) := by
  refine ⟨State.length_cores_modCore s k f, rfl, fun j => ?_⟩
  rw [State.core_modCore]
  split
  · next h => rw [hf, h.1]
  · rfl

theorem KeepsMse.modL1 (s : State) (k : Nat) (g : Core → List L1Word) :
    KeepsMse s (s.modCore k fun c => { c with l1 := g c }) := KeepsMse.modCore s k _ fun _ => rfl

theorem KeepsMse.modUpd (s : State) (k : Nat) (g : Core → List UpdLine) :
    KeepsMse s (s.modCore k fun c => { c with upd := g c }) := KeepsMse.modCore s k _ fun _ => rfl

theorem KeepsMse.modDie (s : State) (k : Nat) (f : Die → Die) : KeepsMse s (s.modDie k f) :=
  ⟨rfl, State.length_dies_modDie s k f, fun _ => rfl⟩

theorem KeepsMse.homePut (s : State) (pa : Nat) (bs : List Byte) : KeepsMse s (s.homePut pa bs) :=
  ⟨rfl, rfl, fun _ => rfl⟩

theorem KeepsMse.writeBack (s : State) (k wa : Nat) : KeepsMse s (s.writeBack k wa) := by
  unfold State.writeBack
  split
  · split
    · exact (KeepsMse.homePut s _ _).trans (KeepsMse.modL1 _ _ _)
    · exact KeepsMse.refl s
  · exact KeepsMse.refl s

theorem KeepsMse.recall (s : State) (keep : Option Nat) (wa : Nat) : KeepsMse s (s.recall keep wa) :=
  KeepsMse.foldl _ (fun s k => (KeepsMse.writeBack s k wa).trans (KeepsMse.modL1 _ k _)) _ s

theorem KeepsMse.accAtHome (s : State) (pa op : Nat) (x : DWord) : KeepsMse s (s.accAtHome pa op x) := by
  have h := (KeepsMse.recall s none (pa / 4)).trans (KeepsMse.recall _ none ((pa + accBytes op - 1) / 4))
  unfold State.accAtHome
  dsimp only
  generalize (s.recall none (pa / 4)).recall none ((pa + accBytes op - 1) / 4) = u at h ⊢
  exact h.trans (KeepsMse.homePut _ _ _)

theorem KeepsMse.accAll (s : State) (sums : List PSum) :
    KeepsMse s (sums.foldl (fun s p => s.accAtHome p.pa p.op p.val) s) := by
  induction sums generalizing s with
  | nil => exact KeepsMse.refl s
  | cons p l ih =>
    rw [List.foldl_cons]
    exact (KeepsMse.accAtHome s p.pa p.op p.val).trans (ih _)

theorem KeepsMse.takeBack (s : State) (line : Nat) : KeepsMse s (s.takeBack line) := by
  unfold State.takeBack
  refine KeepsMse.foldl _ (fun s k => ?_) _ s
  have h := KeepsMse.accAll s (((s.core k).upd.filter (·.line == line)).flatMap (·.sums))
  dsimp only
  generalize List.foldl _ s _ = u at h ⊢
  exact (h.trans (KeepsMse.modUpd _ k _)).trans (KeepsMse.modDie _ _ _)

/-! ### Line fills (10 R236) -/

theorem State.core_modCore_self {s : State} {k : Nat} (h : k < s.cores.length) (f : Core → Core) :
    (s.modCore k f).core k = f (s.core k) := by
  rw [State.core_modCore, if_pos ⟨rfl, h⟩]

/-- Beyond the cores of the module stands the reset core. -/
theorem State.lt_cores {s : State} {k : Nat} (h : s.core k ≠ .reset) : k < s.cores.length := by
  refine Nat.lt_of_not_le fun hle => h ?_
  simp [State.core, List.getElem?_eq_none hle]

/-- A read's copy of one word that the L1 does not hold (10 R236). -/
def State.installWord (s : State) (core wa : Nat) : State :=
  if ((s.core core).l1Find wa).isSome || s.poisoned (4 * wa) then s
  else
    let v := if homeDie (4 * wa) = dieOf core then s.homeWord wa else (s.rdcWord (dieOf core) wa).getD (s.homeWord wa)
    s.modCore core fun c =>
      { c with l1 := { wa := wa, val := v, owned := false, dirty := false, since := s.cycle } :: c.l1 }

theorem installLine_eq (s : State) (core line : Nat) : s.installLine core line
    = (spanNat (32 * line) 32).foldl (fun s wa => s.installWord core wa) (s.takeBack line) := rfl

theorem KeepsMse.installWord (s : State) (core wa : Nat) : KeepsMse s (s.installWord core wa) := by
  unfold State.installWord
  split
  · exact KeepsMse.refl s
  · exact KeepsMse.modL1 _ _ _

theorem poisoned_of_onlyMem {s u : State} (h : OnlyMem s u) (pa : Nat) : u.poisoned pa = s.poisoned pa := by
  rw [h.eq]
  rfl

theorem OnlyMem.installWord (s : State) (core wa : Nat) : OnlyMem s (s.installWord core wa) := by
  unfold State.installWord
  split
  · exact OnlyMem.refl s
  · exact OnlyMem.modCore _ _ _

/-- A word once held stays held while the others are installed. -/
theorem installWord_holds {s : State} {core wa wb : Nat} (h : ((s.core core).l1Find wb).isSome = true) :
    (((s.installWord core wa).core core).l1Find wb).isSome = true := by
  unfold State.installWord
  split
  · exact h
  · dsimp only
    rw [State.core_modCore]
    split
    · simp only [Core.l1Find, List.find?_cons]
      split
      · rfl
      · exact h
    · exact h

theorem installWord_installs {s : State} {core wa : Nat} (hk : core < s.cores.length)
    (hp : s.poisoned (4 * wa) = false) : (((s.installWord core wa).core core).l1Find wa).isSome = true := by
  unfold State.installWord
  split
  · next h => simpa [hp] using h
  · rw [State.core_modCore_self hk]
    simp [Core.l1Find]

theorem foldl_installWord_holds {s : State} {core wb : Nat} (h : ((s.core core).l1Find wb).isSome = true)
    (l : List Nat) : (((l.foldl (fun s wa => s.installWord core wa) s).core core).l1Find wb).isSome = true := by
  induction l generalizing s with
  | nil => exact h
  | cons wa l ih => exact ih (installWord_holds h)

theorem foldl_installWord_installs {s : State} {core wb : Nat} (hk : core < s.cores.length)
    (hp : s.poisoned (4 * wb) = false) {l : List Nat} (hl : wb ∈ l) :
    (((l.foldl (fun s wa => s.installWord core wa) s).core core).l1Find wb).isSome = true := by
  induction l generalizing s with
  | nil => cases hl
  | cons wa l ih =>
    rcases List.mem_cons.mp hl with rfl | hl
    · exact foldl_installWord_holds (installWord_installs hk hp) l
    · refine ih ?_ ?_ hl
      · rw [(KeepsMse.installWord s core wa).cores]
        exact hk
      · rw [poisoned_of_onlyMem (OnlyMem.installWord s core wa)]
        exact hp

theorem OnlyMem.installLine (s : State) (core line : Nat) : OnlyMem s (s.installLine core line) :=
  (OnlyMem.takeBack s line).trans (OnlyMem.foldl _ (fun s wa => OnlyMem.installWord s core wa) _ _)

theorem KeepsMse.installLine (s : State) (core line : Nat) : KeepsMse s (s.installLine core line) :=
  (KeepsMse.takeBack s line).trans (KeepsMse.foldl _ (fun s wa => KeepsMse.installWord s core wa) _ _)

theorem mem_spanNat {lo n k : Nat} : k ∈ spanNat lo n ↔ lo ≤ k ∧ k < lo + n := by
  simp only [spanNat, List.mem_map, List.mem_range]
  constructor
  · rintro ⟨j, hj, rfl⟩
    omega
  · rintro ⟨h1, h2⟩
    exact ⟨k - lo, by omega, by omega⟩

/-- After a read's fill the L1 holds every word of the line that is not poisoned. -/
theorem installLine_installs {s : State} {core line wa : Nat} (hk : core < s.cores.length) (hw : wa / 32 = line)
    (hp : (s.installLine core line).poisoned (4 * wa) = false) :
    (((s.installLine core line).core core).l1Find wa).isSome = true := by
  rw [installLine_eq]
  refine foldl_installWord_installs ?_ ?_ (mem_spanNat.mpr (by omega))
  · rw [(KeepsMse.takeBack s line).cores]
    exact hk
  · rw [poisoned_of_onlyMem (OnlyMem.takeBack s line), ← poisoned_of_onlyMem (OnlyMem.installLine s core line)]
    exact hp

theorem lineFill_due {core line : Nat} {s : State} {d : Due} (hd : coreEvents s (.lineFill core line) = some d)
    (hn : d.need) : ∃ t, exec (.lineFill core line) s = .next t ∧ d.post t := by
  obtain ⟨m, hm, hd⟩ := Option.bind_eq_some_iff.mp hd
  obtain rfl := Option.some.inj hd
  have hk : core < s.cores.length := State.lt_cores fun h => by
    rw [h] at hm
    cases hm
  generalize hu : (s.modCore core fun c => { c with mse := dropFirst (·.line == line) c.mse }) = u
  have humse : (u.core core).mse = dropFirst (·.line == line) (s.core core).mse := by
    rw [← hu, State.core_modCore_self hk]
  have hlen : core < u.cores.length := by
    rw [← hu, State.length_cores_modCore]
    exact hk
  refine ⟨if m.read then u.installLine core line else u, ?_, ?_, fun hread wa hwa hp => ?_⟩
  · rw [exec_lineFill, execLineFill, hm, ← hu]
  · rw [← humse]
    split
    · exact (KeepsMse.installLine u core line).mse core
    · rfl
  · rw [if_pos hread] at hp ⊢
    exact installLine_installs hlen hwa hp

/-! ### Fills of the RDC (11 R255, 21 R416) -/

theorem State.slice_modSlice_self {s : State} {k : Nat} (h : k < s.slices.length) (f : Slice → Slice) :
    (s.modSlice k f).slice k = f (s.slice k) := by
  simp [State.slice, State.modSlice, modifyAt_eq_modify, h]

theorem State.slice_modDie (s : State) (k j : Nat) (f : Die → Die) : (s.modDie j f).slice k = s.slice k := rfl

/-- The slices of the package have the numbers below 96 (10 R237). -/
theorem sliceOf_lt (pa : Nat) : sliceOf pa < 96 := by
  unfold sliceOf homeDie
  split <;> omega

theorem rdcFill_due {die line : Nat} {s : State} {d : Due} (hd : coreEvents s (.rdcFill die line) = some d)
    (hn : d.need) : ∃ t, exec (.rdcFill die line) s = .next t ∧ d.post t := by
  obtain rfl := Option.some.inj hd
  obtain ⟨⟨l, hl, hline, hwords⟩, hslices⟩ := hn
  have hany : (s.die die).rdc.any (fun l => l.line == line && l.words.isNone) = true :=
    List.any_eq_true.mpr ⟨l, hl, by simp [hline, hwords]⟩
  have hdie : die < s.dies.length := State.lt_dies fun h => by
    rw [h] at hl
    cases hl
  have ho := OnlyMem.takeBack s line
  have hk := KeepsMse.takeBack s line
  have htime : (s.takeBack line).time = s.time := by rw [ho.eq]
  have hs : (s.takeBack line).slices = s.slices := by rw [ho.eq]
  rw [exec_rdcFill, execRdcFill, hany]
  dsimp only
  rw [htime]
  generalize s.takeBack line = v at hk hs ⊢
  have hslice : sliceOf (128 * line) < v.slices.length := by
    rw [hs, hslices]
    exact sliceOf_lt _
  refine ⟨_, rfl, rfl, ?_, ?_⟩
  · rw [State.slice_modDie, State.slice_modSlice_self hslice]
    exact ⟨_, List.find?_cons_of_pos (by simp), Nat.le_max_left _ _⟩
  · rw [State.die_modDie_self (by rw [State.modSlice_dies, hk.dies]; exact hdie)]
    rfl

end Sys2Proof.Machine

namespace Sys2Proof.Machine

open Sys2Proof.Claims

/-! ### Words at their homes (00 R3, 10 R237) -/

theorem Mem.get_write {blank : Byte} {m : Mem} {a j : Nat} {bs : List Byte} (hm : Mem.wf blank m = true) :
    Mem.get blank (Mem.write blank m a bs) j = if a ≤ j then bs.getD (j - a) (Mem.get blank m j) else Mem.get blank m j := by
  induction bs generalizing m a with
  | nil => simp [Mem.write]
  | cons b bs ih =>
    rw [Mem.write, ih (Mem.wf_set hm), Mem.get_set hm]
    rcases Nat.lt_trichotomy j a with h | rfl | h
    · simp [show ¬ a + 1 ≤ j by omega, show ¬ a ≤ j by omega, show j ≠ a by omega]
    · simp [show ¬ j + 1 ≤ j by omega]
    · simp [show a + 1 ≤ j by omega, show a ≤ j by omega, show j ≠ a by omega, show j - a = (j - (a + 1)) + 1 by omega]

theorem natOf_bytesOf (n x : Nat) : natOf (bytesOf n x) = x % 256 ^ n := by
  induction n generalizing x with
  | zero => simp [bytesOf, natOf, Nat.mod_one]
  | succ n ih =>
    rw [bytesOf, natOf, ih, BitVec.toNat_ofNat, Nat.pow_succ' (m := 256), Nat.mod_mul]

theorem wordOf_bytesOf (v : Word) : wordOf (bytesOf 4 v.toNat) = v := by
  rw [wordOf, natOf_bytesOf]
  bv_omega

theorem homeRead_four (s : State) (pa : Nat) :
    s.homeRead pa 4 = [s.homeByte pa, s.homeByte (pa + 1), s.homeByte (pa + 2), s.homeByte (pa + 3)] := rfl

theorem homeByte_homePut {s : State} (hm : Mem.wf Config.blankByte s.mem = true) (a j : Nat) (bs : List Byte) :
    (s.homePut a bs).homeByte j = if a ≤ j then bs.getD (j - a) (s.homeByte j) else s.homeByte j := Mem.get_write hm

/-- A word written at its home is read there, and the other words are as they were. -/
theorem homeWord_homePut {s : State} (hm : Mem.wf Config.blankByte s.mem = true) (wa wb : Nat) (v : Word) :
    (s.homePut (4 * wa) (bytesOf 4 v.toNat)).homeWord wb = if wb = wa then v else s.homeWord wb := by
  split
  · next h =>
    subst h
    refine Eq.trans ?_ (wordOf_bytesOf v)
    rw [State.homeWord, homeRead_four]
    simp [homeByte_homePut hm, bytesOf]
  · next h =>
    have hlen : (bytesOf 4 v.toNat).length = 4 := rfl
    have hbyte : ∀ i < 4, (s.homePut (4 * wa) (bytesOf 4 v.toNat)).homeByte (4 * wb + i) = s.homeByte (4 * wb + i) := by
      intro i hi
      rw [homeByte_homePut hm]
      split
      · rw [List.getD_eq_getElem?_getD, List.getElem?_eq_none (by omega)]
        rfl
      · rfl
    rw [State.homeWord, State.homeWord, homeRead_four, homeRead_four, hbyte 1 (by omega), hbyte 2 (by omega),
      hbyte 3 (by omega), show s.homeByte (4 * wb) = s.homeByte (4 * wb + 0) from rfl, ← hbyte 0 (by omega)]
    rfl

/-! ### The L1's write-back timer (11 R253) -/

/-- No word stands twice in the core's L1. -/
def State.l1Distinct (s : State) (k : Nat) : Prop := ((s.core k).l1.map (·.wa)).Nodup

/-- Elements of a list with distinct images are the same when their images are. -/
theorem eq_of_nodup_map {α β : Type} {f : α → β} {l : List α} (h : (l.map f).Nodup) {x y : α} (hx : x ∈ l) (hy : y ∈ l)
    (he : f x = f y) : x = y := by
  induction l with
  | nil => cases hx
  | cons a l ih =>
    rw [List.map_cons, List.nodup_cons] at h
    obtain ⟨ha, hl⟩ := h
    rcases List.mem_cons.mp hx with rfl | hxl <;> rcases List.mem_cons.mp hy with rfl | hyl
    · rfl
    · exact absurd (he ▸ List.mem_map_of_mem hyl) ha
    · exact absurd (he ▸ List.mem_map_of_mem hxl) ha
    · exact ih hl hxl hyl

theorem State.l1Distinct.eq {s : State} {k : Nat} (h : s.l1Distinct k) {w x : L1Word} (hw : w ∈ (s.core k).l1)
    (hx : x ∈ (s.core k).l1) (he : w.wa = x.wa) : w = x := eq_of_nodup_map h hw hx he

/-- What a write-back leaves of a word of the L1: the words of that number are clean. -/
def L1Word.cleanAt (wa : Nat) (w : L1Word) : L1Word := if w.wa == wa then { w with dirty := false } else w

theorem L1Word.wa_cleanAt (wa : Nat) (w : L1Word) : (w.cleanAt wa).wa = w.wa := by
  unfold L1Word.cleanAt
  split <;> rfl

theorem L1Word.cleanAt_same (w : L1Word) : w.cleanAt w.wa = { w with dirty := false } := by
  simp [L1Word.cleanAt]

theorem L1Word.cleanAt_other {wa : Nat} {w : L1Word} (h : w.wa ≠ wa) : w.cleanAt wa = w := by
  simp [L1Word.cleanAt, h]

/-- A write-back finds no owned dirty word of its number and does nothing, or it puts that word at its home and leaves
it clean. -/
theorem writeBack_cases {s : State} {k wa : Nat} (hd : s.l1Distinct k) :
    (s.writeBack k wa = s ∧ ∀ w ∈ (s.core k).l1, w.owned = true → w.dirty = true → w.wa ≠ wa) ∨
    ∃ x ∈ (s.core k).l1, x.wa = wa ∧ x.owned = true ∧ x.dirty = true
      ∧ ((s.writeBack k wa).core k).l1 = (s.core k).l1.map (·.cleanAt wa)
      ∧ (s.writeBack k wa).mem = (s.homePut (4 * wa) (bytesOf 4 x.val.toNat)).mem := by
  unfold State.writeBack
  split
  · next x hx =>
    have hmem := List.mem_of_find?_eq_some hx
    have hwa : x.wa = wa := by simpa using List.find?_some hx
    split
    · next hod =>
      obtain ⟨ho, hdirty⟩ := Bool.and_eq_true_iff.mp hod
      refine .inr ⟨x, hmem, hwa, ho, hdirty, ?_, rfl⟩
      have hk : k < s.cores.length := State.lt_cores fun h => by
        rw [h] at hmem
        cases hmem
      rw [State.core_modCore_self (s := s.homePut _ _) hk]
      rfl
    · next hod =>
      refine .inl ⟨rfl, fun w hw ho hdirty he => hod ?_⟩
      rw [← hd.eq hw hmem (he.trans hwa.symm), ho, hdirty]
      rfl
  · next hnone =>
    exact .inl ⟨rfl, fun w hw _ _ he => by simpa [he] using List.find?_eq_none.mp hnone w hw⟩

theorem writeBack_l1Distinct {s : State} {k wa : Nat} (hd : s.l1Distinct k) : (s.writeBack k wa).l1Distinct k := by
  obtain ⟨h, -⟩ | ⟨x, -, -, -, -, hl1, -⟩ := writeBack_cases (wa := wa) hd
  · rwa [h]
  · rw [State.l1Distinct, hl1, List.map_map]
    rwa [show (·.wa) ∘ (L1Word.cleanAt wa ·) = (·.wa) from funext (L1Word.wa_cleanAt wa)]

theorem writeBack_wf {s : State} {k wa : Nat} (hd : s.l1Distinct k) (hm : Mem.wf Config.blankByte s.mem = true) :
    Mem.wf Config.blankByte (s.writeBack k wa).mem = true := by
  obtain ⟨h, -⟩ | ⟨x, -, -, -, -, -, hmem⟩ := writeBack_cases (wa := wa) hd
  · rwa [h]
  · rw [hmem]
    exact Mem.wf_write hm

/-- The words that stay dirty were dirty before, and have other numbers. -/
theorem dirty_of_writeBack {s : State} {k wa : Nat} (hd : s.l1Distinct k) {w : L1Word}
    (hw : w ∈ ((s.writeBack k wa).core k).l1) (ho : w.owned = true) (hdirty : w.dirty = true) :
    w ∈ (s.core k).l1 ∧ w.wa ≠ wa := by
  obtain ⟨h, hnone⟩ | ⟨x, -, -, -, -, hl1, -⟩ := writeBack_cases (wa := wa) hd
  · rw [h] at hw
    exact ⟨hw, hnone w hw ho hdirty⟩
  · rw [hl1] at hw
    obtain ⟨y, hy, rfl⟩ := List.mem_map.mp hw
    by_cases hya : y.wa = wa
    · subst hya
      rw [L1Word.cleanAt_same] at hdirty
      cases hdirty
    · rw [L1Word.cleanAt_other hya]
      exact ⟨hy, hya⟩

/-- A word of the core's L1 is not lost: it still stands there as it was, or it is clean and at its home. -/
def L1Word.Kept (w : L1Word) (s : State) (k : Nat) : Prop :=
  w ∈ (s.core k).l1 ∨ { w with dirty := false } ∈ (s.core k).l1 ∧ s.homeWord w.wa = w.val

theorem homeWord_of_mem {s u : State} (h : u.mem = s.mem) (wa : Nat) : u.homeWord wa = s.homeWord wa := by
  simp only [State.homeWord, homeRead_four, State.homeByte, h]

theorem kept_writeBack {s : State} {k wa : Nat} (hd : s.l1Distinct k) (hm : Mem.wf Config.blankByte s.mem = true)
    {w : L1Word} (hw : w.Kept s k) : w.Kept (s.writeBack k wa) k := by
  obtain ⟨h, -⟩ | ⟨x, hx, hxa, -, hxd, hl1, hmem⟩ := writeBack_cases (wa := wa) hd
  · rwa [h]
  · have hhome := (homeWord_of_mem hmem w.wa).trans (homeWord_homePut hm wa w.wa x.val)
    unfold L1Word.Kept
    rw [hl1, hhome]
    by_cases hwa : w.wa = wa
    · rw [if_pos hwa]
      rcases hw with hw | ⟨hw, -⟩
      · obtain rfl := hd.eq hw hx (hwa.trans hxa.symm)
        exact .inr ⟨List.mem_map.mpr ⟨w, hw, by rw [← hwa, L1Word.cleanAt_same]⟩, rfl⟩
      · rw [← hd.eq hw hx (hwa.trans hxa.symm)] at hxd
        cases hxd
    · rw [if_neg hwa]
      rcases hw with hw | ⟨hw, hv⟩
      · exact .inl (List.mem_map.mpr ⟨w, hw, L1Word.cleanAt_other hwa⟩)
      · exact .inr ⟨List.mem_map.mpr ⟨_, hw, L1Word.cleanAt_other (w := { w with dirty := false }) hwa⟩, hv⟩

/-- After write-backs of numbers, the owned words that are dirty were so before and have other numbers, and no word is
lost. -/
theorem foldl_writeBack {k : Nat} {s : State} (hd : s.l1Distinct k) (hm : Mem.wf Config.blankByte s.mem = true)
    (was : List Nat) :
    (∀ w ∈ ((was.foldl (fun s wa => s.writeBack k wa) s).core k).l1, w.owned = true → w.dirty = true →
      w ∈ (s.core k).l1 ∧ w.wa ∉ was) ∧
    ∀ w : L1Word, w.Kept s k → w.Kept (was.foldl (fun s wa => s.writeBack k wa) s) k := by
  induction was generalizing s with
  | nil => exact ⟨fun w hw _ _ => ⟨hw, List.not_mem_nil⟩, fun _ h => h⟩
  | cons wa was ih =>
    obtain ⟨hdirty, hkept⟩ := ih (writeBack_l1Distinct (wa := wa) hd) (writeBack_wf (wa := wa) hd hm)
    refine ⟨fun w hw ho hdw => ?_, fun w hw => hkept w (kept_writeBack hd hm hw)⟩
    obtain ⟨hw1, hnot⟩ := hdirty w hw ho hdw
    obtain ⟨hw0, hne⟩ := dirty_of_writeBack hd hw1 ho hdw
    exact ⟨hw0, List.not_mem_cons_of_ne_of_not_mem hne hnot⟩

/-- A release leaves no owned word dirty. -/
theorem releaseL1_clean {s : State} {k : Nat} (hd : s.l1Distinct k) (hm : Mem.wf Config.blankByte s.mem = true)
    {w : L1Word} (hw : w ∈ ((s.releaseL1 k).core k).l1) (ho : w.owned = true) : w.dirty = false := by
  refine Bool.eq_false_iff.mpr fun hdirty => ?_
  obtain ⟨hw0, hnot⟩ := (foldl_writeBack hd hm _).1 w hw ho hdirty
  exact hnot (List.mem_map_of_mem (List.mem_filter.mpr ⟨hw0, by rw [ho, hdirty]; rfl⟩))

theorem l1WritebackTimer_due {core : Nat} {s : State} {d : Due} (hd : coreEvents s (.l1WritebackTimer core) = some d)
    (hn : d.need) : ∃ t, exec (.l1WritebackTimer core) s = .next t ∧ d.post t := by
  obtain rfl := Option.some.inj hd
  obtain ⟨⟨hm, -⟩, hdist⟩ := hn
  refine ⟨s.releaseL1 core, exec_l1WritebackTimer s core, fun w hw ho => releaseL1_clean hdist hm hw ho,
    fun w hw ho hdirty => ?_⟩
  rcases (foldl_writeBack hdist hm _).2 w (.inl hw) with h | ⟨-, h⟩
  · rw [releaseL1_clean hdist hm h ho] at hdirty
    cases hdirty
  · exact h

end Sys2Proof.Machine

/-! The theorem of the table has the table's name, so it stands in a namespace of its own. -/

namespace Sys2Proof.Machine.CoreMoves

/-- Settles O47: each event of the table has a lemma `…_due` above, and no other instruction has an entry. -/
theorem coreEvents : Obligations.CoreEvents := by
  unfold Obligations.CoreEvents
  intro i s d hd hn
  cases i with
  | stallCycle co => exact stallCycle_due hd hn
  | resultLanding => exact resultLanding_due hd hn
  | checkMismatch => exact checkMismatch_due hd hn
  | lateFault => exact lateFault_due hd hn
  | pageWalk => exact pageWalk_due hd hn
  | codeFill => exact codeFill_due hd hn
  | lineFill => exact lineFill_due hd hn
  | storeAck => exact storeAck_due hd hn
  | horizonPassed => exact horizonPassed_due hd hn
  | rdcFill => exact rdcFill_due hd hn
  | l1WritebackTimer => exact l1WritebackTimer_due hd hn
  | updateOnlyRequest => exact updateOnlyRequest_due hd hn
  | accWindowRollover => exact accWindowRollover_due hd hn
  | eddyAgeExpiry => exact eddyAgeExpiry_due hd hn
  | forcedDelivery => exact forcedDelivery_due hd hn
  | storeArrival => exact storeArrival_due hd hn
  | linkEntryArrival => exact linkEntryArrival_due hd hn
  | reportDelivery => exact reportDelivery_due hd hn
  | _ => cases hd

end Sys2Proof.Machine.CoreMoves

namespace Sys2Proof.Machine

open Sys2Proof.Claims

/-! ### Trapped flags (02 R41) -/

/-- The records of an effect that has room for them fit below LIM, or the mode records nothing (01 R17, R29). -/
theorem Effect.fits {e : Effect} {s : State} {n : Nat} (hf : e.Fresh s) (hr : s.Room e.post n) (hn : e.bytes s ≤ n)
    (next : DWord) : (!s.co.special && decide ((e.pushed s next).lim < (e.pushed s next).wheyt)) = false := by
  obtain ⟨hlim, -⟩ := e.pushed_fields s next
  have hpushed := e.wheyt_pushed s next
  have hpost : e.post.co.wheyt = s.co.wheyt := by rw [Cohort.wheyt, hf.whey, Cohort.wheyt]
  rcases hr.limit with h | h
  · rw [h]
    rfl
  · rw [decide_eq_false (by omega), Bool.and_false]

/-- An instruction with room for its records that raises a trapped flag raises cause 0x1E and does not complete. -/
theorem tryComplete_trapped {e : Effect} {s : State} {n : Nat} (hf : e.Fresh s) (hr : s.Room e.post n)
    (hn : e.bytes s ≤ n) (ht : trappedFlags s.co.fmode e.flags ≠ 0) (next : DWord) :
    s.tryComplete e next
      = .error (s.raise (trapOf 0x1E 0 ((trappedFlags s.co.fmode e.flags).setWidth 64))) := by
  simp only [State.tryComplete, e.fits hf hr hn, Bool.false_eq_true, if_false, bne_iff_ne.mpr ht, if_true]

/-- Logging a read of package time keeps an effect fresh, and its room. -/
theorem Effect.logTime_keeps {e : Effect} {s : State} {n : Nat} (hf : e.Fresh s) (hr : s.Room e.post n) (i : Instr) :
    ({ e with post := e.post.logTime i } : Effect).Fresh s ∧ s.Room (e.post.logTime i) n := by
  obtain ⟨d, hd, -⟩ := logTime_eq e.post i
  rw [hd]
  refine ⟨⟨hf.whey, hf.wheyWb, hf.wheyBase, hf.core, hf.pc, hf.icnt, hf.floor⟩,
    hr.limit, hr.writeBack.imp id fun h => ⟨h.1, fun k m hk => ?_⟩⟩
  obtain ⟨pas, hp⟩ := h.2 k m hk
  exact ⟨pas, (walkRun_co e.post e.post.co d .write none _).trans hp⟩

theorem issueSeq_trapped {i : Instr} {act : State → Act} {s : State} {e : Effect} {n : Nat} (hc : s.Clear i)
    (ha : act s = .done e) (hf : e.Fresh s) (hr : s.Room e.post n) (hn : e.bytes s ≤ n)
    (ht : trappedFlags s.co.fmode e.flags ≠ 0) :
    issueSeq i act s = .next (s.raise (trapOf 0x1E 0 ((trappedFlags s.co.fmode e.flags).setWidth 64))) := by
  obtain ⟨hf', hr'⟩ := e.logTime_keeps hf hr i
  rw [issueSeq_concludes hc, ha]
  simp only [State.conclude, State.complete,
    tryComplete_trapped (e := { e with post := e.post.logTime i }) hf' hr' hn ht]

/-- The same for an instruction that writes one vector register. -/
theorem laneWrite_trapped {i : Instr} {act : State → Act} {s : State} {d : Nat} {f : Nat → Word} {ci : Nat → Bool}
    {fl : Flags} (hc : s.Clear i) (hr : s.Room s 428) (ha : act s = .done (laneWrite s d (laneVals f) ci fl))
    (ht : trappedFlags s.co.fmode fl ≠ 0) :
    issueSeq i act s = .next (s.raise (trapOf 0x1E 0 ((trappedFlags s.co.fmode fl).setWidth 64))) :=
  issueSeq_trapped (e := laneWrite s d (laneVals f) ci fl) (n := 428) hc ha ⟨rfl, rfl, rfl, rfl, rfl, rfl, rfl⟩
    (Room.ofCo hr (s.writeV d s.co.st.mask (laneVals f)).co rfl rfl) (laneWrite_bytes s d _ ci fl) ht

/-! ### The tables of the lane instructions that raise flags or cross lanes (05 R125, R127, R128, R130-R138, R140) -/

/-- The instruction goes on in sequence, and its own rules write the destination, values and flags of a table's entry, when
there is one, with every lane class D. -/
def WritesLanes (i : Instr) (s : State) (entry : Option (Nat × (Nat → Word) × Flags)) : Prop :=
  ∀ d f fl, entry = some (d, f, fl) →
    ∃ act : State → Act, exec i s = issueSeq i act s ∧ act s = .done (laneWriteD s d (laneVals f) fl)

theorem writesLanes_none (i : Instr) (s : State) : WritesLanes i s none :=
  fun _ _ _ h => nomatch h

section

/-! One lemma per shape of a lane instruction. The entry stands in an equation, so that the shape of the instruction's
meaning, not the entry, decides the function of the lanes. -/

variable {i : Instr} {s : State} {entry : Option (Nat × (Nat → Word) × Flags)}

theorem writesLanes_some {act : State → Act} {d : Nat} {f : Nat → Word} {fl : Flags}
    (he : exec i s = issueSeq i act s) (ha : act s = .done (laneWriteD s d (laneVals f) fl))
    (ht : entry = some (d, f, fl)) : WritesLanes i s entry := by
  intro d' f' fl' h
  obtain ⟨rfl, rfl, rfl⟩ : d = d' ∧ f = f' ∧ fl = fl' := by simpa [ht] using h
  exact ⟨act, he, ha⟩

theorem writesLanes_lane2f {o : LForm} {g : Word → Word → Word → Word × Flags} (he : exec i s = lane2f i o g s)
    (ht : entry = flagged s o.d fun k => g s.co.fmode (s.co.vlane o.a.toNat k) (wordAt (s.laneSrc o.b o.lit) k)) :
    WritesLanes i s entry :=
  writesLanes_some he rfl ht

theorem writesLanes_lane2qf {o : LqForm} {g : Word → Word → Word → Word × Flags} (he : exec i s = lane2qf i o g s)
    (ht : entry = flagged s o.d fun k => g s.co.fmode (s.quad o k).1 (s.quad o k).2.1) : WritesLanes i s entry :=
  writesLanes_some he rfl ht

theorem writesLanes_lane1qf {o : LqForm} {g : Word → Word → Word × Flags} (he : exec i s = lane1qf i o g s)
    (ht : entry = flagged s o.d fun k => g s.co.fmode (s.quad o k).1) : WritesLanes i s entry :=
  writesLanes_some he rfl ht

theorem writesLanes_lane4f {o : LqForm} {g : Word → Word → Word → Word → Word → Word × Flags}
    (he : exec i s = lane4f i o g s)
    (ht : entry = flagged s o.d fun k =>
      g s.co.fmode (s.quad o k).1 (s.quad o k).2.1 (s.quad o k).2.2.1 (s.quad o k).2.2.2) :
    WritesLanes i s entry :=
  writesLanes_some he rfl ht

/-- A packed operation: the entry has its integer rule, and its floating rule at the element type's format (05 R130). -/
theorem writesLanes_packedOp {o : LqForm} {fi : Int → Int → Int}
    {ff : Fmt → Nat → Bool → Nat → Nat → Nat → Nat × Flags} (he : exec i s = packedOp i o fi ff s)
    (ht : entry = packed s o fi (ff (etFmt o.et))) : WritesLanes i s entry :=
  writesLanes_lane4f he ht

theorem writesLanes_packedBits {o : LqForm} {f : Nat → Nat → Nat} (he : exec i s = packedBits i o f s)
    (ht : entry = fl4 s o fun _ _ a b c _ => packedW o.et (fun x y _ => (f x y, 0)) a b c) : WritesLanes i s entry :=
  writesLanes_lane4f he ht

/-- A lane beyond its segment or not active is one that is not both in its segment and active. -/
theorem shuffle_choice (m : LaneSet) (bound j : Nat) (x y : Word) :
    (if bound ≤ j || !m.getLsbD j then y else x) = if j < bound ∧ m.getLsbD j then x else y := by
  by_cases h : j < bound ∧ m.getLsbD j
  · simp [h, Nat.not_le.mpr h.1]
  · rw [if_neg h, if_pos]
    simpa [Classical.or_iff_not_imp_left] using h

theorem writesLanes_shuffle {o : LqForm} {src : Nat → Nat → Nat → Option Nat} (he : exec i s = shuffle i o src s) :
    WritesLanes i s (shuffled s o src) := by
  refine writesLanes_some he ?_ rfl
  simp only [shuffle_choice]
  rfl

end

theorem laneFloat_writes (i : Instr) (s : State) : WritesLanes i s (laneFloat s i) := by
  cases i with
  | fadd o => exact writesLanes_lane2f (exec_fadd s o) rfl
  | fsub o => exact writesLanes_lane2f (exec_fsub s o) rfl
  | fmul o => exact writesLanes_lane2f (exec_fmul s o) rfl
  | fmin o => exact writesLanes_lane2f (exec_fmin s o) rfl
  | fmax o => exact writesLanes_lane2f (exec_fmax s o) rfl
  | fscale o => exact writesLanes_lane2f (exec_fscale s o) rfl
  | ffma o => exact writesLanes_lane4f (exec_ffma s o) rfl
  | ffma3 o => exact writesLanes_lane4f (exec_ffma3 s o) rfl
  | frint o => exact writesLanes_lane1qf (exec_frint s o) rfl
  | fcmp o => exact writesLanes_lane2qf (exec_fcmp s o) rfl
  | _ => exact writesLanes_none _ s

theorem lanePacked_writes (i : Instr) (s : State) : WritesLanes i s (lanePacked s i) := by
  cases i with
  | padd o => exact writesLanes_packedOp (exec_padd s o) rfl
  | psub o => exact writesLanes_packedOp (exec_psub s o) rfl
  | pmul o => exact writesLanes_packedOp (exec_pmul s o) rfl
  | pfma o => exact writesLanes_packedOp (exec_pfma s o) rfl
  | pmin o => exact writesLanes_packedOp (exec_pmin s o) rfl
  | pmax o => exact writesLanes_packedOp (exec_pmax s o) rfl
  | pabs o => exact writesLanes_packedOp (exec_pabs s o) rfl
  | pneg o => exact writesLanes_packedOp (exec_pneg s o) rfl
  | pavg o => exact writesLanes_packedOp (exec_pavg s o) rfl
  | pshl o =>
    refine writesLanes_lane4f (by rw [exec_pshl, execPshl]) ?_
    cases hsat : o.sat <;> simp [lanePacked, fl4, hsat, etFit]
  | pshr o => exact writesLanes_packedBits (exec_pshr s o) rfl
  | psar o => exact writesLanes_packedBits (exec_psar s o) rfl
  | pcmp o =>
    refine writesLanes_lane4f (by rw [exec_pcmp, execPcmp]) ?_
    cases hfloat : etFloat o.et <;> simp [lanePacked, fl4, hfloat]
  | pdot o => exact writesLanes_lane4f (exec_pdot s o) rfl
  | psad o => exact writesLanes_lane4f (exec_psad s o) rfl
  | _ => exact writesLanes_none _ s

theorem etCvt_eq (et : Nat) : etCvt et = if et = 6 then 4 else 3 := by
  simp [etCvt]

theorem laneConvert_writes (i : Instr) (s : State) : WritesLanes i s (laneConvert s i) := by
  cases i with
  | cvt o => exact writesLanes_lane1qf (exec_cvt s o) rfl
  | pack o => exact writesLanes_lane4f (exec_pack s o) (by simp only [laneConvert, fl4, etCvt_eq]; rfl)
  | unpk o => exact writesLanes_lane1qf (exec_unpk s o) (by simp only [laneConvert, fl4, etCvt_eq]; rfl)
  | qblk o => exact writesLanes_some (exec_qblk s o) rfl rfl
  | dqblk o => exact writesLanes_lane1qf (exec_dqblk s o) rfl
  | _ => exact writesLanes_none _ s

theorem laneCross_writes (i : Instr) (s : State) : WritesLanes i s (laneCross s i) := by
  cases i with
  | shfl o => exact writesLanes_shuffle (exec_shfl s o)
  | shflx o => exact writesLanes_shuffle (exec_shflx s o)
  | shflu o => exact writesLanes_shuffle (exec_shflu s o)
  | shfld o => exact writesLanes_shuffle (exec_shfld s o)
  | scan o => exact writesLanes_some (exec_scan s o) rfl rfl
  | _ => exact writesLanes_none _ s

/-- Settles O24: each entry of the four tables is a vector write with the entry's flags, and such a write raises the
cause when one of them is trapped. -/
theorem trappedFlag : Obligations.TrappedFlag := by
  unfold Obligations.TrappedFlag
  intro i s d f fl h hc hr ht
  have hw : WritesLanes i s (some (d, f, fl)) := by
    rcases h with h | h | h | h
    · exact h ▸ laneFloat_writes i s
    · exact h ▸ lanePacked_writes i s
    · exact h ▸ laneConvert_writes i s
    · exact h ▸ laneCross_writes i s
  obtain ⟨act, he, ha⟩ := hw d f fl rfl
  rw [he]
  exact laneWrite_trapped hc hr ha ht

end Sys2Proof.Machine

/-! The words of an instruction: decoder and encoder (03 R60-R74). -/

namespace Sys2Proof

/-! ### The fields of an instruction's words (03 R67, R71)

A word is a concatenation. `Nat.reduceAdd` stays off where a proof takes one apart: it would rewrite the width, and the
lemmas about `++` would no longer match. -/

/-- A bit as the field of one bit. -/
theorem ofBool_getLsbD {n : Nat} (w : BitVec n) (i : Nat) : BitVec.ofBool (w.getLsbD i) = w.extractLsb' i 1 := by
  apply BitVec.eq_of_getLsbD_eq
  intro j hj
  obtain rfl : j = 0 := by omega
  simp

section
variable (s : Bool) (op : BitVec 8) (d a : BitVec 7) (b : BitVec 8)

@[simp] theorem laneWord_bit31 : (laneWord s op d a b)[31] = false := by
  rw [← BitVec.getLsbD_eq_getElem]
  simp [-Nat.reduceAdd, -BitVec.getLsbD_eq_getElem, laneWord, BitVec.getLsbD_append]

@[simp] theorem laneWord_marker : (laneWord s op d a b)[30] = s := by
  rw [← BitVec.getLsbD_eq_getElem]
  simp [-Nat.reduceAdd, -BitVec.getLsbD_eq_getElem, laneWord, BitVec.getLsbD_append]

@[simp] theorem laneWord_op : (laneWord s op d a b).extractLsb' 22 8 = op := by
  simp [-Nat.reduceAdd, laneWord, BitVec.extractLsb'_append_eq_of_le, BitVec.extractLsb'_append_eq_of_add_le]

@[simp] theorem laneWord_d : (laneWord s op d a b).extractLsb' 15 7 = d := by
  simp [-Nat.reduceAdd, laneWord, BitVec.extractLsb'_append_eq_of_le, BitVec.extractLsb'_append_eq_of_add_le]

@[simp] theorem laneWord_a : (laneWord s op d a b).extractLsb' 8 7 = a := by
  simp [-Nat.reduceAdd, laneWord, BitVec.extractLsb'_append_eq_of_le, BitVec.extractLsb'_append_eq_of_add_le]

@[simp] theorem laneWord_b : (laneWord s op d a b).extractLsb' 0 8 = b :=
  BitVec.extractLsb'_append_eq_right

end

/-- A word with bit 31 clear is the lane word of its fields. -/
theorem laneWord_fields {w : Word} (h : w.getLsbD 31 = false) :
    laneWord (w.getLsbD 30) (w.extractLsb' 22 8) (w.extractLsb' 15 7) (w.extractLsb' 8 7) (w.extractLsb' 0 8) = w := by
  have h31 : 0#1 = w.extractLsb' 31 1 := by rw [← ofBool_getLsbD, h]; rfl
  rw [laneWord, h31, ofBool_getLsbD]
  simp [-Nat.reduceAdd, BitVec.extractLsb'_append_extractLsb'_eq_extractLsb']

section
variable (s : Bool) (op : BitVec 6) (low : BitVec 24)

@[simp] theorem uniWord_bit31 : (uniWord s op low)[31] = true := by
  rw [← BitVec.getLsbD_eq_getElem]
  simp [-Nat.reduceAdd, -BitVec.getLsbD_eq_getElem, uniWord, BitVec.getLsbD_append]

@[simp] theorem uniWord_marker : (uniWord s op low)[30] = s := by
  rw [← BitVec.getLsbD_eq_getElem]
  simp [-Nat.reduceAdd, -BitVec.getLsbD_eq_getElem, uniWord, BitVec.getLsbD_append]

@[simp] theorem uniWord_op : (uniWord s op low).extractLsb' 24 6 = op := by
  simp [-Nat.reduceAdd, uniWord, BitVec.extractLsb'_append_eq_of_le, BitVec.extractLsb'_append_eq_of_add_le]

theorem uniWord_low {i n : Nat} (h : i + n ≤ 24) : (uniWord s op low).extractLsb' i n = low.extractLsb' i n :=
  BitVec.extractLsb'_append_eq_of_add_le h

end

/-- A word with bit 31 set is the uniform word of its fields. -/
theorem uniWord_fields {w : Word} (h : w.getLsbD 31 = true) :
    uniWord (w.getLsbD 30) (w.extractLsb' 24 6) (w.extractLsb' 0 24) = w := by
  have h31 : 1#1 = w.extractLsb' 31 1 := by rw [← ofBool_getLsbD, h]; rfl
  rw [uniWord, h31, ofBool_getLsbD]
  simp [-Nat.reduceAdd, BitVec.extractLsb'_append_extractLsb'_eq_extractLsb']

/-! ### Reading the fields of a form's words gives the form -/

@[simp] theorem LForm.ofWords_laneWord (o : LForm) (op : BitVec 8) (lit : Word) :
    LForm.ofWords (laneWord o.s op o.d o.a o.b) lit = { o with lit := keepLit o.b lit } := by
  simp [LForm.ofWords]

@[simp] theorem LqForm.ofWords_laneWord (o : LqForm) (op : BitVec 8) (lit : Word) :
    LqForm.ofWords (laneWord o.s op o.d o.a o.b) (o.c ++ o.mod ++ o.imm) lit = { o with lit := keepLit o.b lit } := by
  simp [-Nat.reduceAdd, LqForm.ofWords, BitVec.extractLsb'_append_eq_of_le, BitVec.extractLsb'_append_eq_of_add_le]

@[simp] theorem lmWord_sx (scope order : BitVec 3) (xs : BitVec 2) (size : BitVec 3) (sx : Bool) (disp : BitVec 20) :
    (scope ++ order ++ xs ++ size ++ BitVec.ofBool sx ++ disp : Word)[20] = sx := by
  rw [← BitVec.getLsbD_eq_getElem]
  simp [-Nat.reduceAdd, -BitVec.getLsbD_eq_getElem, BitVec.getLsbD_append]

@[simp] theorem LmForm.ofWords_laneWord (o : LmForm) (op : BitVec 8) :
    LmForm.ofWords (laneWord o.s op o.d o.a o.b)
      (o.scope ++ o.order ++ o.xs ++ o.size ++ BitVec.ofBool o.sx ++ o.disp) = o := by
  simp [-Nat.reduceAdd, LmForm.ofWords, BitVec.extractLsb'_append_eq_of_le, BitVec.extractLsb'_append_eq_of_add_le]

@[simp] theorem UForm.ofWord_uniWord (o : UForm) (op : BitVec 6) :
    UForm.ofWord (uniWord o.s op (o.d ++ o.a ++ o.b)) = o := by
  simp [-Nat.reduceAdd, UForm.ofWord, uniWord_low, BitVec.extractLsb'_append_eq_of_le,
    BitVec.extractLsb'_append_eq_of_add_le]

@[simp] theorem UiForm.ofWord_uniWord (o : UiForm) (op : BitVec 6) :
    UiForm.ofWord (uniWord o.s op (o.d ++ o.imm)) = o := by
  simp [-Nat.reduceAdd, UiForm.ofWord, uniWord_low, BitVec.extractLsb'_append_eq_of_le,
    BitVec.extractLsb'_append_eq_of_add_le]

@[simp] theorem UbForm.ofWord_uniWord (o : UbForm) (op : BitVec 6) : UbForm.ofWord (uniWord o.s op o.off) = o := by
  simp [UbForm.ofWord, uniWord_low]

@[simp] theorem UcForm.ofWord_uniWord (o : UcForm) (op : BitVec 6) :
    UcForm.ofWord (uniWord o.s op (o.reg ++ o.off)) = o := by
  simp [-Nat.reduceAdd, UcForm.ofWord, uniWord_low, BitVec.extractLsb'_append_eq_of_le,
    BitVec.extractLsb'_append_eq_of_add_le]

@[simp] theorem UeForm.ofWords_uniWord (o : UeForm) (op : BitVec 6) :
    UeForm.ofWords (uniWord o.s op (o.d ++ o.a ++ o.b)) o.ext = o := by
  simp [-Nat.reduceAdd, UeForm.ofWords, uniWord_low, BitVec.extractLsb'_append_eq_of_le,
    BitVec.extractLsb'_append_eq_of_add_le]

@[simp] theorem UxForm.ofWords_uniWord (o : UxForm) (op : BitVec 6) (x : BitVec 8) :
    UxForm.ofWords (uniWord o.s op (o.d ++ o.a ++ o.b)) (x ++ o.ext) = o := by
  simp [-Nat.reduceAdd, UxForm.ofWords, uniWord_low, BitVec.extractLsb'_append_eq_of_le,
    BitVec.extractLsb'_append_eq_of_add_le]

/-- The extended opcode stands in the top byte of the extension word (03 R71). -/
@[simp] theorem uxWord_op (x : BitVec 8) (ext : BitVec 24) : (x ++ ext : Word).extractLsb' 24 8 = x :=
  BitVec.extractLsb'_append_eq_left

/-! ### The opcode maps and the formats (03 R72, R73, R74) -/

/-- The opcode of the extended forms names no instruction by itself. -/
theorem uniOp_ext : uniOp 0x3F = none := rfl

/-- The opcode maps give a form's opcode to an instruction, with the form's fields. -/
def Form.Assigned (i : Instr) : Form → Prop
  | .l op o => ∃ f, laneOp op.toNat = some (.l f) ∧ f o = i
  | .lq op o => ∃ f, laneOp op.toNat = some (.lq f) ∧ f o = i
  | .lm op o => ∃ f, laneOp op.toNat = some (.lm f) ∧ f o = i
  | .u op o => ∃ f, uniOp op.toNat = some (.u f) ∧ f o = i
  | .ui op o => ∃ f, uniOp op.toNat = some (.ui f) ∧ f o = i
  | .ub op o => ∃ f, uniOp op.toNat = some (.ub f) ∧ f o = i
  | .uc op o => ∃ f, uniOp op.toNat = some (.uc f) ∧ f o = i
  | .ue op o => ∃ f, uniOp op.toNat = some (.ue f) ∧ f o = i
  | .ux x o => ∃ f, uxOp x.toNat = some f ∧ f o = i
  | .event => False

/-- Each instruction's opcode is its own in the maps: one line of the tables per constructor; an event has no opcode. -/
theorem Instr.form_assigned {i : Instr} (h : i.isEvent = false) : i.form.Assigned i := by
  cases i <;> cases h <;> exact ⟨_, rfl, rfl⟩

/-- The instruction that a lane opcode names is laid out with that opcode. -/
def LaneCtor.LaidOut (op : BitVec 8) : LaneCtor → Prop
  | .l f => ∀ o, (f o).form = .l op o
  | .lq f => ∀ o, (f o).form = .lq op o
  | .lm f => ∀ o, (f o).form = .lm op o

/-- The instruction that a uniform opcode names is laid out with that opcode. -/
def UniCtor.LaidOut (op : BitVec 6) : UniCtor → Prop
  | .u f => ∀ o, (f o).form = .u op o
  | .ui f => ∀ o, (f o).form = .ui op o
  | .ub f => ∀ o, (f o).form = .ub op o
  | .uc f => ∀ o, (f o).form = .uc op o
  | .ue f => ∀ o, (f o).form = .ue op o

theorem laneOp_laidOut {n : Nat} {c : LaneCtor} (h : laneOp n = some c) : c.LaidOut (BitVec.ofNat 8 n) := by
  unfold laneOp at h
  split at h <;> cases h <;> exact fun _ => rfl

theorem uniOp_laidOut {n : Nat} {c : UniCtor} (h : uniOp n = some c) : c.LaidOut (BitVec.ofNat 6 n) := by
  unfold uniOp at h
  split at h <;> cases h <;> exact fun _ => rfl

theorem uxOp_form {n : Nat} {f : UxForm → Instr} (h : uxOp n = some f) (o : UxForm) :
    (f o).form = .ux (BitVec.ofNat 8 n) o := by
  unfold uxOp at h
  split at h <;> cases h <;> rfl

/-- The form to which the maps give an instruction is the instruction's own. -/
theorem Form.Assigned.form_eq {f : Form} {i : Instr} (h : f.Assigned i) : i.form = f := by
  cases f with
  | event => cases h
  | ux x o =>
    obtain ⟨f, hf, rfl⟩ := h
    simpa using uxOp_form hf o
  | l op o | lq op o | lm op o =>
    obtain ⟨f, hf, rfl⟩ := h
    simpa using laneOp_laidOut hf o
  | u op o | ui op o | ub op o | uc op o | ue op o =>
    obtain ⟨f, hf, rfl⟩ := h
    simpa using uniOp_laidOut hf o


theorem Form.Assigned.isEvent_eq_false {f : Form} {i : Instr} (h : f.Assigned i) : i.isEvent = false := by
  rw [Instr.isEvent, h.form_eq]
  cases f with
  | event => cases h
  | _ => rfl

/-! ### Decoding -/

theorem keepLit_literal {b : BitVec 8} (h : b = 255#8) (lit : Word) : keepLit b lit = lit := if_pos h

/-- Without a literal word the literal field is read as 0, which is what it holds. -/
theorem keepLit_absent {b : BitVec 8} {lit : Word} (h : (b == 255#8 || lit == 0#32) = true) (hb : ¬ b = 255#8) :
    keepLit b 0#32 = lit := by
  have hlit : lit = 0#32 := by simpa [hb] using h
  rw [hlit]
  exact if_neg hb

/-- The literal field of a form is 0 unless B is 255. -/
def Form.litOk : Form → Bool
  | .l _ o => o.b == 255 || o.lit == 0
  | .lq _ o => o.b == 255 || o.lit == 0
  | _ => true

theorem Instr.litOk_form (i : Instr) : i.litOk = i.form.litOk := rfl

/-- Reading the words of a form gives the instruction of its opcode, whatever follows. -/
theorem decodeFields_words {f : Form} {i : Instr} (h : f.Assigned i) (hl : f.litOk = true) (ws : List Word) :
    decodeFields (f.words ++ ws) = .ok i := by
  cases f with
  | event => cases h
  | l op o | lq op o =>
    obtain ⟨f, hf, rfl⟩ := h
    by_cases hb : o.b = 255#8
    · simp [decodeFields, Form.words, litWords, hf, if_pos hb, keepLit_literal hb]
    · simp [decodeFields, Form.words, hf, if_neg hb, keepLit_absent hl hb]
  | lm op o | u op o | ui op o | ub op o | uc op o | ue op o =>
    obtain ⟨f, hf, rfl⟩ := h
    simp [decodeFields, Form.words, hf]
  | ux x o =>
    obtain ⟨f, hf, rfl⟩ := h
    simp [decodeFields, Form.words, uniOp_ext, hf]

/-! ### The words of what is read -/

section
variable {w : Word}

section
variable (h : w.getLsbD 31 = false)
include h

theorem LForm.words_ofWords (lit : Word) : (Form.l (w.extractLsb' 22 8) (.ofWords w lit)).words
    = w :: litWords (w.extractLsb' 0 8) (keepLit (w.extractLsb' 0 8) lit) := by
  rw [Form.words, LForm.ofWords, laneWord_fields h]

theorem LqForm.words_ofWords (e lit : Word) : (Form.lq (w.extractLsb' 22 8) (.ofWords w e lit)).words
    = w :: e :: litWords (w.extractLsb' 0 8) (keepLit (w.extractLsb' 0 8) lit) := by
  rw [Form.words, LqForm.ofWords, laneWord_fields h]
  simp [-Nat.reduceAdd, BitVec.extractLsb'_append_extractLsb'_eq_extractLsb']

theorem LmForm.words_ofWords (e : Word) : (Form.lm (w.extractLsb' 22 8) (.ofWords w e)).words = [w, e] := by
  rw [Form.words, LmForm.ofWords, laneWord_fields h, ofBool_getLsbD]
  simp [-Nat.reduceAdd, BitVec.extractLsb'_append_extractLsb'_eq_extractLsb']

end

section
variable (h : w.getLsbD 31 = true)
include h

theorem uniWord_threeFields :
    uniWord (w.getLsbD 30) (w.extractLsb' 24 6) (w.extractLsb' 16 8 ++ w.extractLsb' 8 8 ++ w.extractLsb' 0 8) = w := by
  refine Eq.trans ?_ (uniWord_fields h)
  simp [-Nat.reduceAdd, BitVec.extractLsb'_append_extractLsb'_eq_extractLsb']

theorem uniWord_twoFields :
    uniWord (w.getLsbD 30) (w.extractLsb' 24 6) (w.extractLsb' 16 8 ++ w.extractLsb' 0 16) = w := by
  refine Eq.trans ?_ (uniWord_fields h)
  simp [-Nat.reduceAdd, BitVec.extractLsb'_append_extractLsb'_eq_extractLsb']

theorem UForm.words_ofWord : (Form.u (w.extractLsb' 24 6) (.ofWord w)).words = [w] :=
  congrArg (fun x => [x]) (uniWord_threeFields h)

theorem UiForm.words_ofWord : (Form.ui (w.extractLsb' 24 6) (.ofWord w)).words = [w] :=
  congrArg (fun x => [x]) (uniWord_twoFields h)

theorem UbForm.words_ofWord : (Form.ub (w.extractLsb' 24 6) (.ofWord w)).words = [w] :=
  congrArg (fun x => [x]) (uniWord_fields h)

theorem UcForm.words_ofWord : (Form.uc (w.extractLsb' 24 6) (.ofWord w)).words = [w] :=
  congrArg (fun x => [x]) (uniWord_twoFields h)

theorem UeForm.words_ofWords (e : Word) : (Form.ue (w.extractLsb' 24 6) (.ofWords w e)).words = [w, e] :=
  congrArg (fun x => [x, e]) (uniWord_threeFields h)

theorem UxForm.words_ofWords (e : Word) (hop : w.extractLsb' 24 6 = 0x3F) :
    (Form.ux (e.extractLsb' 24 8) (.ofWords w e)).words = [w, e] := by
  rw [Form.words, UxForm.ofWords, ← hop, uniWord_threeFields h]
  simp [-Nat.reduceAdd, BitVec.extractLsb'_append_extractLsb'_eq_extractLsb']

end
end

/-- Only the opcode of the extended forms names no uniform instruction (R73). -/
theorem eq_ext_of_uniOp_none {op : BitVec 6} (h : uniOp op.toNat = none) : op = 0x3F := by
  have key : ∀ n : Fin 64, (uniOp n).isNone = true → n = 63 := by decide
  have hn := key ⟨op.toNat, op.isLt⟩ (by simp [h])
  exact BitVec.eq_of_toNat_eq (congrArg Fin.val hn)

/-- The words begin with those of a form of the instruction. -/
def BeginsWith (ws : List Word) (i : Instr) : Prop := ∃ f rest, Form.Assigned i f ∧ ws = f.words ++ rest

/-- What reads as a uniform instruction begins with the words of its form. -/
theorem beginsWith_of_uniform {w : Word} {rest : List Word} {i : Instr} (h31 : w.getLsbD 31 = true)
    (h : decodeFields (w :: rest) = .ok i) : BeginsWith (w :: rest) i := by
  simp only [decodeFields, h31, if_true] at h
  cases hop : uniOp (w.extractLsb' 24 6).toNat with
  | none =>
    rw [hop] at h
    cases rest with
    | nil => cases h
    | cons e rest =>
      dsimp only at h
      cases hx : uxOp (e.extractLsb' 24 8).toNat with
      | none => rw [hx] at h; cases h
      | some f =>
        rw [hx] at h
        exact ⟨.ux _ _, rest, ⟨f, hx, Except.ok.inj h⟩, by
          rw [UxForm.words_ofWords h31 e (eq_ext_of_uniOp_none hop)]; rfl⟩
  | some c =>
    rw [hop] at h
    cases c with
    | u f => exact ⟨.u _ _, rest, ⟨f, hop, Except.ok.inj h⟩, by rw [UForm.words_ofWord h31]; rfl⟩
    | ui f => exact ⟨.ui _ _, rest, ⟨f, hop, Except.ok.inj h⟩, by rw [UiForm.words_ofWord h31]; rfl⟩
    | ub f => exact ⟨.ub _ _, rest, ⟨f, hop, Except.ok.inj h⟩, by rw [UbForm.words_ofWord h31]; rfl⟩
    | uc f => exact ⟨.uc _ _, rest, ⟨f, hop, Except.ok.inj h⟩, by rw [UcForm.words_ofWord h31]; rfl⟩
    | ue f =>
      cases rest with
      | nil => cases h
      | cons e rest => exact ⟨.ue _ _, rest, ⟨f, hop, Except.ok.inj h⟩, by rw [UeForm.words_ofWords h31 e]; rfl⟩

/-- What the words after the fixed ones give the literal field, and with it the instruction (R67, R68). -/
def readLit (b : BitVec 8) (rest : List Word) (g : Word → Instr) : Except DecodeError Instr :=
  if b = 255 then
    match rest with
    | x :: _ => .ok (g x)
    | [] => .error .short
  else .ok (g 0)

theorem readLit_eq_ok {b : BitVec 8} {rest : List Word} {g : Word → Instr} {i : Instr} (h : readLit b rest g = .ok i) :
    ∃ lit tail, g lit = i ∧ rest = litWords b (keepLit b lit) ++ tail := by
  by_cases hb : b = 255
  · unfold readLit at h
    rw [if_pos hb] at h
    cases rest with
    | nil => cases h
    | cons x tail => exact ⟨x, tail, Except.ok.inj h, by rw [litWords, if_pos hb, keepLit, if_pos hb]; rfl⟩
  · unfold readLit at h
    rw [if_neg hb] at h
    exact ⟨0, rest, Except.ok.inj h, by rw [litWords, if_neg hb]; rfl⟩

/-- What reads as a lane instruction begins with the words of its form. -/
theorem beginsWith_of_lane {w : Word} {rest : List Word} {i : Instr} (h31 : w.getLsbD 31 = false)
    (h : decodeFields (w :: rest) = .ok i) : BeginsWith (w :: rest) i := by
  simp only [decodeFields, h31, Bool.false_eq_true, if_false] at h
  cases hop : laneOp (w.extractLsb' 22 8).toNat with
  | none => rw [hop] at h; cases h
  | some c =>
    rw [hop] at h
    cases c with
    | l f =>
      obtain ⟨lit, tail, rfl, rfl⟩ := readLit_eq_ok (g := fun x => f (.ofWords w x)) h
      exact ⟨.l _ _, tail, ⟨f, hop, rfl⟩, by rw [LForm.words_ofWords h31]; rfl⟩
    | lq f =>
      cases rest with
      | nil => cases h
      | cons e rest =>
        obtain ⟨lit, tail, rfl, rfl⟩ := readLit_eq_ok (g := fun x => f (.ofWords w e x)) h
        exact ⟨.lq _ _, tail, ⟨f, hop, rfl⟩, by rw [LqForm.words_ofWords h31]; rfl⟩
    | lm f =>
      cases rest with
      | nil => cases h
      | cons e rest => exact ⟨.lm _ _, rest, ⟨f, hop, Except.ok.inj h⟩, by rw [LmForm.words_ofWords h31 e]; rfl⟩

theorem beginsWith_of_decodeFields {ws : List Word} {i : Instr} (h : decodeFields ws = .ok i) : BeginsWith ws i := by
  cases ws with
  | nil => cases h
  | cons w rest =>
    cases h31 : w.getLsbD 31 with
    | true => exact beginsWith_of_uniform h31 h
    | false => exact beginsWith_of_lane h31 h

/-- The first word of a form tells how many words it has (R60). -/
theorem slotLength_words {f : Form} {i : Instr} (h : f.Assigned i) (ws : List Word) :
    Machine.slotLength (Machine.wordAt (f.words ++ ws) 0) = f.words.length := by
  cases f with
  | event => cases h
  | l op o | lq op o =>
    obtain ⟨f, hf, -⟩ := h
    by_cases hb : o.b = 255#8 <;>
      simp [Machine.slotLength, Machine.wordAt, Form.words, hf, litWords, hb]
  | lm op o | u op o | ui op o | ub op o | uc op o | ue op o =>
    obtain ⟨f, hf, -⟩ := h
    simp [Machine.slotLength, Machine.wordAt, Form.words, hf]
  | ux x o =>
    simp [Machine.slotLength, Machine.wordAt, Form.words, uniOp_ext]

theorem decode_eq_ok {ws : List Word} {i : Instr} :
    decode ws = .ok i ↔ decodeFields ws = .ok i ∧ i.reservedOk = true := by
  unfold decode
  cases decodeFields ws with
  | error e => simp
  | ok j => grind

/-- Settles O11: the opcode maps give the form's opcode back to the instruction, and reading the words of a form gives its
fields. -/
theorem decodeEncode : Obligations.DecodeEncode := by
  unfold Obligations.DecodeEncode
  intro i ws h
  simp only [Instr.wellFormed, Bool.and_eq_true, Bool.not_eq_true'] at h
  obtain ⟨⟨⟨hev, -⟩, hres⟩, hlit⟩ := h
  exact decode_eq_ok.mpr ⟨decodeFields_words (Instr.form_assigned hev) (i.litOk_form ▸ hlit) ws, hres⟩

/-- Settles O12: what reads as an instruction begins with the words of a form that the maps give to it, which is its own. -/
theorem encodeDecode : Obligations.EncodeDecode := by
  unfold Obligations.EncodeDecode
  intro i ws h
  obtain ⟨hf, hres⟩ := decode_eq_ok.mp h
  obtain ⟨f, rest, ha, rfl⟩ := beginsWith_of_decodeFields hf
  obtain rfl := ha.form_eq
  exact ⟨ha.isEvent_eq_false, hres, List.take_left.symm, slotLength_words ha rest⟩


/-! ### Unassigned opcodes (03 R72, R74) -/

theorem not_unassignedLane {n : Nat} {c : LaneCtor} (h : laneOp n = some c) : ¬ Claims.unassignedLane n := by
  unfold laneOp at h
  split at h <;> cases h <;> simp [Claims.unassignedLane]

theorem uxOp_lt {n : Nat} {f : UxForm → Instr} (h : uxOp n = some f) : n < 0x16 := by
  unfold uxOp at h
  split at h <;> cases h <;> decide

theorem decode_unassignedLane {w : Word} (h31 : w.getLsbD 31 = false)
    (h : Claims.unassignedLane (w.extractLsb' 22 8).toNat) (rest : List Word) :
    decode (w :: rest) = .error (.unassigned w 0) := by
  cases hop : laneOp (w.extractLsb' 22 8).toNat with
  | none => simp only [decode, decodeFields, h31, hop, Bool.false_eq_true, if_false]
  | some c => exact absurd h (not_unassignedLane hop)

theorem decode_unassignedUx {w e : Word} (h31 : w.getLsbD 31 = true) (hop : (w.extractLsb' 24 6).toNat = 0x3F)
    (h : 0x16 ≤ (e.extractLsb' 24 8).toNat) (rest : List Word) :
    decode (w :: e :: rest) = .error (.unassigned w e) := by
  cases hx : uxOp (e.extractLsb' 24 8).toNat with
  | none => simp only [decode, decodeFields, h31, hop, uniOp_ext, hx, if_true]
  | some f => exact absurd (uxOp_lt hx) (Nat.not_lt.mpr h)

/-- Settles O14: an opcode that the maps name is assigned, and issuing other words raises cause 0x01, which enters the
trap. -/
theorem unassignedOpcodes : Obligations.UnassignedOpcodes := by
  unfold Obligations.UnassignedOpcodes
  refine ⟨fun w rest h31 h => decode_unassignedLane h31 h rest,
    fun w e rest h31 hop h => decode_unassignedUx h31 hop h rest, fun w e s hs hd htm => ?_⟩
  exact ⟨_, Machine.exec_illegalInstruction s w e, Machine.raise_entered hs hd htm _⟩

theorem decode_of_encode {i : Instr} {ws : List Word} (h : i.wellFormed = true) (hw : encode i = ws) :
    decode ws = .ok i := by
  have hd := decodeEncode i [] h
  rwa [List.append_nil, hw] at hd

/-- Settles O13: each instruction is well formed, and its words are those. -/
theorem decodeWords : Obligations.DecodeWords := by
  unfold Obligations.DecodeWords
  refine ⟨?_, ?_, ?_, ?_, ?_, ?_, ?_, ?_, ?_⟩ <;> exact decode_of_encode (by decide) (by decide)

end Sys2Proof

/-! The checks at issue (03 R75). -/

namespace Sys2Proof.Machine

theorem operandFault_iff {s : State} {i : Instr} :
    operandFault s i ↔ (s.modeBad i || i.badValue || !i.operands.all s.co.operandOk) = true := by
  simp [operandFault, or_assoc]

theorem Strand.pending_nil {t : Strand} (h : t.outst = []) : t.pending = [] := by
  simp [Strand.pending, h]

theorem hazardOf_eq (t : Strand) (i : Instr) :
    hazardOf t i = (i.operands.flatMap Operand.reads).find? fun r => t.pending.contains r := by
  unfold hazardOf
  split
  · next h => rw [Strand.pending_nil h, List.find?_eq_none.mpr (by simp)]
  · rfl

theorem writeWaits_eq (t : Strand) (i : Instr) :
    writeWaits t i = (i.operands.flatMap Operand.writes).any fun r => t.pending.contains r := by
  unfold writeWaits
  split
  · next h => simp [Strand.pending_nil h]
  · rfl

theorem decodeChecks_fault {s : State} {i : Instr} (h : operandFault s i) :
    s.decodeChecks i = some (.inl (wordTrap 0x01 0 i)) :=
  if_pos (operandFault_iff.mp h)

section
variable {s : State} {i : Instr} (hf : ¬ operandFault s i)
include hf

theorem decodeChecks_reserved (hr : i.reservedOk = false) : s.decodeChecks i = some (.inl (wordTrap 0x02 0 i)) := by
  rw [State.decodeChecks, if_neg (mt operandFault_iff.mpr hf), if_pos (by simp [hr])]

variable (hr : i.reservedOk = true)
include hr

theorem decodeChecks_settle (hs : settleOf i = true) (ho : s.co.st.outst ≠ []) :
    s.decodeChecks i = some (.inr .settle) := by
  rw [State.decodeChecks, if_neg (mt operandFault_iff.mpr hf), if_neg (by simp [hr]), if_pos (by simp [hs, ho])]

variable (hs : settleOf i = false)
include hs

theorem decodeChecks_hazard {u : Bool} {n : Nat} (h : hazardOf s.co.st i = some (u, n)) :
    s.decodeChecks i = some (.inl (trapOf 0x05 0 (BitVec.ofNat 64 (n + if u then 256 else 0)))) := by
  rw [State.decodeChecks, if_neg (mt operandFault_iff.mpr hf), if_neg (by simp [hr]), if_neg (by simp [hs]), h]

theorem decodeChecks_write (h : hazardOf s.co.st i = none) (hw : writeWaits s.co.st i = true) :
    s.decodeChecks i = some (.inr .settle) := by
  rw [State.decodeChecks, if_neg (mt operandFault_iff.mpr hf), if_neg (by simp [hr]), if_neg (by simp [hs]), h]
  exact if_pos hw

end

/-- Settles O6: each clause is one of the checks, reached when those before it pass. -/
theorem issueCauses : Obligations.IssueCauses := by
  unfold Obligations.IssueCauses
  intro i s
  refine ⟨decodeChecks_fault, decodeChecks_reserved, decodeChecks_settle, fun hf hr hs u n h => ?_,
    fun hf hr hs hread hwrite => ?_⟩
  · exact decodeChecks_hazard hf hr hs (by rw [hazardOf_eq, h])
  · refine decodeChecks_write hf hr hs ?_ ?_
    · rw [hazardOf_eq, List.find?_eq_none]
      simpa using hread
    · rw [writeWaits_eq, List.any_eq_true]
      simpa using hwrite

/-- The outcome of an issue whose checks come first: what the first failing check says, else `rest`. -/
def State.checked (s : State) (i : Instr) (rest : Host.Outcome State Fault Refusal) : Host.Outcome State Fault Refusal :=
  match s.decodeChecks i with
  | some (.inl t) => .next (s.raise t)
  | some (.inr w) => .next (s.parkSt w)
  | none => rest

/-- The meaning of every instruction with words makes the checks first: constructor by constructor, it unfolds to `issue`. -/
theorem exec_checked {i : Instr} (h : i.isEvent = false) (s : State) : ∃ rest, exec i s = s.checked i rest := by
  cases i <;> cases h <;> exact ⟨_, rfl⟩

/-- Settles O5: what the checks raise or wait for is the whole outcome. -/
theorem issueChecksFirst : Obligations.IssueChecksFirst := by
  unfold Obligations.IssueChecksFirst
  intro i s h
  obtain ⟨rest, hi⟩ := exec_checked h s
  refine ⟨fun t ht => ?_, fun w hw => ?_⟩
  · rw [hi, State.checked, ht]
  · rw [hi, State.checked, hw]

end Sys2Proof.Machine

/-! Uniform and control instructions (04 R83-R115, 09 R203-R210). -/

namespace Sys2Proof.Machine

open Sys2Proof.Claims

/-! ### Issue with an effect without flags and results (01 R21) -/

theorem Effect.stands_plain {e : Effect} (hf : e.flags = 0) (ho : e.outst = none) : e.stands = e.post := by
  rw [Effect.stands, hf, ho, withFlags_zero]
  exact setSt_same _

/-- The meaning of an instruction issues it for `dest`, and its own rules answer `a`. -/
def IssuesTo (i : Instr) (s : State) (dest : Next) (a : Act) : Prop :=
  ∃ (next : State → Next) (act : State → Act), exec i s = issue i next act s ∧ next s = dest ∧ act s = a

theorem issuesTo_seq {i : Instr} {s : State} {act : State → Act} {a : Act} (he : exec i s = issueSeq i act s)
    (ha : act s = a) : IssuesTo i s .seq a :=
  ⟨_, act, he, rfl, ha⟩

/-- An instruction that may issue and goes on in sequence ends with the answer of its own rules. -/
theorem IssuesTo.concludes_seq {i : Instr} {s : State} {a : Act} (h : IssuesTo i s .seq a) (hc : s.Clear i) :
    exec i s = .next (s.conclude i a (s.after i)) := by
  obtain ⟨next, act, he, hnext, ha⟩ := h
  have hseq : issue i next act s = issueSeq i act s := by
    unfold issueSeq issue
    rw [hnext]
  rw [he, hseq, issueSeq_concludes hc, ha]

/-- So does one that transfers control, when its target passes the checks of an arrival. -/
theorem IssuesTo.concludes_at {i : Instr} {s : State} {a : Act} {va : DWord} {call : Bool}
    (h : IssuesTo i s (.to va call) a) (hc : s.decodeChecks i = none) (harr : s.checkArrival va false call = .ok) :
    exec i s = .next (s.conclude i a va) := by
  obtain ⟨next, act, he, hnext, ha⟩ := h
  rw [he, issue, hc]
  dsimp only
  rw [hnext]
  dsimp only
  rw [harr, ha]

/-- An effect without flags and results that leaves the record mechanism and the strand's place alone completes. -/
theorem conclude_plain {i : Instr} {s post : State} {recs : List RecBody} {hard : Bool} {next : DWord} {n : Nat}
    (hk : Anchored s post) (hr : s.Room post n) (hn : bodyBytes recs + 16 ≤ n) :
    Completes s (s.conclude i (.done { post, recs, hard }) next) post next hard := by
  obtain ⟨t, rfl, hcomp⟩ := conclude_completes (i := i) (e := { post, recs, hard }) (next := next) (hk.fresh rfl) hr
    (Effect.bytes_le_of_noFlags rfl s hn) (trapped_zero _) (by rw [hk.dbg])
  rwa [Effect.stands_plain rfl rfl] at hcomp

theorem Uniform.Keeps.anchored {s t : State} (h : Uniform.Keeps s t) : Anchored s t := by
  refine ⟨?_⟩
  rewrite [State.anchor, h.whey, h.wheyWb, h.wheyBase, h.core, h.pc, h.icnt, h.floor, h.others]
  rfl

theorem OnlyTrace.anchored {s t : State} (h : OnlyTrace s t) : Anchored s t := by
  rw [h.eq]
  exact ⟨rfl⟩

theorem Anchored.trace (s : State) (kind spec : Nat) (extra : List Word) : Anchored s (s.trace kind spec extra) :=
  (OnlyTrace.trace s kind spec extra).anchored

/-! ### Writes of uniform codes (04 R90, R92) -/

/-- A write of uniform codes whose values R90 and R92 allow. -/
theorem uniWrite_done {i : Instr} {s : State} {ci : Bool} {ws : List (Nat × Word)}
    (hw : ∀ w ∈ ws, s.writeCause w.1 w.2 = none) :
    uniWrite i s ci ws = .done { post := s.writeUs ws, recs := s.recsU ci (ws.map (·.1)) } := by
  rw [uniWrite, List.findSome?_eq_none_iff.mpr hw]

/-- An entry of the table `Claims.uniform` is what the instruction's rules write, at most four codes. -/
def WritesUniform (i : Instr) (s : State) (entry : Option (List (Nat × Word))) : Prop :=
  ∀ ws, entry = some ws → ws.length ≤ 4
    ∧ ∃ (act : State → Act) (ci : Bool), exec i s = issueSeq i act s ∧ act s = uniWrite i s ci ws

theorem writesUniform_none (i : Instr) (s : State) : WritesUniform i s none := fun _ h => nomatch h

section

/-! One lemma per shape of a uniform instruction. -/

variable {i : Instr} {s : State} {entry : Option (List (Nat × Word))}

theorem writesUniform_some {act : State → Act} {ci : Bool} {ws : List (Nat × Word)} (he : exec i s = issueSeq i act s)
    (ha : act s = uniWrite i s ci ws) (ht : entry = some ws) (hl : ws.length ≤ 4) : WritesUniform i s entry := by
  intro ws' h
  obtain rfl : ws = ws' := Option.some.inj (ht.symm.trans h)
  exact ⟨hl, act, ci, he, ha⟩

theorem writesUniform_uni2 {o : UForm} {ci : Word → Bool} {f : Word → Word → Word} (he : exec i s = uni2 i o ci f s)
    (ht : entry = some [(o.d.toNat, f (s.readU o.a.toNat) (s.readU o.b.toNat))]) : WritesUniform i s entry :=
  writesUniform_some (ci := ci (s.readU o.b.toNat)) he rfl ht (by simp)

theorem writesUniform_uni1 {o : UForm} {ci : Bool} {f : Word → Word} (he : exec i s = uni1 i o ci f s)
    (ht : entry = some [(o.d.toNat, f (s.readU o.a.toNat))]) : WritesUniform i s entry :=
  writesUniform_some he rfl ht (by simp)

theorem writesUniform_uniImm {o : UiForm} {ci : Bool} {f : Word → BitVec 16 → Word} (he : exec i s = uniImm i o ci f s)
    (ht : entry = some [(o.d.toNat, f (s.readU o.d.toNat) o.imm)]) : WritesUniform i s entry :=
  writesUniform_some he rfl ht (by simp)

theorem writesUniform_uniX {o : UxForm} {f : Word → Word → Word → Word} (he : exec i s = uniX i o f s)
    (ht : entry = some [(o.d.toNat, f (s.readU o.a.toNat) (s.readU o.b.toNat) (s.readU o.c8))]) :
    WritesUniform i s entry :=
  writesUniform_some he rfl ht (by simp)

end

theorem uniform_writes (i : Instr) (s : State) : WritesUniform i s (uniform s i) := by
  cases i with
  | uadd o => exact writesUniform_uni2 (exec_uadd s o) rfl
  | usub o => exact writesUniform_uni2 (exec_usub s o) rfl
  | umul o => exact writesUniform_uni2 (exec_umul s o) rfl
  | umulh o => exact writesUniform_uni2 (exec_umulh s o) (by rewrite [mulHighU_eq]; rfl)
  | uand o => exact writesUniform_uni2 (exec_uand s o) rfl
  | uor o => exact writesUniform_uni2 (exec_uor s o) rfl
  | uxor o => exact writesUniform_uni2 (exec_uxor s o) rfl
  | ushl o => exact writesUniform_uni2 (exec_ushl s o) (by rewrite [shlW_eq]; rfl)
  | ushr o => exact writesUniform_uni2 (exec_ushr s o) (by rewrite [shrW_eq]; rfl)
  | usar o => exact writesUniform_uni2 (exec_usar s o) (by rewrite [sarW_eq]; rfl)
  | urol o => exact writesUniform_uni2 (exec_urol s o) (by rewrite [rolW_eq]; rfl)
  | umin o => exact writesUniform_uni2 (exec_umin s o) (by rewrite [umin_eq]; rfl)
  | umax o => exact writesUniform_uni2 (exec_umax s o) (by rewrite [umax_eq]; rfl)
  | unot o => exact writesUniform_uni1 (exec_unot s o) rfl
  | umov o => exact writesUniform_uni1 (exec_umov s o) rfl
  | uaddi o => exact writesUniform_uniImm (exec_uaddi s o) rfl
  | umovi o => exact writesUniform_uniImm (exec_umovi s o) rfl
  | umovh o => exact writesUniform_uniImm (exec_umovh s o) rfl
  | uxori o => exact writesUniform_uniImm (exec_uxori s o) rfl
  | uadd64 o => exact writesUniform_some (exec_uadd64 s o) rfl rfl (by simp [pairWrites])
  | umov64 o => exact writesUniform_some (exec_umov64 s o) rfl rfl (by simp [pairWrites])
  | ucmp o => exact writesUniform_some (exec_ucmp s o) rfl rfl (by simp)
  | usel o =>
    refine writesUniform_uniX (exec_usel s o) ?_
    simp [uniform]
  | ubfe o => exact writesUniform_uniX (exec_ubfe s o) rfl
  | ubfi o => exact writesUniform_uniX (exec_ubfi s o) rfl
  | upopc o => exact writesUniform_uniX (exec_upopc s o) (by rewrite [popcW_eq]; rfl)
  | uclz o => exact writesUniform_uniX (exec_uclz s o) (by rewrite [clzW_eq]; rfl)
  | nop o => exact writesUniform_some (ci := false) (exec_nop s o) rfl rfl (by simp)
  | uswap o =>
    refine writesUniform_some (exec_uswap s o) rfl rfl ?_
    split
    · exact Nat.le_of_ble_eq_true rfl
    · split <;> exact Nat.le_of_ble_eq_true rfl
  | mballot o => exact writesUniform_some (exec_mballot s o) rfl rfl (by simp)
  | vote o => exact writesUniform_some (exec_vote s o) rfl rfl (by simp)
  | rdlane o =>
    refine writesUniform_some (exec_rdlane s o) rfl ?_ (by simp)
    simp [uniform, Nat.lt_succ_iff]
  | _ => exact writesUniform_none _ s

/-! ### `WRLANE` (09 R210) -/

/-- The lane set of one lane. -/
theorem getLsbD_oneLane (l : Nat) {k : Nat} (hk : k < 96) : (1#96 <<< l).getLsbD k = decide (k = l) := by
  simp only [BitVec.getLsbD_shiftLeft, BitVec.getLsbD_one]
  by_cases h : k = l
  · simp [h]
    omega
  · simp [hk, h]
    omega

/-- A vector register written in one lane. -/
theorem writeV_oneLane (s : State) (d l : Nat) (w : Word) : s.writeV d (1#96 <<< l) (laneVals fun _ => w)
    = s.setCo fun c => { c with v := c.v.set d ((List.range 96).map fun k => if k = l then w else c.vlane d k) } := by
  have h : blendLanes (1#96 <<< l) (s.co.vreg d) (laneVals fun _ => w)
      = (List.range 96).map fun k => if k = l then w else s.co.vlane d k := by
    refine List.map_congr_left fun k hk => ?_
    have hk : k < 96 := List.mem_range.mp hk
    rw [getLsbD_oneLane l hk, wordAt_laneVals _ hk]
    simp only [decide_eq_true_eq]
    rfl
  rw [State.writeV, State.setCo, State.setCo, h]

theorem wrlane_completes {o : UForm} {s : State} (hc : s.Clear (.wrlane o)) (hr : s.Room s 428) :
    ∃ t, exec (.wrlane o) s = .next t ∧ Completes s t
      (if (s.readU o.b.toNat).toNat < 96 ∧ s.co.st.mask.getLsbD (s.readU o.b.toNat).toNat
        then s.setCo fun c => { c with v := c.v.set (o.d.toNat % 128) ((List.range 96).map fun k =>
          if k = (s.readU o.b.toNat).toNat then s.readU o.a.toNat else c.vlane (o.d.toNat % 128) k) }
        else s) (s.after (.wrlane o)) false := by
  split
  · next h =>
    rw [← writeV_oneLane]
    refine ⟨_, (issuesTo_seq (exec_wrlane s o) (if_pos ?_)).concludes_seq hc,
      conclude_plain ⟨rfl⟩ (Room.ofCo hr _ rfl rfl) ?_⟩
    · simpa [Nat.lt_succ_iff] using h
    · exact Nat.le_trans (Nat.add_le_add_right (bodyBytes_laneRecs _ _ _) 16) (by decide)
  · next h =>
    refine ⟨_, (issuesTo_seq (exec_wrlane s o) (if_neg ?_)).concludes_seq hc,
      conclude_plain (Anchored.refl s) hr (by simp [bodyBytes])⟩
    simpa [Nat.lt_succ_iff] using h

/-- Settles O4: an entry of the table is a write of uniform codes, whose records take at most 20 bytes a code. -/
theorem uniformResults : Obligations.UniformResults := by
  unfold Obligations.UniformResults
  refine ⟨fun i s ws hu hc hr hw => ?_, fun o s hc hr => wrlane_completes hc hr⟩
  obtain ⟨hlen, act, ci, he, ha⟩ := uniform_writes i s ws hu
  rw [he]
  exact uniWrite_completes hc (Room.mono hr (by omega)) ha hw

end Sys2Proof.Machine

namespace Sys2Proof.Machine

open Sys2Proof.Claims

/-! ### Transfers that are taken (04 R102-R105, 09 R204) -/

/-- An entry of the table `Claims.jumps` is what the instruction's rules do, with records that take at most 48 bytes. -/
def TakesJump (i : Instr) (s : State) (entry : Option (DWord × Bool × State)) : Prop :=
  ∀ va call post, entry = some (va, call, post) → Anchored s post
    ∧ ∃ recs, bodyBytes recs ≤ 48 ∧ IssuesTo i s (.to va call) (.done { post, recs })

theorem takesJump_none (i : Instr) (s : State) : TakesJump i s none := fun _ _ _ h => nomatch h

theorem takesJump_some {i : Instr} {s post : State} {va : DWord} {call : Bool} {recs : List RecBody}
    (hk : Anchored s post) (hb : bodyBytes recs ≤ 48) (hi : IssuesTo i s (.to va call) (.done { post, recs })) :
    TakesJump i s (some (va, call, post)) := by
  intro va' call' post' h
  obtain ⟨rfl, rfl, rfl⟩ : va = va' ∧ call = call' ∧ post = post' := by simpa using h
  exact ⟨hk, recs, hb, hi⟩

/-- A conditional branch that is taken. -/
theorem branchIf_taken {i : Instr} {o : UcForm} {taken : Word → Bool} {s : State} (he : exec i s = branchIf i o taken s)
    (ht : taken (s.readU o.reg.toNat) = true) :
    IssuesTo i s (.to (s.pcAddr + 4 * o.off.signExtend 64) false) (.done { post := s.trace 2 65537 [] }) :=
  ⟨_, _, he, if_pos ht, by simp only [ht]; rfl⟩

/-- A conditional branch that is not taken. -/
theorem branchIf_notTaken {i : Instr} {o : UcForm} {taken : Word → Bool} {s : State}
    (he : exec i s = branchIf i o taken s) (ht : taken (s.readU o.reg.toNat) = false) :
    IssuesTo i s .seq (.done { post := s.trace 2 65536 [] }) :=
  ⟨_, _, he, if_neg (by simp [ht]), by simp only [ht]; rfl⟩

theorem mem_lanesOf {m : LaneSet} {k : Nat} : k ∈ lanesOf m ↔ k < 96 ∧ m.getLsbD k = true := by
  simp [lanesOf, laneNums]

theorem getLsbD_takenLanes (s : State) (zero : Bool) (a : Nat) {k : Nat} (hk : k < 96) :
    (takenLanes s zero a).getLsbD k = (s.co.st.mask.getLsbD k && ((s.co.vlane a k == 0) == zero)) :=
  getLsbD_laneSetOf _ hk

/-- Every active lane takes the branch. -/
theorem takenLanes_all {s : State} {zero : Bool} {a : Nat}
    (h : ∀ k ∈ lanesOf s.co.st.mask, (s.co.vlane a k == 0) = zero) : takenLanes s zero a = s.co.st.mask := by
  refine BitVec.eq_of_getLsbD_eq fun k hk => ?_
  rw [getLsbD_takenLanes s zero a hk]
  cases hm : s.co.st.mask.getLsbD k with
  | false => rfl
  | true => rw [h k (mem_lanesOf.mpr ⟨hk, hm⟩), Bool.true_and, beq_self_eq_true]

/-- No active lane takes it. -/
theorem takenLanes_none {s : State} {zero : Bool} {a : Nat}
    (h : ∀ k ∈ lanesOf s.co.st.mask, (s.co.vlane a k == 0) = !zero) : takenLanes s zero a = 0 := by
  refine BitVec.eq_of_getLsbD_eq fun k hk => ?_
  rw [getLsbD_takenLanes s zero a hk]
  cases hm : s.co.st.mask.getLsbD k with
  | false => simp
  | true =>
    rw [h k (mem_lanesOf.mpr ⟨hk, hm⟩)]
    cases zero <;> simp

/-- A branch on lanes that every active lane takes. -/
theorem branchLanes_all {i : Instr} {o : UcForm} {zero : Bool} {s : State} (he : exec i s = branchLanes i o zero s)
    (hm : s.co.st.mask ≠ 0) (h : ∀ k ∈ lanesOf s.co.st.mask, (s.co.vlane (o.reg.toNat % 128) k == 0) = zero) :
    IssuesTo i s (.to (s.pcAddr + 4 * o.off.signExtend 64) false) (.done { post := s.trace 2 65537 [] }) := by
  rw [branchLanes] at he
  refine ⟨_, _, he, ?_, ?_⟩
  · dsimp only
    rewrite [takenLanes_all h, if_neg hm, if_pos rfl]
    rfl
  · dsimp only
    rewrite [takenLanes_all h, if_pos (by simp), if_neg hm]
    rfl

/-- A branch on lanes that no active lane takes. -/
theorem branchLanes_none {i : Instr} {o : UcForm} {zero : Bool} {s : State} (he : exec i s = branchLanes i o zero s)
    (h : ∀ k ∈ lanesOf s.co.st.mask, (s.co.vlane (o.reg.toNat % 128) k == 0) = !zero) :
    IssuesTo i s .seq (.done { post := s.trace 2 65536 [] }) := by
  rw [branchLanes] at he
  refine ⟨_, _, he, ?_, ?_⟩
  · dsimp only
    rw [takenLanes_none h, if_pos rfl]
  · dsimp only
    rw [takenLanes_none h]
    simp

/-- A pair is its two words. -/
theorem pairOf_high_low (x : DWord) : pairOf x.high x.low = x := by
  refine BitVec.eq_of_getLsbD_eq fun i hi => ?_
  rw [pairOf_getLsbD, BitVec.getLsbD_extractLsb', BitVec.getLsbD_extractLsb']
  split
  · next h => simp [h]
  · next h => simp [show i - 32 < 32 by omega, show 32 + (i - 32) = i by omega]

/-- `CALL` writes the link register (04 R103). -/
theorem writeUs_link (s : State) (x : DWord) : s.writeUs (pairWrites 203 x) = s.setCo fun c => { c with link := x } := by
  show s.setCo (fun c => { c with link := pairOf x.high (pairOf c.link.high x.low).low }) = _
  have hlow : (pairOf s.co.link.high x.low).low = x.low := by
    refine BitVec.eq_of_getLsbD_eq fun i hi => ?_
    simp [BitVec.getLsbD_append, hi]
  rw [State.setCo, State.setCo, hlow, pairOf_high_low]

theorem call_issuesTo (o : UbForm) (s : State) : IssuesTo (.call o) s (.to (s.pcAddr + 4 * o.off.signExtend 64) true)
    (.done { post := s.setCo fun c => { c with link := seqNext s.pcAddr 1 }, recs := s.recsU false [203, 204] }) := by
  refine ⟨_, _, exec_call s o, rfl, ?_⟩
  rewrite [uniWrite_done (by simp [pairWrites, State.writeCause]), writeUs_link]
  rfl

theorem jumps_taken (i : Instr) (s : State) : TakesJump i s (jumps s i) := by
  have hnil : bodyBytes [] ≤ 48 := Nat.zero_le _
  cases i with
  | br o => exact takesJump_some (Anchored.refl s) hnil ⟨_, _, exec_br s o, rfl, rfl⟩
  | brz o =>
    refine iteInduction (motive := TakesJump _ s) (fun h => ?_) fun _ => takesJump_none _ s
    exact takesJump_some (Anchored.trace s _ _ _) hnil (branchIf_taken (exec_brz s o) (by simpa using h))
  | brnz o =>
    refine iteInduction (motive := TakesJump _ s) (fun _ => takesJump_none _ s) fun h => ?_
    exact takesJump_some (Anchored.trace s _ _ _) hnil (branchIf_taken (exec_brnz s o) (by simpa using h))
  | call o =>
    exact takesJump_some ⟨rfl⟩ (Nat.le_trans (bodyBytes_recsU s false [203, 204]) (by decide)) (call_issuesTo o s)
  | ret o => exact takesJump_some (Anchored.trace s _ _ _) hnil ⟨_, _, exec_ret s o, rfl, rfl⟩
  | jmpr o => exact takesJump_some (Anchored.trace s _ _ _) hnil ⟨_, _, exec_jmpr s o, rfl, rfl⟩
  | brl o =>
    refine iteInduction (motive := TakesJump _ s) (fun ⟨hm, h⟩ => ?_) fun _ => takesJump_none _ s
    exact takesJump_some (Anchored.trace s _ _ _) hnil (branchLanes_all (exec_brl s o) hm h)
  | brlz o =>
    refine iteInduction (motive := TakesJump _ s) (fun ⟨hm, h⟩ => ?_) fun _ => takesJump_none _ s
    exact takesJump_some (Anchored.trace s _ _ _) hnil (branchLanes_all (exec_brlz s o) hm h)
  | _ => exact takesJump_none _ s

/-- Settles O26: each entry of the table is what the instruction's rules do, for the target that it names. -/
theorem jumpResults : Obligations.JumpResults := by
  unfold Obligations.JumpResults
  intro i s va call post hj hc harr hr
  obtain ⟨hk, recs, hb, hi⟩ := jumps_taken i s va call post hj
  exact ⟨_, hi.concludes_at hc harr, conclude_plain hk hr (Nat.add_le_add_right hb 16)⟩

end Sys2Proof.Machine

namespace Sys2Proof.Machine

open Sys2Proof.Claims

/-! ### Control instructions that go on in sequence (04 R102, R106-R115, 09 R204-R207) -/

/-- An entry of the table `Claims.steps` is what the instruction's rules do under its need. -/
def MakesStep (i : Instr) (s : State) (entry : Option Claim) : Prop :=
  ∀ c, entry = some c → c.need → c.base = s ∧ Anchored s c.post
    ∧ ∃ recs, bodyBytes recs + 16 ≤ c.room ∧ IssuesTo i s .seq (.done { post := c.post, recs, hard := c.hard })

theorem makesStep_none (i : Instr) (s : State) : MakesStep i s none := fun _ h => nomatch h

theorem makesStep_some {i : Instr} {s post : State} {need : Prop} {hard : Bool} {room : Nat} (recs : List RecBody)
    (hk : Anchored s post) (hb : bodyBytes recs + 16 ≤ room) (hi : need → IssuesTo i s .seq (.done { post, recs, hard })) :
    MakesStep i s (some { base := s, need, post, hard, room }) := by
  rintro _ ⟨⟩ hn
  exact ⟨rfl, hk, recs, hb, hi hn⟩

/-- A step without records. -/
theorem makesStep_bare {i : Instr} {s post : State} {need : Prop} {hard : Bool} (hk : Anchored s post)
    (hi : need → IssuesTo i s .seq (.done { post, hard })) : MakesStep i s (some { base := s, need, post, hard }) :=
  makesStep_some [] hk (by simp [bodyBytes]) hi

/-- `REWIND` to the own count (01 R23): a walk of no step. -/
theorem rewindAct_own {target : DWord} {s : State} (hi : target = s.co.st.icnt) (hf : s.co.st.floor ≤ target)
    (hl : s.landed = true) (kind : WalkKind) (zero : State → Act) : rewindAct kind target zero s = zero s := by
  subst hi
  have hlt : ¬ s.co.st.icnt < s.co.st.icnt := BitVec.lt_irrefl _
  simp only [rewindAct, BitVec.not_lt.mpr hf, hlt, hl, if_false, Bool.not_true, Bool.false_eq_true, if_true]

theorem rewind_step (o : UForm) (s : State) : MakesStep (.rewind o) s (steps s (.rewind o)) := by
  refine iteInduction (motive := MakesStep _ s) (fun htm => ?_) fun htm => ?_
  · refine makesStep_bare ⟨rfl⟩ fun ⟨hf, hi⟩ => ⟨_, _, exec_rewind s o, by simp [htm], ?_⟩
    simp only [htm, if_true, BitVec.not_lt.mpr hf, BitVec.not_lt.mpr hi, if_false]
  · refine makesStep_bare (Anchored.refl s) fun ⟨hi, hf, hl⟩ => ⟨_, _, exec_rewind s o, by simp [hi], ?_⟩
    simp only [htm, Bool.false_eq_true, if_false]
    exact rewindAct_own hi hf hl _ _

theorem hpush_step (o : UForm) (s : State) : MakesStep (.hpush o) s (steps s (.hpush o)) :=
  makesStep_bare ⟨rfl⟩ fun h => issuesTo_seq (exec_hpush s o) (if_neg (Nat.not_lt.mpr h))

theorem hpop_step (o : UForm) (s : State) : MakesStep (.hpop o) s (steps s (.hpop o)) := by
  cases hsave : s.co.hsave with
  | nil =>
    simp only [steps, hsave]
    exact makesStep_none _ s
  | cons w rest =>
    simp only [steps, hsave]
    refine makesStep_some ((s.setCo fun c => { c with hsave := rest }).recsU false [o.d.toNat])
      (Anchored.trans (t := s.setCo fun c => { c with hsave := rest }) ⟨rfl⟩ (writeU_keeps _ _ _).anchored)
      ?_ fun hw => issuesTo_seq (exec_hpop s o) ?_
    · exact Nat.le_trans (Nat.add_le_add_right (bodyBytes_recsU _ false [o.d.toNat]) 16) (by simp)
    · rw [hsave]
      exact uniWrite_done (by simpa using hw)

theorem waitc_step (o : UForm) (s : State) : MakesStep (.waitc o) s (steps s (.waitc o)) :=
  makesStep_bare (Anchored.refl s) fun h => issuesTo_seq (exec_waitc s o) (if_pos (List.all_eq_true.mpr fun k hk => by
    obtain ⟨hk6, hbit⟩ := List.mem_filter.mp hk
    exact decide_eq_true (h k (List.mem_range.mp hk6) hbit)))

theorem regang_step (o : UForm) (s : State) : MakesStep (.regang o) s (steps s (.regang o)) := by
  refine iteInduction (motive := MakesStep _ s) (fun _ => makesStep_none _ s) fun h => ?_
  have hnone : s.co.innermost s.co.st.id = none := by simpa using h
  refine makesStep_bare ⟨rfl⟩ fun _ => ⟨_, _, exec_regang s o, if_neg h, ?_⟩
  dsimp only
  rw [hnone]

theorem bodyBytes_map (f : Nat → RecBody) {n : Nat} (l : List Nat) (h : ∀ k ∈ l, 4 * (f k).size ≤ n) :
    bodyBytes (l.map f) ≤ n * l.length := by
  induction l with
  | nil => simp [bodyBytes]
  | cons k l ih =>
    have hk := h k (by simp)
    have hl := ih fun j hj => h j (by simp [hj])
    simp only [List.map_cons, bodyBytes, List.length_cons, Nat.mul_add]
    omega

/-- Records of an `EXIT` that does not empty the running set (09 R207). -/
theorem bodyBytes_exitRecs {s : State} (h : exitEmpties s = false) : bodyBytes (exitRecs s) ≤ 56 := by
  have hrun : ¬ s.co.running &&& ~~~s.co.st.mask = 0 := by simpa [exitEmpties] using h
  have hmap := bodyBytes_map (fun k => .uni (225 + k) (maskWord s.co.exm k)) (n := 12)
    ((List.range 3).filter fun k => maskWord s.co.st.mask k != 0) (fun _ _ => by simp [RecBody.size])
  have hlen := List.length_filter_le (fun k => maskWord s.co.st.mask k != 0) (List.range 3)
  rw [List.length_range] at hlen
  unfold exitRecs
  simp only [hrun, decide_false, Bool.false_and, Bool.false_eq_true, if_false]
  split <;> simp only [List.append_nil, bodyBytes, RecBody.size] <;> omega

theorem exit_step (o : UForm) (s : State) : MakesStep (.exit o) s (steps s (.exit o)) := by
  refine iteInduction (motive := MakesStep _ s) (fun hm => ?_) fun hm =>
    iteInduction (motive := MakesStep _ s) (fun _ => makesStep_none _ s) fun he => ?_
  · exact makesStep_bare (Anchored.refl s) fun _ => ⟨_, _, exec_exit s o, if_neg (by simp [hm]), if_pos hm⟩
  · have he : exitEmpties s = false := by simpa using he
    refine makesStep_some (exitRecs s) ⟨rfl⟩ ?_ fun _ => ⟨_, _, exec_exit s o, if_neg (by simp [he]), ?_⟩
    · exact Nat.le_trans (Nat.add_le_add_right (bodyBytes_exitRecs he) 16) (by decide)
    · dsimp only
      rewrite [if_neg hm, he]
      rfl

theorem fence_step (o : UForm) (s : State) : MakesStep (.fence o) s (steps s (.fence o)) :=
  makesStep_bare (Anchored.orderL1 s _ _) fun h => issuesTo_seq (exec_fence s o) (withRelease_of h _)

theorem dbrk_step (o : UxForm) (s : State) : MakesStep (.dbrk o) s (steps s (.dbrk o)) :=
  makesStep_bare (Anchored.refl s) fun h => issuesTo_seq (exec_dbrk s o) (if_neg fun hbreak => by
    obtain ⟨hopen, hlaunch⟩ := Bool.and_eq_true_iff.mp hbreak
    rcases h with h | h
    · exact Bool.false_ne_true (h.symm.trans hopen)
    · exact Bool.false_ne_true (h.symm.trans hlaunch))

theorem yield_step (o : UxForm) (s : State) : MakesStep (.yield o) s (steps s (.yield o)) := by
  refine iteInduction (motive := MakesStep _ s) (fun _ => makesStep_none _ s) fun hl => ?_
  refine makesStep_bare (Anchored.refl s) fun ⟨hv8, hv, hs128, hs⟩ => issuesTo_seq (exec_yield s o) ?_
  dsimp only
  rw [if_neg (by simp [hv8, hv, hs128, hs]), if_pos (by simpa using hl)]

theorem steps_made (i : Instr) (s : State) : MakesStep i s (steps s i) := by
  cases i with
  | brz o =>
    refine iteInduction (motive := MakesStep _ s) (fun _ => makesStep_none _ s) fun h => ?_
    exact makesStep_bare (Anchored.trace s _ _ _) fun _ => branchIf_notTaken (exec_brz s o) (by simpa using h)
  | brnz o =>
    refine iteInduction (motive := MakesStep _ s) (fun h => ?_) fun _ => makesStep_none _ s
    exact makesStep_bare (Anchored.trace s _ _ _) fun _ => branchIf_notTaken (exec_brnz s o) (by simpa using h)
  | brl o =>
    refine iteInduction (motive := MakesStep _ s) (fun h => ?_) fun _ => makesStep_none _ s
    exact makesStep_bare (Anchored.trace s _ _ _) fun _ => branchLanes_none (exec_brl s o) h
  | brlz o =>
    refine iteInduction (motive := MakesStep _ s) (fun h => ?_) fun _ => makesStep_none _ s
    exact makesStep_bare (Anchored.trace s _ _ _) fun _ => branchLanes_none (exec_brlz s o) h
  | commit o => exact makesStep_bare (Anchored.refl s) fun _ => issuesTo_seq (exec_commit s o) rfl
  | rewind o => exact rewind_step o s
  | hpush o => exact hpush_step o s
  | hpop o => exact hpop_step o s
  | waitc o => exact waitc_step o s
  | regang o => exact regang_step o s
  | exit o => exact exit_step o s
  | fence o => exact fence_step o s
  | snap o => exact makesStep_bare ⟨rfl⟩ fun _ => issuesTo_seq (exec_snap s o) rfl
  | tmark o => exact makesStep_bare (Anchored.trace s _ _ _) fun _ => issuesTo_seq (exec_tmark s o) rfl
  | dbrk o => exact dbrk_step o s
  | yield o => exact yield_step o s
  | _ => exact makesStep_none _ s

/-- Settles O27: each entry of the table is what the instruction's rules do, and it goes on in sequence. -/
theorem controlResults : Obligations.ControlResults := by
  unfold Obligations.ControlResults
  intro i s c hstep hn hc hr
  obtain ⟨hbase, hk, recs, hb, hi⟩ := steps_made i s c hstep hn
  rw [hbase]
  exact ⟨_, hi.concludes_seq hc, conclude_plain hk hr hb⟩

end Sys2Proof.Machine

namespace Sys2Proof.Machine

/-! ### `TRAP`, and `REWINDT` to the own count (04 R110, R113, 01 R24) -/

/-- The focused strand counts and goes on, and that is all. -/
def State.stepped (s : State) (next : DWord) : State :=
  s.setSt fun st => { st with park := none, pc := next.setWidth 56, icnt := st.icnt + 1 }

/-- An instruction without an effect of its own, whose successor is no marked target, completes outside trap and debug
mode when nothing of the whey is due. -/
theorem tryComplete_nothing {s : State} {next : DWord} (hs : s.co.special = false) (hm : s.markedTarget next = false)
    (hlim : s.co.wheyt ≤ s.co.lim) (hwb : s.co.wheyt ≤ s.co.wheyWb + 1024) :
    s.tryComplete { post := s } next = .ok (s.stepped next) := by
  obtain ⟨-, hd⟩ := Cohort.special_false.mp hs
  have hp : ({ post := s } : Effect).pushed s next = s.co := by
    rewrite [Effect.pushed_unmarked hs hm, Effect.bodies_of_noFlags rfl]
    rfl
  have hflush : s.wheyFlush 1024 = .ok s := by
    unfold State.wheyFlush
    exact if_pos (by omega)
  unfold State.tryComplete
  simp only [hp, hs, hd, Nat.not_lt.mpr hlim, decide_false, Bool.and_false, Bool.false_eq_true, if_false,
    trapped_zero, bne_self_eq_false, hflush]
  rfl

theorem stepped_completes {s : State} {next : DWord} (hs : s.co.special = false) :
    Completes s (s.stepped next) s next false := by
  obtain ⟨-, hd⟩ := Cohort.special_false.mp hs
  refine ⟨rfl, ?_, ?_, rfl, rfl, ⟨_, _, s, .inl rfl, rfl⟩, fun _ => rfl⟩
  · rewrite [hd]
    rfl
  · rewrite [hs]
    rfl

/-- An arrival that passes its checks stays in the strand's code window (01 R8). -/
theorem checkArrival_window {s : State} {va : DWord} {waive call : Bool} (h : s.checkArrival va waive call = .ok) :
    va.extractLsb' 32 24 = s.co.st.pc.extractLsb' 32 24 := by
  unfold State.checkArrival at h
  split at h
  · cases h
  · next hw =>
    simp only [Bool.or_eq_true, bne_iff_ne, not_or, Decidable.not_not] at hw
    exact hw.2

/-- Where trap entry meets no obstacle, it meets none after a step in the code window. -/
theorem State.CanTrap.stepped {s : State} (h : s.CanTrap) {next : DWord}
    (hw : next.extractLsb' 32 24 = s.co.st.pc.extractLsb' 32 24) :
    (s.stepped next).CanTrap := by
  have hpc : (next.setWidth 56 : BitVec 56).extractLsb' 32 24 = s.co.st.pc.extractLsb' 32 24 := by
    rw [← hw]
    refine BitVec.eq_of_getLsbD_eq fun i hi => ?_
    simp only [BitVec.getLsbD_extractLsb', BitVec.getLsbD_setWidth, hi, decide_true, Bool.true_and,
      show 32 + i < 56 by omega]
  have haddr : (s.stepped next).handlerAddr = s.handlerAddr := by
    simp only [State.handlerAddr, State.stepped, State.setSt, hpc]
  obtain ⟨ws, hp, hl⟩ := h.line
  refine ⟨h.handler, ⟨ws, ?_, ?_⟩, h.writeBack.imp id fun hall => ⟨hall.1, fun k m hk => ?_⟩⟩
  · rw [haddr]
    exact hp
  · rwa [haddr]
  · obtain ⟨pas, hpas⟩ := hall.2 k m hk
    exact ⟨pas, (walkRun_co s _ s.dbg .write none _).trans hpas⟩

theorem Entered.park {s u : State} {t : Trap} (h : Entered s u t) : u.co.st.park = none :=
  congrArg (fun c : Cohort => c.st.park) h.co

/-- An instruction whose rules complete it without an effect and then enter a trap (04 R113). -/
theorem stepped_thenTrap {i : Instr} {s : State} {tr : Trap} (hc : s.Clear i) (ht : s.CanTrap)
    (hs : s.co.special = false) (hi : IssuesTo i s .seq (.whole (s.thenTrap (s.stepped (s.after i)) tr))) :
    ∃ t u, Completes s t s (s.after i) false ∧ exec i s = .next u ∧ Entered t u tr := by
  obtain ⟨htm, hd⟩ := Cohort.special_false.mp hs
  have harr : s.checkArrival (s.after i) true false = .ok := hc.successor.resolve_left (by simp [hd])
  have hin := raise_entered (ht.stepped (checkArrival_window harr)) hd htm tr
  refine ⟨_, _, stepped_completes hs, ?_, hin⟩
  rw [hi.concludes_seq hc, State.conclude, State.thenTrap]
  simp only [hin.park]

theorem trap_issuesTo {o : UiForm} {s : State} (ht : s.tryComplete { post := s } (s.after (.trap o))
      = .ok (s.stepped (s.after (.trap o)))) :
    IssuesTo (.trap o) s .seq
      (.whole (s.thenTrap (s.stepped (s.after (.trap o))) (trapOf 0x06 0 (o.imm.setWidth 64)))) := by
  refine issuesTo_seq (exec_trap s o) ?_
  rw [show s.tryComplete { post := s } (seqNext s.pcAddr 1) = .ok (s.stepped (s.after (.trap o))) from ht]

theorem rewindt_issuesTo {o : UxForm} {s : State} (hown : s.readU2 o.a.toNat = s.co.st.icnt)
    (hf : s.co.st.floor ≤ s.co.st.icnt) (hl : s.landed = true)
    (ht : s.tryComplete { post := s } (s.after (.rewindt o)) = .ok (s.stepped (s.after (.rewindt o)))) :
    IssuesTo (.rewindt o) s .seq (.whole (s.thenTrap (s.stepped (s.after (.rewindt o))) rewindtTrap)) := by
  refine ⟨_, _, exec_rewindt s o, if_pos hown, ?_⟩
  rw [rewindAct_own hown (by rwa [hown]) hl,
    show s.tryComplete { post := s } (seqNext s.pcAddr (Instr.rewindt o).length)
      = .ok (s.stepped (s.after (.rewindt o))) from ht]

/-- Settles O32: both instructions complete without an effect of their own and then enter the trap. -/
theorem trapInstructions : Obligations.TrapInstructions := by
  unfold Obligations.TrapInstructions
  refine ⟨fun o s hc ht hs hm hwb hlim => ?_, fun o s hc ht hs hown hf hl hm hwb hlim => ?_⟩
  · exact stepped_thenTrap hc ht hs (trap_issuesTo (tryComplete_nothing hs hm hlim hwb))
  · exact stepped_thenTrap hc ht hs (rewindt_issuesTo hown hf hl (tryComplete_nothing hs hm hlim hwb))

/-! ### `NOP` (04 R99) -/

theorem reservedOk_nop {o : UForm} : (Instr.nop o).reservedOk = true ↔ o.d = 0 ∧ o.a = 0 ∧ o.b = 0 := by
  show (o.d == 0 && o.a == 0 && o.b == 0) = true ↔ _
  simp [and_assoc]

/-- No mode forbids `NOP`, and it has no operands. -/
theorem not_operandFault_nop (o : UForm) (s : State) : ¬ operandFault s (.nop o) := by
  rintro (hmode | hvalue | ⟨_, hop, -⟩)
  · exact Bool.false_ne_true hmode
  · exact Bool.false_ne_true hvalue
  · exact List.not_mem_nil hop

/-- The words of `NOP`, with and without the settle marker. -/
theorem encode_nop {o : UForm} (hd : o.d = 0) (ha : o.a = 0) (hb : o.b = 0) :
    encode (.nop o) = [if o.s then 0xD7000000 else 0x97000000] := by
  obtain ⟨s, d, a, b⟩ := o
  dsimp only at hd ha hb
  subst hd ha hb
  cases s <;> rfl

/-- Settles O60: the checks at issue decide the reserved fields and the marker, and the rules of `NOP` have no effect. -/
theorem noOperation : Obligations.NoOperation := by
  unfold Obligations.NoOperation
  intro o s
  refine ⟨encode_nop, fun hres => ?_, fun hd ha hb hset hout => ?_, fun hc hr => ?_⟩
  · refine (issueChecksFirst (.nop o) s rfl).1 _ (decodeChecks_reserved (not_operandFault_nop o s) ?_)
    rw [← Bool.not_eq_true, reservedOk_nop]
    rintro ⟨hd, ha, hb⟩
    rcases hres with h | h | h
    · exact h hd
    · exact h ha
    · exact h hb
  · refine (issueChecksFirst (.nop o) s rfl).2 _ (decodeChecks_settle (not_operandFault_nop o s)
      (reservedOk_nop.mpr ⟨hd, ha, hb⟩) ?_ hout)
    rewrite [settleOf, Instr.word0, encode_nop hd ha hb, hset]
    rfl
  · have ht := (issuesTo_seq (exec_nop s o) rfl).concludes_seq hc
    refine ⟨_, ht, conclude_plain (Anchored.refl s) hr (by simp [bodyBytes]), fun hm => ?_⟩
    rw [issueSeq_whey (act := fun s => .done { post := s }) (n := 64) hc rfl ((Anchored.refl s).fresh rfl) hr
      (Effect.bytes_le_of_noFlags rfl s (by simp [bodyBytes])) (trapped_zero _) rfl ht,
      Effect.whey_pushed_nil (Effect.bodies_of_noFlags rfl s) hm]

/-! ### Reads of the control registers (04 R90-R93, 01 R10) -/

/-- A field of a number in a register. -/
theorem toNat_extractLsb'_ofNat (w start len n : Nat) :
    ((BitVec.ofNat w n).extractLsb' start len).toNat = n % 2 ^ w / 2 ^ start % 2 ^ len := by
  rw [BitVec.extractLsb'_toNat, BitVec.toNat_ofNat, Nat.shiftRight_eq_div_pow]

/-- `%wheyl` (01 R10). -/
theorem readU_wheyl {s : State} (hz : s.co.szl ≤ 26) :
    ((s.readU 201).extractLsb' 27 5).toNat = s.co.szl ∧ ((s.readU 201).extractLsb' 0 27).toNat = s.co.lim := by
  have hlim : s.co.lim < 2 ^ 27 := by
    have : 2 ^ s.co.szl ≤ 2 ^ 26 := Nat.pow_le_pow_right (by omega) hz
    unfold Cohort.lim
    omega
  have hread : s.readU 201 = BitVec.ofNat 32 (s.co.szl * 2 ^ 27 + s.co.lim) := rfl
  rw [hread, toNat_extractLsb'_ofNat, toNat_extractLsb'_ofNat]
  omega

/-- `%strand` (07 R162). -/
theorem readU_strand {s : State} (hid : s.co.st.id < 4) (hn : s.co.sibs.length < 4) :
    ((s.readU 207).extractLsb' 0 4).toNat = s.co.st.id
      ∧ ((s.readU 207).extractLsb' 4 28).toNat = 1 + s.co.sibs.length := by
  have hread : s.readU 207 = BitVec.ofNat 32 ((1 + s.co.sibs.length) * 16 + s.co.st.id) := rfl
  rw [hread, toNat_extractLsb'_ofNat, toNat_extractLsb'_ofNat]
  omega

/-- A number in a register pair (04 R91). -/
theorem pairOf_ofNat (n : Nat) : pairOf (BitVec.ofNat 32 (n / 2 ^ 32)) (BitVec.ofNat 32 n) = BitVec.ofNat 64 n := by
  rw [← pairOf_high_low (BitVec.ofNat 64 n)]
  congr 1 <;> apply BitVec.eq_of_toNat_eq <;> rw [toNat_extractLsb'_ofNat, BitVec.toNat_ofNat] <;> omega

/-- `%dir` (01 R10). -/
theorem readU_dir (s : State) : (s.readU 196).getLsbD 0 = s.co.dir ∧ (s.readU 196).getLsbD 1 = s.co.tm
    ∧ (s.readU 196).extractLsb' 2 30 = 0 := by
  have hread : s.readU 196 = boolWord s.co.dir ||| (boolWord s.co.tm <<< 1) := rfl
  rw [hread]
  cases s.co.dir <;> cases s.co.tm <;> decide

/-- Settles O25: the fields of the packed registers are read off as numbers. -/
theorem controlReads : Obligations.ControlReads := by
  unfold Obligations.ControlReads
  intro s
  refine ⟨⟨rfl, rfl, rfl, rfl⟩, readU_dir s, ⟨rfl, pairOf_high_low s.co.wheyBase⟩, fun hw => ?_, fun hz _ => readU_wheyl hz,
    readU_strand, pairOf_ofNat s.time, ⟨rfl, pairOf_high_low s.co.tinfo, rfl⟩, fun c hc => ?_⟩
  · exact (BitVec.toNat_ofNat _ _).trans (Nat.mod_eq_of_lt hw)
  · exact if_pos hc

end Sys2Proof.Machine

/-! Lane instructions (05 R120-R140). -/

namespace Sys2Proof.Machine

open Sys2Proof.Claims

/-! ### Vector registers written in the active lanes (05 R117) -/

/-- A lane write takes of its values those of the 96 lanes. -/
theorem laneWrite_laneVals (s : State) (d : Nat) (vals : List Word) (ci : Nat → Bool) (fl : Flags) :
    laneWrite s d (laneVals (wordAt vals)) ci fl = laneWrite s d vals ci fl := by
  have h : blendLanes s.co.st.mask (s.co.vreg d) (laneVals (wordAt vals))
      = blendLanes s.co.st.mask (s.co.vreg d) vals :=
    List.map_congr_left fun k hk => by rw [wordAt_laneVals _ (List.mem_range.mp hk)]
  simp only [laneWrite, State.writeV, State.setCo, h]

theorem laneVals_congr {f g : Nat → Word} (h : ∀ k < 96, f k = g k) : laneVals f = laneVals g :=
  List.map_congr_left fun k hk => h k (List.mem_range.mp hk)

/-- A write of a register's own values changes no lane of any register. -/
theorem vlane_withLanes_own {s : State} {d : Nat} {f : Nat → Word} (hf : ∀ k < 96, f k = s.co.vlane d k) (c : Nat)
    {k : Nat} (hk : k < 96) : (s.withLanes d f).co.vlane c k = s.co.vlane c k := by
  by_cases hc : d = c ∧ d < s.co.v.length
  · obtain ⟨rfl, hd⟩ := hc
    simp [State.withLanes, Cohort.vlane, Cohort.vreg, wordAt, hd, hk, hf k hk]
  · have hset : (s.withLanes d f).co.v[c]? = s.co.v[c]? := by
      rw [State.withLanes, State.setCo_co, List.getElem?_set]
      by_cases hdc : d = c
      · subst hdc
        rw [if_pos rfl, if_neg (by simpa using hc), List.getElem?_eq_none (by simpa using hc)]
      · rw [if_neg hdc]
    simp only [Cohort.vlane, Cohort.vreg, List.getD_eq_getElem?_getD, hset]

/-! ### Integer, bit, move and compare instructions (05 R120-R126, R128, R139) -/

/-- The instruction goes on in sequence, and its own rules write the destination and values of a table's entry, when there
is one, without flags. -/
def WritesPlain (i : Instr) (s : State) (entry : Option (Nat × (Nat → Word))) : Prop :=
  ∀ d f, entry = some (d, f) → ∃ (act : State → Act) (ci : Nat → Bool),
    exec i s = issueSeq i act s ∧ act s = .done (laneWrite s d (laneVals f) ci 0)

theorem writesPlain_none (i : Instr) (s : State) : WritesPlain i s none := fun _ _ h => nomatch h

section

/-! One lemma per shape of a lane instruction without flags. -/

variable {i : Instr} {s : State} {entry : Option (Nat × (Nat → Word))}

theorem writesPlain_some {act : State → Act} {d : Nat} {f : Nat → Word} {ci : Nat → Bool}
    (he : exec i s = issueSeq i act s) (ha : act s = .done (laneWrite s d (laneVals f) ci 0)) (ht : entry = some (d, f)) :
    WritesPlain i s entry := by
  intro d' f' h
  obtain ⟨rfl, rfl⟩ : d = d' ∧ f = f' := by simpa [ht] using h
  exact ⟨act, ci, he, ha⟩

theorem writesPlain_lane2 {o : LForm} {g : Word → Word → Word} (he : exec i s = lane2 i o g s) (ht : entry = two s o g) :
    WritesPlain i s entry :=
  writesPlain_some he rfl ht

theorem writesPlain_lane2I {o : LForm} {g : Word → Word → Word} {c : Word → Bool} (he : exec i s = lane2I i o g c s)
    (ht : entry = two s o g) : WritesPlain i s entry :=
  writesPlain_some he rfl ht

theorem writesPlain_lane1 {o : LForm} {g : Word → Word} (he : exec i s = lane1 i o g s) (ht : entry = one s o g) :
    WritesPlain i s entry :=
  writesPlain_some he rfl ht

theorem writesPlain_lane1I {o : LForm} {g : Word → Word} (he : exec i s = lane1I i o g s) (ht : entry = one s o g) :
    WritesPlain i s entry :=
  writesPlain_some he rfl ht

theorem writesPlain_lane3 {o : LqForm} {g : Word → Word → Word → Word} (he : exec i s = lane3 i o g s)
    (ht : entry = three s o g) : WritesPlain i s entry :=
  writesPlain_some he rfl ht

theorem writesPlain_lane2q {o : LqForm} {g : Word → Word → Word} (he : exec i s = lane2q i o g s)
    (ht : entry = three s o fun a b _ => g a b) : WritesPlain i s entry :=
  writesPlain_some he rfl ht

theorem writesPlain_lane1q {o : LqForm} {g : Word → Word} (he : exec i s = lane1q i o g s)
    (ht : entry = three s o fun a _ _ => g a) : WritesPlain i s entry :=
  writesPlain_some he rfl ht

end

theorem two_congr {s : State} {o : LForm} {f g : Word → Word → Word} (h : ∀ a b, f a b = g a b) : two s o g = two s o f :=
  congrArg (two s o) (funext fun a => funext fun b => (h a b).symm)

theorem one_congr {s : State} {o : LForm} {f g : Word → Word} (h : ∀ a, f a = g a) : one s o g = one s o f :=
  congrArg (one s o) (funext fun a => (h a).symm)

theorem laneInt2_writes (i : Instr) (s : State) : WritesPlain i s (laneInt2 s i) := by
  cases i with
  | iadd o => exact writesPlain_lane2I (exec_iadd s o) rfl
  | isub o => exact writesPlain_lane2I (exec_isub s o) rfl
  | imul o => exact writesPlain_lane2I (exec_imul s o) rfl
  | imulh o => exact writesPlain_lane2 (exec_imulh s o) (two_congr mulHighS_eq)
  | laneUmulh o => exact writesPlain_lane2 (exec_laneUmulh s o) (two_congr mulHighU_eq)
  | iand o => exact writesPlain_lane2 (exec_iand s o) rfl
  | ior o => exact writesPlain_lane2 (exec_ior s o) rfl
  | ixor o => exact writesPlain_lane2I (exec_ixor s o) rfl
  | shl o => exact writesPlain_lane2 (exec_shl s o) (two_congr shlW_eq)
  | shr o => exact writesPlain_lane2 (exec_shr s o) (two_congr shrW_eq)
  | sar o => exact writesPlain_lane2 (exec_sar s o) (two_congr sarW_eq)
  | rol o => exact writesPlain_lane2I (exec_rol s o) (two_congr rolW_eq)
  | ror o => exact writesPlain_lane2I (exec_ror s o) (two_congr rorW_eq)
  | imin o => exact writesPlain_lane2 (exec_imin s o) (two_congr smin_eq)
  | imax o => exact writesPlain_lane2 (exec_imax s o) (two_congr smax_eq)
  | laneUmin o => exact writesPlain_lane2 (exec_laneUmin s o) (two_congr umin_eq)
  | laneUmax o => exact writesPlain_lane2 (exec_laneUmax s o) (two_congr umax_eq)
  | iadds o => exact writesPlain_lane2 (exec_iadds s o) (two_congr fun a b => clampS_eq (a.toInt + b.toInt))
  | isubs o => exact writesPlain_lane2 (exec_isubs s o) (two_congr fun a b => clampS_eq (a.toInt - b.toInt))
  | _ => exact writesPlain_none _ s

theorem laneInt1_writes (i : Instr) (s : State) : WritesPlain i s (laneInt1 s i) := by
  cases i with
  | inot o => exact writesPlain_lane1I (exec_inot s o) rfl
  | ineg o => exact writesPlain_lane1I (exec_ineg s o) (one_congr fun a => (BitVec.zero_sub a).symm)
  | brev o => exact writesPlain_lane1I (exec_brev s o) rfl
  | iabs o => exact writesPlain_lane1 (exec_iabs s o) (one_congr absW_eq)
  | popc o => exact writesPlain_lane1 (exec_popc s o) (one_congr popcW_eq)
  | clz o => exact writesPlain_lane1 (exec_clz s o) (one_congr clzW_eq)
  | fabs o => exact writesPlain_lane1 (exec_fabs s o) rfl
  | fneg o => exact writesPlain_lane1I (exec_fneg s o) rfl
  | fclass o => exact writesPlain_lane1 (exec_fclass s o) rfl
  | imad o => exact writesPlain_lane3 (exec_imad s o) rfl
  | sel o => exact writesPlain_lane3 (exec_sel s o) (by simp [laneInt1])
  | bpick o => exact writesPlain_lane3 (exec_bpick s o) rfl
  | bfe o => exact writesPlain_lane1q (exec_bfe s o) rfl
  | bfi o => exact writesPlain_lane2q (exec_bfi s o) rfl
  | icmp o => exact writesPlain_lane2q (exec_icmp s o) rfl
  | mov o =>
    exact writesPlain_some (exec_mov s o) (congrArg Act.done (laneWrite_laneVals s _ (s.laneSrc o.b o.lit) _ 0).symm) rfl
  | lread o => exact writesPlain_some (exec_lread s o) rfl rfl
  | _ => exact writesPlain_none _ s

/-- Settles O1: each entry of the two tables is a vector write without flags, and such a write completes. -/
theorem laneIntegerResults : Obligations.LaneIntegerResults := by
  unfold Obligations.LaneIntegerResults
  intro i s d f h hc hr
  obtain ⟨act, ci, he, ha⟩ := h.elim (laneInt2_writes i s d f) (laneInt1_writes i s d f)
  rw [he]
  exact lanePlain_completes hc hr ha

/-! ### Instructions that raise flags, or read several lanes (05 R125, R127, R128, R130-R138, R140) -/

/-- Settles O2: each entry of the four tables is a vector write with the entry's flags, and such a write completes when
none of them is trapped. -/
theorem laneFlaggedResults : Obligations.LaneFlaggedResults := by
  unfold Obligations.LaneFlaggedResults
  intro i s d f fl h hc hr ht
  have hw : ∃ act : State → Act, exec i s = issueSeq i act s ∧ act s = .done (laneWriteD s d (laneVals f) fl) := by
    rcases h with h | h | h | h
    · exact laneFloat_writes i s d f fl h
    · exact lanePacked_writes i s d f fl h
    · exact laneConvert_writes i s d f fl h
    · exact laneCross_writes i s d f fl h
  obtain ⟨act, he, ha⟩ := hw
  rw [he]
  exact laneWrite_completes hc hr ha ht

/-! ### Special functions (05 R129) -/

/-- The effect of a special function: its flags, and an outstanding result of class SF with its values. -/
def specialEffect (s : State) (d : BitVec 7) (g : Nat → Word × Flags) : Effect where
  post := s
  recs := laneRecs s.co d.toNat s.co.st.mask
  flags := flagsOver s.co.st.mask fun k => (g k).2
  outst := outstOf s .sf [.v d.toNat s.co.st.mask (laneVals fun k => (g k).1)]

/-- The flags of a lane set depend on its lanes alone. -/
theorem flagsOver_congr {f g : Nat → Flags} (h : ∀ k < 96, f k = g k) (m : LaneSet) : flagsOver m f = flagsOver m g := by
  have hmap : (lanesOf m).map f = (lanesOf m).map g :=
    List.map_congr_left fun k hk => h k (List.mem_range.mp (List.mem_filter.mp hk).1)
  rw [flagsOver, flagsOver, ← List.foldl_map, hmap, List.foldl_map]

/-- The instruction goes on in sequence, and its own rules give the effect of a table's entry, when there is one, once a
result of class SF may be outstanding. -/
def WritesSpecial (i : Instr) (s : State) (entry : Option (BitVec 7 × (Nat → Word × Flags))) : Prop :=
  ∀ d g, entry = some (d, g) → ∃ act : State → Act,
    exec i s = issueSeq i act s ∧ act s = withTicket s .sf (.done (specialEffect s d g))

theorem writesSpecial_none (i : Instr) (s : State) : WritesSpecial i s none := fun _ _ h => nomatch h

theorem writesSpecial_laneSpecial {i : Instr} {s : State} {entry : Option (BitVec 7 × (Nat → Word × Flags))} {o : LForm}
    {f : Word → Word → Word → Word × Flags} (he : exec i s = laneSpecial i o f s)
    (ht : entry = some (o.d, fun k => f s.co.fmode (s.co.vlane o.a.toNat k) (wordAt (s.laneSrc o.b o.lit) k))) :
    WritesSpecial i s entry := by
  intro d g h
  obtain ⟨rfl, rfl⟩ : o.d = d ∧ _ = g := by simpa [ht] using h
  refine ⟨_, he, ?_⟩
  have hfl (m : LaneSet) (r : Nat → Word × Flags) :
      flagsOver m (fun k => ((laneNums.map r).getD k (0, 0)).2) = flagsOver m fun k => (r k).2 :=
    flagsOver_congr (fun k hk => by simp [laneNums, hk]) m
  simp only [hfl, List.map_map]
  rfl

theorem laneSpecials_writes (i : Instr) (s : State) : WritesSpecial i s (laneSpecials s i) := by
  cases i with
  | fdiv o => exact writesSpecial_laneSpecial (exec_fdiv s o) rfl
  | fsqrt o => exact writesSpecial_laneSpecial (exec_fsqrt s o) rfl
  | frcp o => exact writesSpecial_laneSpecial (exec_frcp s o) rfl
  | frsq o => exact writesSpecial_laneSpecial (exec_frsq s o) rfl
  | fexp2 o => exact writesSpecial_laneSpecial (exec_fexp2 s o) rfl
  | flog2 o => exact writesSpecial_laneSpecial (exec_flog2 s o) rfl
  | fsin o => exact writesSpecial_laneSpecial (exec_fsin s o) rfl
  | fcos o => exact writesSpecial_laneSpecial (exec_fcos s o) rfl
  | ftanh o => exact writesSpecial_laneSpecial (exec_ftanh s o) rfl
  | fsigm o => exact writesSpecial_laneSpecial (exec_fsigm s o) rfl
  | _ => exact writesSpecial_none _ s

/-- The Flags record of an effect takes at most 8 bytes, and an arrival 16 (01 R18). -/
theorem Effect.bytes_le (e : Effect) (s : State) : e.bytes s ≤ bodyBytes e.recs + 24 := by
  unfold Effect.bytes Effect.bodies
  rw [bodyBytes_append]
  split
  · simp only [bodyBytes, RecBody.size]
    omega
  · simp only [bodyBytes]
    omega

/-- Settles O3: each entry of the table is the effect of a special function, whose records are at most those of a lane
write. -/
theorem laneSpecialFunctions : Obligations.LaneSpecialFunctions := by
  unfold Obligations.LaneSpecialFunctions
  intro i s d g h hc hr hout ht
  obtain ⟨act, he, ha⟩ := laneSpecials_writes i s d g h
  rw [withTicket_of (cls := .sf) hout] at ha
  have hn : (specialEffect s d g).bytes s ≤ 428 :=
    Nat.le_trans ((specialEffect s d g).bytes_le s)
      (Nat.add_le_add_right (bodyBytes_laneRecs s.co d.toNat s.co.st.mask) 24)
  rw [he]
  exact issueSeq_completes hc ha ((Anchored.refl s).fresh rfl) hr hn ht rfl

end Sys2Proof.Machine

/-! The rules of single lane instructions, whole (05 R122-R124, R126, R138, R139). -/

namespace Sys2Proof.Machine

open Sys2Proof.Claims

/-! ### Opcode, causes 0x01 and 0x02, and what passing the checks says (03 R67, R75) -/

theorem op8_of_l {i : Instr} {op : BitVec 8} {o : LForm} (h : i.form = .l op o) : op8 i = op := by
  simp [op8, Instr.word0, encode, h, Form.words]

theorem op8_of_lq {i : Instr} {op : BitVec 8} {o : LqForm} (h : i.form = .lq op o) : op8 i = op := by
  simp [op8, Instr.word0, encode, h, Form.words]

theorem raises_operandFault {i : Instr} {s : State} (hev : i.isEvent = false) (h : operandFault s i) : Raises i s 0x01 :=
  (issueChecksFirst i s hev).1 _ (decodeChecks_fault h)

theorem raises_reserved {i : Instr} {s : State} (hev : i.isEvent = false) (hf : ¬ operandFault s i)
    (hr : ¬ i.reservedOk = true) : Raises i s 0x02 :=
  (issueChecksFirst i s hev).1 _ (decodeChecks_reserved hf (Bool.not_eq_true _ ▸ hr))

theorem State.Clear.not_operandFault {s : State} {i : Instr} (h : s.Clear i) : ¬ operandFault s i := by
  intro hf
  have hc := h.checks
  rw [decodeChecks_fault hf] at hc
  cases hc

theorem State.Clear.reservedOk {s : State} {i : Instr} (h : s.Clear i) : i.reservedOk = true := by
  cases hr : i.reservedOk with
  | true => rfl
  | false =>
    have hc := h.checks
    rw [decodeChecks_reserved h.not_operandFault hr] at hc
    cases hc

/-- A class-D write without flags completes and pushes the old values; which words it writes may rest on the checks at
issue. -/
theorem WritesLanes.claim {i : Instr} {s : State} {d : Nat} {f g : Nat → Word} (h : WritesLanes i s (some (d, f, 0)))
    (hfg : s.Clear i → ∀ k < 96, f k = g k) : Claims.WritesLanes i s d g := by
  intro hc hr
  obtain ⟨act, he, ha⟩ := h d f 0 rfl
  rw [laneVals_congr (hfg hc)] at ha
  obtain ⟨t, ht, hcomp⟩ := lanePlain_completes hc hr ha
  refine ⟨t, he.trans ht, hcomp, fun hs hm hmark => ?_⟩
  obtain ⟨u, hu, hw⟩ := laneWrite_whey hc hr ha
  obtain rfl : t = u := by simpa [ht] using hu
  exact (hw.trans (Effect.whey_pushed hs hmark _)).trans (by rw [← laneWriteD, laneWriteD_bodies hm]; rfl)

section

/-! One lemma per shape of a class-D lane instruction without flags. -/

variable {i : Instr} {s : State} {o : LqForm}

theorem writesLanes_lane3 {g : Word → Word → Word → Word} (he : exec i s = lane3 i o g s) :
    WritesLanes i s (some (o.d.toNat, fun k => g (s.quad o k).1 (s.quad o k).2.1 (s.quad o k).2.2.1, 0)) :=
  writesLanes_some he rfl rfl

theorem writesLanes_lane2q {g : Word → Word → Word} (he : exec i s = lane2q i o g s) :
    WritesLanes i s (some (o.d.toNat, fun k => g (s.quad o k).1 (s.quad o k).2.1, 0)) :=
  writesLanes_some he rfl rfl

theorem writesLanes_lane1q {g : Word → Word} (he : exec i s = lane1q i o g s) :
    WritesLanes i s (some (o.d.toNat, fun k => g (s.quad o k).1, 0)) :=
  writesLanes_some he rfl rfl

end

/-! ### `BFE` and `BFI` (05 R122) -/

theorem signedOf_toNat {n : Nat} (x : BitVec n) : signedOf n x.toNat = x.toInt := by
  have hx := x.isLt
  rw [BitVec.toInt_eq_toNat_cond, signedOf, Nat.mod_eq_of_lt hx]
  push_cast
  split <;> split <;> omega

theorem bfeW_eq (pos len : Nat) (sx : Bool) (a : Word) : bfeW pos len sx a
    = if sx then (a.extractLsb' pos len).signExtend 32 else (a.extractLsb' pos len).setWidth 32 := by
  have hf : a.toNat / 2 ^ pos % 2 ^ len = (a.extractLsb' pos len).toNat := by
    rw [BitVec.extractLsb'_toNat, Nat.shiftRight_eq_div_pow]
  rw [bfeW, hf]
  cases sx with
  | false => exact BitVec.ofNat_toNat _ _
  | true => exact congrArg (BitVec.ofInt 32) (signedOf_toNat _)

/-- LEN outside 1 to 32, or a field that passes bit 31. -/
theorem bitField_badValue {o : LqForm} (h : o.len = 0 ∨ 32 < o.len ∨ 32 < o.pos + o.len) :
    (o.len == 0 || decide (o.len > 32) || decide (o.pos + o.len > 32)) = true := by
  simpa [or_assoc] using h

theorem reservedOk_bfe {o : LqForm} :
    (Instr.bfe o).reservedOk = true ↔ o.b = 0 ∧ o.c = 0 ∧ o.mod = 0 ∧ o.imm.extractLsb' 0 4 = 0 := by
  show (o.b == 0 && o.c == 0 && o.mod == 0 && o.imm.extractLsb' 0 4 == 0) = true ↔ _
  simp [and_assoc]

theorem reservedOk_bfi {o : LqForm} :
    (Instr.bfi o).reservedOk = true ↔ o.c = 0 ∧ o.mod = 0 ∧ o.imm.extractLsb' 0 5 = 0 := by
  show (o.c == 0 && o.mod == 0 && o.imm.extractLsb' 0 5 == 0) = true ↔ _
  simp [and_assoc]

/-- Settles O54: the limits of POS and LEN are a check of operand values; the written field is the extracted one, extended. -/
theorem bitFields : Obligations.BitFields := by
  unfold Obligations.BitFields
  intro o s
  refine ⟨op8_of_lq rfl, op8_of_lq rfl, fun h => ?_, fun hf hres => raises_reserved rfl hf fun h => ?_,
    fun hf hres => raises_reserved rfl hf fun h => ?_, ?_, ?_⟩
  · have hbad := bitField_badValue (o := o) h
    exact ⟨raises_operandFault rfl (.inr (.inl hbad)), raises_operandFault rfl (.inr (.inl hbad))⟩
  · obtain ⟨hb, -, -, himm⟩ := reservedOk_bfe.mp h
    exact hres.elim (absurd himm) (absurd hb)
  · obtain ⟨-, -, himm⟩ := reservedOk_bfi.mp h
    exact hres himm
  · exact (writesLanes_lane1q (exec_bfe s o)).claim fun _ k _ => bfeW_eq _ _ _ _
  · exact (writesLanes_lane2q (exec_bfi s o)).claim fun _ k _ => rfl

/-! ### `SEL`, `MOV` and `SWAP` (05 R123) -/

/-- `SWAP` writes each register in the active lanes with the old values of the other. -/
theorem swap_completes {o : LForm} {s : State} (hc : s.Clear (.swap o)) (hr : s.Room s 428) :
    ∃ t, exec (.swap o) s = .next t ∧ Completes s t
      ((s.withLanes o.d.toNat fun k => s.co.vlane o.a.toNat k).withLanes o.a.toNat fun k => s.co.vlane o.d.toNat k)
      (s.after (.swap o)) false :=
  ⟨_, (issuesTo_seq (exec_swap s o) rfl).concludes_seq hc,
    conclude_plain ⟨rfl⟩ (Room.ofCo hr _ rfl rfl) (by simp [bodyBytes])⟩

/-- Exchanging a register with itself changes no lane. -/
theorem vlane_swap_self (s : State) (d c : Nat) {k : Nat} (hk : k < 96) :
    ((s.withLanes d fun k => s.co.vlane d k).withLanes d fun k => s.co.vlane d k).co.vlane c k = s.co.vlane c k :=
  have own : ∀ c, ∀ j < 96, (s.withLanes d fun k => s.co.vlane d k).co.vlane c j = s.co.vlane c j :=
    fun c _ hj => vlane_withLanes_own (fun _ _ => rfl) c hj
  (vlane_withLanes_own (fun j hj => (own d j hj).symm) c hk).trans (own c k hk)

theorem vlane_of_regs {c d : Cohort} (h : c.regs = d.regs) (n k : Nat) : c.vlane n k = d.vlane n k := by
  show c.regs.vlane n k = d.regs.vlane n k
  rw [h]

/-- Settles O55: `SEL` and `MOV` are entries of the table of O1; `SWAP` is two vector writes. -/
theorem selectMoveSwap : Obligations.SelectMoveSwap := by
  unfold Obligations.SelectMoveSwap
  refine ⟨fun o s => ⟨op8_of_lq rfl, fun hc hr => ?_⟩, fun o s => ⟨op8_of_l rfl, fun hc hr => ?_⟩,
    fun o s => ⟨op8_of_l rfl, fun hc hr => ?_⟩⟩
  · simp only [ne_eq, ite_not]
    exact laneIntegerResults (.sel o) s _ _ (.inr rfl) hc hr
  · exact laneIntegerResults (.mov o) s _ _ (.inr rfl) hc hr
  · obtain ⟨t, ht, hcomp⟩ := swap_completes hc hr
    refine ⟨t, ht, hcomp, fun hda c k hk => ?_⟩
    rw [vlane_of_regs hcomp.regs, hda, vlane_swap_self s _ c hk]

/-! ### `ICMP` (05 R124) -/

theorem word_beq (a b : Word) : (a == b) = decide (a = b) := by
  rw [Bool.eq_iff_iff, beq_iff_eq, decide_eq_true_iff]

/-- The conditions of 04 R98 are those of the model. -/
theorem intCond_eq_condHolds {c : Nat} (h : c < 12) (a b : Word) : intCond c a b = condHolds c a b := by
  have hcases : c = 0 ∨ c = 1 ∨ c = 2 ∨ c = 3 ∨ c = 4 ∨ c = 5 ∨ c = 6 ∨ c = 7 ∨ c = 8 ∨ c = 9 ∨ c = 10
      ∨ c = 11 := by omega
  rcases hcases with rfl | rfl | rfl | rfl | rfl | rfl | rfl | rfl | rfl | rfl | rfl | rfl <;>
    simp [intCond, condHolds, BitVec.slt_eq_decide, BitVec.sle_eq_decide, BitVec.ult_eq_decide, BitVec.ule_eq_decide,
      word_beq, bne]

theorem reservedOk_icmp {o : LqForm} :
    (Instr.icmp o).reservedOk = true ↔ o.c = 0 ∧ o.mod.extractLsb' 4 4 = 0 ∧ o.imm = 0 ∧ o.cond < 12 := by
  show (o.c == 0 && o.mod.extractLsb' 4 4 == 0 && o.imm == 0 && decide (o.cond < 12)) = true ↔ _
  simp [and_assoc]

/-- Settles O56: a condition that passes the checks is one of the twelve. -/
theorem integerCompare : Obligations.IntegerCompare := by
  unfold Obligations.IntegerCompare
  intro o s
  refine ⟨op8_of_lq rfl, fun hf hres => raises_reserved rfl hf fun h => ?_, ?_⟩
  · obtain ⟨-, hmod, -, hcond⟩ := reservedOk_icmp.mp h
    exact hres.elim (Nat.not_le.mpr hcond) (absurd hmod)
  · refine (writesLanes_lane2q (exec_icmp s o)).claim fun hc k _ => ?_
    obtain ⟨-, -, -, hcond⟩ := reservedOk_icmp.mp hc.reservedOk
    rw [intCond_eq_condHolds hcond]
    rfl

/-! ### `LREAD` (05 R126) -/

/-- The active lanes below a lane. -/
theorem lanesOf_below (m : LaneSet) {k : Nat} (hk : k < 96) :
    (lanesOf m).filter (· < k) = (List.range k).filter m.getLsbD := by
  have hsplit : laneNums = List.range k ++ (List.range (96 - k)).map (k + ·) := by
    rw [laneNums, ← List.range_add, Nat.add_sub_cancel' (Nat.le_of_lt hk)]
  have hbelow : laneNums.filter (· < k) = List.range k := by
    rw [hsplit, List.filter_append, List.filter_eq_self.mpr (by simp), List.filter_eq_nil_iff.mpr (by simp),
      List.append_nil]
  rw [lanesOf, List.filter_filter, ← hbelow, List.filter_filter]
  simp only [Bool.and_comm]

theorem reservedOk_lread {o : LqForm} :
    (Instr.lread o).reservedOk = true ↔ o.a = 0 ∧ o.b = 0 ∧ o.c = 0 ∧ o.mod = 0 ∧ o.imm.toNat < 4 := by
  show (o.a == 0 && o.b == 0 && o.c == 0 && o.mod == 0 && decide (o.imm.toNat < 4)) = true ↔ _
  simp [and_assoc]

/-- SEL is the low four bits of IMM16. -/
theorem lreadSel_eq (x : BitVec 16) : (x.extractLsb' 0 4).toNat = x.toNat % 16 := by
  simp

/-- `LREAD` writes what SEL names: IMM16 holds no more when it passes the checks. -/
theorem lread_claim {o : LqForm} {s : State} {g : Nat → Word}
    (h : ∀ k < 96, lreadValue s (o.imm.extractLsb' 0 4).toNat k = g k) :
    Claims.WritesLanes (.lread o) s o.d.toNat g := by
  refine (writesLanes_some (exec_lread s o) rfl rfl).claim fun hc k hk => ?_
  obtain ⟨-, -, -, -, himm⟩ := reservedOk_lread.mp hc.reservedOk
  rw [← h k hk, lreadSel_eq, Nat.mod_eq_of_lt (by omega)]

/-- Settles O57: SEL picks one of the four values. -/
theorem lanePosition : Obligations.LanePosition := by
  unfold Obligations.LanePosition
  intro o s
  refine ⟨op8_of_lq rfl, fun hf hres => raises_reserved rfl hf fun h => ?_, fun hsel => lread_claim fun k _ => ?_,
    fun hsel => lread_claim fun k _ => ?_, fun hsel => lread_claim fun k _ => ?_, fun hsel => lread_claim fun k hk => ?_⟩
  · obtain ⟨ha, hb, hc, hmod, himm⟩ := reservedOk_lread.mp h
    rw [lreadSel_eq] at hres
    rcases hres with h | h | h | h | h
    · omega
    · exact h ha
    · exact h hb
    · exact h hc
    · exact h hmod
  · rw [hsel]
    rfl
  · rw [hsel]
    rfl
  · rw [hsel]
    rfl
  · rw [hsel, ← lanesOf_below _ hk]
    rfl

/-! ### Shuffles (05 R138) -/

theorem segWidth_eq {code : Nat} (h : code < 5) : [4, 8, 16, 32, 96].getD code 96 = segWidth code := by
  have hall : ∀ c : Fin 5, [4, 8, 16, 32, 96].getD c.val 96 = segWidth c.val := by decide
  exact hall ⟨code, h⟩

/-- What lane `k` takes in segments of `w` lanes: A of its source lane, or C. -/
def takenWord (s : State) (o : LqForm) (w k : Nat) : Option Nat → Word
  | some j => if j < k - k % w + w ∧ s.co.st.mask.getLsbD j then s.co.vlane o.a.toNat j else (s.quad o k).2.2.1
  | none => (s.quad o k).2.2.1

/-- The instruction is a shuffle, with the reserved fields of one. -/
structure IsShuffle (i : Instr) (o : LqForm) (s : State) (src : Nat → Nat → Nat → Option Nat) : Prop where
  noEvent : i.isEvent = false
  fields : i.reservedOk = (o.mod == 0 && decide (o.imm.toNat < 5))
  meaning : exec i s = shuffle i o src s

section
variable {i : Instr} {o : LqForm} {s : State} {src : Nat → Nat → Nat → Option Nat} (h : IsShuffle i o s src)
include h

theorem IsShuffle.reservedOk (hok : i.reservedOk = true) : o.mod = 0 ∧ o.imm.toNat < 5 := by
  rw [h.fields] at hok
  simpa using hok

theorem IsShuffle.raises (hf : ¬ operandFault s i)
    (hres : 5 ≤ (o.imm.extractLsb' 0 3).toNat ∨ o.imm.extractLsb' 3 13 ≠ 0 ∨ o.mod ≠ 0) : Raises i s 0x02 := by
  refine raises_reserved h.noEvent hf fun hok => ?_
  obtain ⟨hmod, himm⟩ := h.reservedOk hok
  rcases hres with h | h | h
  · have hlow : (o.imm.extractLsb' 0 3).toNat ≤ o.imm.toNat := by
      rw [BitVec.extractLsb'_toNat]
      exact Nat.mod_le _ _
    omega
  · refine h (BitVec.eq_of_toNat_eq ?_)
    rw [BitVec.extractLsb'_toNat, Nat.shiftRight_eq_div_pow]
    simp
    omega
  · exact h hmod

/-- The source lanes of a shuffle, written in another way. -/
theorem IsShuffle.congr {src' : Nat → Nat → Nat → Option Nat} (hsrc : ∀ w k b, src w k b = src' w k b) :
    IsShuffle i o s src' :=
  (funext fun w => funext fun k => funext (hsrc w k)) ▸ h

/-- The words of a shuffle, with the segments' width as 05 R138 lists it. -/
theorem IsShuffle.claim : Claims.WritesLanes i s o.d.toNat fun k =>
    takenWord s o ([4, 8, 16, 32, 96].getD (o.imm.extractLsb' 0 3).toNat 96) k
      (src ([4, 8, 16, 32, 96].getD (o.imm.extractLsb' 0 3).toNat 96) k (s.quad o k).2.1.toNat) := by
  refine (writesLanes_shuffle h.meaning).claim fun hc k _ => ?_
  obtain ⟨-, himm⟩ := h.reservedOk hc.reservedOk
  have hw : [4, 8, 16, 32, 96].getD (o.imm.extractLsb' 0 3).toNat 96 = segWidth o.low3 :=
    segWidth_eq (by rw [BitVec.extractLsb'_toNat]; exact Nat.lt_of_le_of_lt (Nat.mod_le _ _) himm)
  rw [hw]
  rfl

end

/-- Settles O58: each of the four is a shuffle, with the distance from the segment's base written as a remainder. -/
theorem shuffles : Obligations.Shuffles := by
  unfold Obligations.Shuffles
  intro o s
  have hbase (w k : Nat) : k % w = k - (k - k % w) := (Nat.sub_sub_self (Nat.mod_le k w)).symm
  have hshfl : IsShuffle (.shfl o) o s fun w k b => some (k - k % w + b % w) := ⟨rfl, rfl, exec_shfl s o⟩
  have hshflx : IsShuffle (.shflx o) o s fun w k b => some (k - k % w + ((k - (k - k % w)) ^^^ (b % 128))) :=
    IsShuffle.congr ⟨rfl, rfl, exec_shflx s o⟩ fun w k b => by rw [← hbase]; rfl
  have hshflu : IsShuffle (.shflu o) o s fun w k b => if b ≤ k - (k - k % w) then some (k - b) else none :=
    IsShuffle.congr ⟨rfl, rfl, exec_shflu s o⟩ fun w k b => by rw [← hbase]
  have hshfld : IsShuffle (.shfld o) o s fun w k b => if b + k < k - k % w + w then some (k + b) else none :=
    IsShuffle.congr ⟨rfl, rfl, exec_shfld s o⟩ fun w k b => by rw [Nat.add_comm b]; rfl
  exact ⟨⟨op8_of_lq rfl, op8_of_lq rfl, op8_of_lq rfl, op8_of_lq rfl⟩, ⟨hshfl.raises, hshfl.claim⟩,
    ⟨hshflx.raises, hshflx.claim⟩, ⟨hshflu.raises, hshflu.claim⟩, ⟨hshfld.raises, hshfld.claim⟩⟩

/-! ### `BPICK` (05 R139) -/

theorem toNat_extractByte {w : Nat} (x : BitVec w) (k : Nat) :
    (x.extractLsb' (8 * k) 8).toNat = x.toNat / 256 ^ k % 256 := by
  rw [BitVec.extractLsb'_toNat, Nat.shiftRight_eq_div_pow, Nat.pow_mul]

theorem toNat_append_eq_add {m n : Nat} (x : BitVec m) (y : BitVec n) :
    (x ++ y).toNat = x.toNat * 2 ^ n + y.toNat := by
  rw [BitVec.toNat_append, ← Nat.shiftLeft_add_eq_or_of_lt y.isLt, Nat.shiftLeft_eq]

/-- Four bytes, the lowest first. -/
theorem joinBits_bytes (x0 x1 x2 x3 : Byte) :
    joinBits 8 [x0.toNat, x1.toNat, x2.toNat, x3.toNat] = x3 ++ x2 ++ x1 ++ x0 := by
  apply BitVec.eq_of_toNat_eq
  have h0 := x0.isLt
  have h1 := x1.isLt
  have h2 := x2.isLt
  have h3 := x3.isLt
  simp only [toNat_append_eq_add, joinBits, List.foldr, BitVec.toNat_ofNat]
  omega

theorem bpickW_eq (a b c : Word) : bpickW a b c
    = pickedByte a b c 3 ++ pickedByte a b c 2 ++ pickedByte a b c 1 ++ pickedByte a b c 0 := by
  rw [← joinBits_bytes]
  have hpair : a.toNat + 2 ^ 32 * b.toNat = (b ++ a).toNat := by
    rw [toNat_append_eq_add, Nat.mul_comm, Nat.add_comm]
  refine congrArg (joinBits 8) (List.map_congr_left (l := List.range 4)
    (g := fun k => (pickedByte a b c k).toNat) fun k _ => ?_)
  simp only [pickedByte, hpair, ← toNat_extractByte c k]
  generalize c.extractLsb' (8 * k) 8 = ctl
  have hsel : ctl.toNat % 8 = (ctl.extractLsb' 0 3).toNat := by simp
  have hmode : ctl.toNat / 8 % 4 = (ctl.extractLsb' 3 2).toNat := by
    rw [BitVec.extractLsb'_toNat, Nat.shiftRight_eq_div_pow]
  simp only [hsel, hmode, ← toNat_extractByte]
  generalize (b ++ a).extractLsb' (8 * (ctl.extractLsb' 0 3).toNat) 8 = x
  match (ctl.extractLsb' 3 2).toNat with
  | 0 | 1 | 2 => rfl
  | n + 3 => simp [revByte]

theorem reservedOk_bpick {o : LqForm} : (Instr.bpick o).reservedOk = true ↔ o.mod = 0 ∧ o.imm = 0 := by
  show (o.mod == 0 && o.imm == 0) = true ↔ _
  simp

/-- Settles O59: each byte of the written word is the picked one. -/
theorem bytePick : Obligations.BytePick := by
  unfold Obligations.BytePick
  intro o s
  refine ⟨op8_of_lq rfl, fun hf hres => raises_reserved rfl hf fun h => ?_, ?_⟩
  · obtain ⟨hmod, himm⟩ := reservedOk_bpick.mp h
    exact hres.elim (absurd hmod) (absurd himm)
  · exact (writesLanes_lane3 (exec_bpick s o)).claim fun _ k _ => bpickW_eq _ _ _

end Sys2Proof.Machine

/-! Divergence, joining and leaving (07 R158-R166, 09 R203-R207). -/

namespace Sys2Proof.Machine

/-! ### Instructions that end themselves (01 R15, R17, 07 R163) -/

/-- `p` is what the rules of an instruction make of `s` before it ends: at most `n` more bytes of records, the region and
what stands of it in memory as before, and no entry to spill. -/
structure Ends (s p : State) (n : Nat) : Prop where
  wheyWb : p.co.wheyWb = s.co.wheyWb
  wheyBase : p.co.wheyBase = s.co.wheyBase
  core : p.co.core = s.co.core
  wheyt : p.co.wheyt ≤ s.co.wheyt + n
  stack : p.co.stack.length ≤ 32 ∨ p.co.stack.length ≤ s.co.stack.length

theorem Ends.trace {s p : State} {n : Nat} (h : Ends s p n) (kind spec : Nat) (extra : List Word) :
    Ends s (p.trace kind spec extra) n := by
  rw [(OnlyTrace.trace p kind spec extra).eq]
  exact ⟨h.wheyWb, h.wheyBase, h.core, h.wheyt, h.stack⟩

/-- How far the records stand in memory is no register. -/
theorem Cohort.bare_written (c : Cohort) (upto : Nat) : ({ c.pass with wheyWb := upto } : Cohort).bare = c.bare :=
  c.bare_pass

/-- The write-back of an instruction that has room (01 R15). -/
theorem State.Room.flush {s p : State} {n : Nat} (hr : s.Room p n) (he : Ends s p n) :
    ∃ u v, p.wheyFlush 1024 = .ok u ∧ WroteWhey s p v ∧ u = { v with co := u.co } ∧ u.co.bare = p.co.bare := by
  have hwb := he.wheyWb
  have hwheyt := he.wheyt
  unfold State.wheyFlush
  dsimp only
  split
  · exact ⟨p, p, rfl, .inl rfl, rfl, rfl⟩
  · next hdue =>
    obtain hle | ⟨hsz, htr⟩ := hr.writeBack
    · omega
    generalize hbs : List.take _ _ = bs
    have hlen : bs.length ≤ p.co.wheyt - 1024 - p.co.wheyWb := hbs ▸ List.length_take_le _ _
    have hreg : s.co.wheyWb + bs.length ≤ 2 ^ s.co.szl := by omega
    rw [he.core, he.wheyBase, hwb]
    obtain ⟨v, hv⟩ := vaStore_ok (core := s.co.core) (htr s.co.wheyWb bs.length hreg)
    rw [hv]
    refine ⟨_, v, rfl, .inr ⟨bs, hreg, hv⟩, rfl, ?_⟩
    rw [State.setCo_co, (vaStore_onlyMem hv).co]
    exact Cohort.bare_written p.co _

/-- With at most 32 entries, or no more than before, none is written down (07 R163). -/
theorem Ends.spill {s p : State} {n : Nat} (h : Ends s p n) :
    (if s.co.stack.length < p.co.stack.length then p.spillEntry else .ok p) = .ok p := by
  refine ite_eq_right_iff.mpr fun hmore => ?_
  have hle : p.co.stack.length ≤ 32 := h.stack.resolve_right (Nat.not_le.mpr hmore)
  rw [State.spillEntry]
  exact if_pos hle

theorem Cohort.bare_commit (c : Cohort) : c.commit.bare = c.bare.commit.bare := by
  simp [Cohort.bare, Cohort.commit, Cohort.mapStrands, Function.comp_def]

/-- An instruction that ends itself and has room leaves what its rules made (01 R13, R15, R21). -/
theorem finish_leaves {s p : State} {n : Nat} (hr : s.Room p n) (hs : s.co.special = false) (he : Ends s p n)
    (hard : Bool) : Leaves s (s.finish p hard) p hard := by
  obtain ⟨u, v, hu, hv, huv, hbare⟩ := hr.flush he
  have hlim : ¬ p.co.lim < p.co.wheyt := by
    have hlimit := hr.limit.resolve_left (by simp [hs])
    have hwheyt := he.wheyt
    omega
  have hfin : s.finish p hard = if hard then u.setCo Cohort.commit else u := by
    unfold State.finish
    simp only [if_neg hlim, he.spill, hu]
  rw [hfin]
  cases hard with
  | false => exact ⟨hbare, v, hv, huv⟩
  | true =>
    refine ⟨?_, v, hv, ?_⟩
    · show u.co.commit.bare = p.co.commit.bare
      rw [Cohort.bare_commit, hbare, ← Cohort.bare_commit]
    · show { u with co := u.co.commit } = { v with co := u.co.commit }
      rw [huv]

/-- A packet changes no register. -/
theorem Cohort.bare_trace (s : State) (kind spec : Nat) (extra : List Word) :
    (s.trace kind spec extra).co.bare = s.co.bare := by
  rw [(OnlyTrace.trace s kind spec extra).eq]
  rfl

/-- What is read of a cohort here is no part of the record mechanism, and a commit leaves it. -/
def Cohort.Steady {α : Type} (f : Cohort → α) : Prop := ∀ c, f c.bare = f c ∧ f c.commit = f c

/-- The write-back and a commit leave what is steady as the instruction's rules made it. -/
theorem Leaves.keeps {s t p : State} {hard : Bool} (h : Leaves s t p hard) {α : Type} (f : Cohort → α)
    (hf : Cohort.Steady f) : f t.co = f p.co := by
  rw [← (hf t.co).1, h.co, (hf _).1]
  cases hard with
  | false => rfl
  | true => exact (hf _).2

/-- So does a packet. -/
theorem Leaves.keeps_traced {s t p : State} {kind spec : Nat} {extra : List Word} {hard : Bool}
    (h : Leaves s t (p.trace kind spec extra) hard) {α : Type} (f : Cohort → α) (hf : Cohort.Steady f) :
    f t.co = f p.co := by
  rw [h.keeps f hf, ← (hf _).1, Cohort.bare_trace, (hf _).1]

theorem Cohort.sibIds_steady : Cohort.Steady fun c => c.sibs.map (·.id) := fun c => by
  simp [Cohort.bare, Cohort.commit, Cohort.mapStrands, Function.comp_def]

/-- What such an instruction leaves of the other cohorts. -/
theorem Leaves.others {s t p : State} {hard : Bool} (h : Leaves s t p hard) : t.others = p.others := by
  obtain ⟨u, hu, ht⟩ := h.rest
  rw [ht, hu.onlyMem.eq]

/-- An instruction that decides itself where control goes, and does everything itself, ends with what its rules made. -/
theorem IssuesTo.concludes_own {i : Instr} {s t : State} (h : IssuesTo i s .own (.whole t))
    (hc : s.decodeChecks i = none) : exec i s = .next t := by
  obtain ⟨next, act, he, hnext, ha⟩ := h
  rw [he, issue_own hc hnext, ha]
  rfl

/-- An instruction that passes the checks at issue is allowed in its mode. -/
theorem modeBad_of_decodeChecks {s : State} {i : Instr} (h : s.decodeChecks i = none) : s.modeBad i = false := by
  refine Bool.eq_false_iff.mpr fun hbad => ?_
  rw [decodeChecks_fault (.inl hbad)] at h
  cases h

theorem State.onArrive_ok (s k : State) : s.onArrive .ok k = k := rfl

/-! ### The room of what an instruction leaves -/

/-- A packet does not change what an agent's walk finds. -/
theorem walkRun_onlyTrace {s u : State} (h : OnlyTrace s u) (acc : Acc) (t : Option TlbEnt) (vas : List Nat) :
    u.walkRun acc t vas = s.walkRun acc t vas := by
  have hmem : u.mem = s.mem := by rw [h.eq]
  have hinv : u.invalid = s.invalid := by rw [h.eq]
  have hwalk (va : Nat) : u.pageWalk va = s.pageWalk va := by
    rw [State.pageWalk, State.pageWalk, walkFrom_of_mem hmem, h.eq]
  have hjudge (t : TlbEnt) (va : Nat) : u.judge t va acc = s.judge t va acc := by
    rw [h.eq]
    rfl
  induction vas generalizing t with
  | nil => rfl
  | cons va vas ih => simp only [State.walkRun, hwalk, hjudge, hinv, ih]

/-- An effect on the cohort that spills no more entries, and a packet after it, have the room of the state before it. -/
theorem State.Room.traced {s : State} {n : Nat} (h : s.Room s n) {f : Cohort → Cohort} (hl : s.co.lim ≤ (f s.co).lim)
    (kind spec : Nat) (extra : List Word) : s.Room ((s.setCo f).trace kind spec extra) n := by
  have ht := OnlyTrace.trace (s.setCo f) kind spec extra
  refine ⟨h.limit.imp id fun hlim => ?_, h.writeBack.imp id fun ⟨hsz, htr⟩ => ⟨hsz, fun k m hk => ?_⟩⟩
  · rw [ht.eq]
    exact Nat.le_trans hlim hl
  · obtain ⟨pas, hpas⟩ := htr k m hk
    exact ⟨pas, (walkRun_onlyTrace ht _ _ _).trans ((walkRun_co s (f s.co) s.dbg _ _ _).trans hpas)⟩

/-! ### `BRL` and `BRLZ` that split the strand (07 R160, 09 R204) -/

/-- A branch on lanes that some active lanes take and some do not. -/
theorem branchLanes_splits {i : Instr} {o : UcForm} {zero : Bool} {s : State} (he : exec i s = branchLanes i o zero s)
    (hs : s.co.special = false) (htk : takenLanes s zero (o.reg.toNat % 128) ≠ 0)
    (hnt : s.co.st.mask &&& ~~~takenLanes s zero (o.reg.toNat % 128) ≠ 0)
    (hva : s.checkArrival (s.branchTarget (o.off.signExtend 64)) false false = .ok)
    (hsucc : s.checkArrival (seqNext s.pcAddr 1) true false = .ok) :
    IssuesTo i s .own (.whole (s.finish (s.diverge (s.branchTarget (o.off.signExtend 64)) (seqNext s.pcAddr 1)
      (takenLanes s zero (o.reg.toNat % 128)) (s.co.st.mask &&& ~~~takenLanes s zero (o.reg.toNat % 128))) false)) := by
  have hsome : takenLanes s zero (o.reg.toNat % 128) ≠ s.co.st.mask := fun h => hnt (by rw [h]; simp)
  rw [branchLanes] at he
  refine ⟨_, _, he, ?_, ?_⟩
  · dsimp only
    rw [if_neg htk, if_neg hsome]
  · dsimp only
    rw [if_neg (by simpa using And.intro htk hnt), hs, hva, hsucc]
    rfl

/-- Settles O29: the branch diverges to the named state, which spills no entry and has room for its record. -/
theorem branchSplits : Obligations.BranchSplits := by
  unfold Obligations.BranchSplits
  intro i o zero s x hi tk nt va succ post hc hs htk hnt hx hlen hva hsucc hr
  have he : exec i s = branchLanes i o zero s := by
    obtain ⟨rfl, rfl⟩ | ⟨rfl, rfl⟩ := hi
    · exact exec_brl s o
    · exact exec_brlz s o
  have hpost : s.diverge va succ tk nt = post := by
    unfold State.diverge
    rw [hx]
    rfl
  have hends : Ends s post 40 := by
    refine Ends.trace ?_ 4 x []
    refine ⟨rfl, rfl, rfl, ?_, .inl ?_⟩
    · simp [Cohort.wheyt, State.setCo, RecBody.size, Nat.add_comm]
    · exact Nat.succ_le_of_lt hlen
  have ht := (branchLanes_splits he hs htk hnt hva hsucc).concludes_own hc
  refine ⟨s.finish post false, ?_, finish_leaves hr hs hends false⟩
  rw [← hpost]
  exact ht

/-! ### `REGANG` that merges (07 R164, R165, 09 R206) -/

theorem dropFirst_modifyFirst {α : Type} {p : α → Bool} {f : α → α} (h : ∀ x, p (f x) = true) (l : List α) :
    dropFirst p (modifyFirst p f l) = dropFirst p l := by
  induction l with
  | nil => rfl
  | cons x l ih =>
    cases hx : p x <;> simp [modifyFirst, dropFirst, hx, h, ih]

theorem length_dropFirst_le {α : Type} (p : α → Bool) (l : List α) : (dropFirst p l).length ≤ l.length := by
  induction l with
  | nil => exact Nat.le_refl _
  | cons x l ih =>
    cases hx : p x <;> simp [dropFirst, hx, ih]

/-- The Rejoin record of a merge of `parts` at `pc`, whose largest count is `top` (07 R165). -/
def rejoinRec (e : Entry) (parts : List Strand) (top pc : DWord) : Rec :=
  ⟨e.parent, top.low, .rejoin e.parent (parts.map fun t => ⟨t.id, t.mask, t.held, t.icnt.low⟩) pc⟩

/-- The merged strand, with one more in its count, goes on after the `REGANG` at `pc` (07 R165). -/
def Cohort.mergedStrand (c : Cohort) (e : Entry) (pc : DWord) : Strand :=
  { mergeStrand c e (c.children e) ((c.strand? e.parent).getD c.st) 1 with pc := (seqNext pc 1).setWidth 56 }

/-- The cohort after a merge at the `REGANG` at `pc`, before it ends (07 R164, R165). -/
def Cohort.merged (c : Cohort) (e : Entry) (pc : DWord) : Cohort :=
  { c with
    stack := dropFirst (·.names c.st.id) c.stack
    st := c.mergedStrand e pc, sibs := c.sibs.filter fun t => !e.names t.id, removed := c.exm
    whey := if c.pendingLanes != 0 then c.whey
      else rejoinRec e (c.children e) ((c.mergedStrand e pc).icnt - 1) pc :: c.whey }

theorem merge_eq (s t : State) (e : Entry) : s.merge t e
    = s.finish ((t.setCo fun c => c.merged e s.pcAddr).trace 5 0 []) (t.co.pendingLanes != 0) := rfl

/-- A strand's entry that notes the join and the strand's arrival there (07 R164). -/
def Entry.arrive (e : Entry) (id : Nat) (join : DWord) : Entry := ({ e with join := some join } : Entry).mark id true

/-- What the arrival changes in the entry falls with it. -/
theorem Cohort.merged_arrive {c : Cohort} {e : Entry} (hin : c.innermost c.st.id = some e) (pc : DWord) :
    (c.modInner c.st.id fun _ => e.arrive c.st.id pc).merged (e.arrive c.st.id pc) pc = c.merged e pc := by
  have hnames : e.names c.st.id = true := List.find?_some (p := fun x : Entry => x.names c.st.id) hin
  have hdrop := dropFirst_modifyFirst (p := fun x : Entry => x.names c.st.id)
    (f := fun _ => e.arrive c.st.id pc) (fun _ => hnames) c.stack
  exact congrArg (fun l => ({ c.merged e pc with stack := l } : Cohort)) hdrop

theorem merge_arrive {s : State} {e : Entry} (hin : s.co.innermost s.co.st.id = some e) :
    s.merge (s.setCo fun c => c.modInner s.co.st.id fun _ => e.arrive s.co.st.id s.pcAddr)
        (e.arrive s.co.st.id s.pcAddr)
      = s.finish ((s.setCo fun c => c.merged e s.pcAddr).trace 5 0 []) (s.co.pendingLanes != 0) := by
  rw [merge_eq]
  have hco := congrArg (fun c : Cohort => ({ s with co := c } : State)) (Cohort.merged_arrive hin s.pcAddr)
  exact congrArg (fun t : State => s.finish (t.trace 5 0 []) (s.co.pendingLanes != 0)) hco

/-- A `REGANG` at which both children of a parallel entry have arrived. -/
theorem regang_merges {o : UForm} {s : State} {e : Entry} (hin : s.co.innermost s.co.st.id = some e)
    (hser : e.ser = false) (hjoin : e.join = none ∨ e.join = some s.pcAddr)
    (ha : (e.mark s.co.st.id true).arra = true) (hb : (e.mark s.co.st.id true).arrb = true)
    (hsucc : s.checkArrival (seqNext s.pcAddr 1) true false = .ok) :
    IssuesTo (.regang o) s .own (.whole (s.finish
      ((s.setCo fun c => c.merged e s.pcAddr).trace 5 0 []) (s.co.pendingLanes != 0))) := by
  have hat : (e.join.getD s.pcAddr != s.pcAddr) = false := by
    obtain h | h := hjoin <;> simp [h]
  have hboth : (!((e.arrive s.co.st.id s.pcAddr).arra && (e.arrive s.co.st.id s.pcAddr).arrb)) = false :=
    congrArg not (Bool.and_eq_true_iff.mpr ⟨ha, hb⟩)
  refine ⟨_, _, exec_regang s o, if_pos (by rw [hin]; rfl), ?_⟩
  rw [← merge_arrive hin]
  dsimp only
  rw [hin]
  refine (if_neg ?_).trans ((if_neg ?_).trans ((if_neg ?_).trans ?_))
  · exact Bool.eq_false_iff.mp hat
  · exact fun h => Bool.false_ne_true (hboth.symm.trans (Bool.and_eq_true_iff.mp h).2)
  · simp [hser]
  · rw [hsucc, State.onArrive_ok, if_neg (by simp [hser])]
    simp only [Entry.arrive]

/-- The count and the held set of a strand that two children merge into (07 R165). -/
theorem Cohort.mergedStrand_pair {c : Cohort} {e : Entry} {p q : Strand} (h : c.children e = [p, q]) (pc : DWord) :
    (c.mergedStrand e pc).icnt = (if p.icnt < q.icnt then q.icnt else p.icnt) + 1
      ∧ (c.mergedStrand e pc).held = p.held ||| q.held := by
  have hp : (if (0 : DWord) < p.icnt then p.icnt else 0) = p.icnt := by
    refine ite_eq_left_iff.mpr fun hpos => ?_
    exact (BitVec.le_zero_iff.mp (BitVec.not_lt.mp hpos)).symm
  simp only [Cohort.mergedStrand, mergeStrand, h, List.foldl_cons, List.foldl_nil, hp, true_and]
  rw [show (0 : LaneSet) ||| p.held = p.held from BitVec.zero_or]

/-- Without pending lanes a merge pushes its Rejoin record. -/
theorem Cohort.whey_merged {c : Cohort} {e : Entry} {p q : Strand} (h : c.children e = [p, q])
    (hpend : c.pendingLanes = 0) (pc : DWord) :
    (c.merged e pc).whey = rejoinRec e [p, q] (if p.icnt < q.icnt then q.icnt else p.icnt) pc :: c.whey := by
  refine (if_neg (by simp [hpend])).trans ?_
  rw [(Cohort.mergedStrand_pair h pc).1, BitVec.add_sub_cancel, h]

theorem Cohort.merged_ends {s : State} {e : Entry} {p q : Strand} (h : s.co.children e = [p, q]) :
    Ends s (s.setCo fun c => c.merged e s.pcAddr) 128 := by
  refine ⟨rfl, rfl, rfl, ?_, .inr (length_dropFirst_le _ _)⟩
  simp only [State.setCo_co, Cohort.wheyt, Cohort.merged, h]
  split
  · omega
  · simp only [recBytes_cons, rejoinRec, RecBody.size, List.length_map, List.length_cons, List.length_nil]
    omega

theorem Cohort.lim_merged (c : Cohort) (e : Entry) (pc : DWord) : c.lim ≤ (c.merged e pc).lim := by
  have h := length_dropFirst_le (·.names c.st.id) c.stack
  simp only [Cohort.lim, Cohort.spilled, Cohort.merged]
  omega

/-- Settles O30: the `REGANG` merges, and the merged cohort has room for its record and spills no entry. -/
theorem regangMerges : Obligations.RegangMerges := by
  unfold Obligations.RegangMerges
  intro o s e p q hc hin hser hjoin ha hb hch hsucc hr top
  have hs : s.co.special = false := modeBad_of_decodeChecks hc
  have hl := finish_leaves (hr.traced (f := fun c => c.merged e s.pcAddr) (Cohort.lim_merged _ e _) 5 0 []) hs
    ((Cohort.merged_ends hch).trace 5 0 []) (s.co.pendingLanes != 0)
  obtain ⟨hicnt, hheld⟩ := Cohort.mergedStrand_pair hch s.pcAddr
  refine ⟨_, (regang_merges hin hser hjoin ha hb hsucc).concludes_own hc, ?_⟩
  refine ⟨hl.keeps_traced (·.st.id) fun _ => ⟨rfl, rfl⟩,
    (hl.keeps_traced (·.st.icnt) fun _ => ⟨rfl, rfl⟩).trans hicnt,
    (hl.keeps_traced (·.st.held) fun _ => ⟨rfl, rfl⟩).trans hheld,
    hl.keeps_traced (·.st.mask) fun _ => ⟨rfl, rfl⟩, hl.keeps_traced (·.st.pc) fun _ => ⟨rfl, rfl⟩,
    hl.keeps_traced (·.st.park) fun _ => ⟨rfl, rfl⟩, hl.keeps_traced (·.removed) fun _ => ⟨rfl, rfl⟩,
    hl.keeps_traced (·.stack) fun _ => ⟨rfl, rfl⟩,
    (hl.keeps_traced (·.sibs.map (·.id)) Cohort.sibIds_steady).trans ?_, fun hpend => ?_, fun hpend => ?_,
    hl.keeps_traced (·.v) fun _ => ⟨rfl, rfl⟩, hl.keeps_traced (·.s) fun _ => ⟨rfl, rfl⟩,
    hl.keeps_traced (·.exm) fun _ => ⟨rfl, rfl⟩, ?_⟩
  · rw [List.filter_map]
    rfl
  · have hhard : (s.co.pendingLanes != 0) = true := bne_iff_ne.mpr hpend
    rw [hhard] at hl ⊢
    exact congrArg Cohort.whey hl.co
  · have hsoft : (s.co.pendingLanes != 0) = false := bne_eq_false_iff_eq.mpr hpend
    rw [hsoft] at hl ⊢
    exact (congrArg Cohort.whey (hl.co.trans (Cohort.bare_trace _ 5 0 []))).trans (Cohort.whey_merged hch hpend _)
  · rw [hl.others, (OnlyTrace.trace _ 5 0 []).eq]
    rfl

/-! ### `EXIT` that ends the cohort (07 R158, R166, 09 R207) -/

/-- Records of any `EXIT`. -/
theorem bodyBytes_exitRecs_le (s : State) : bodyBytes (exitRecs s) ≤ 96 := by
  have hmap := bodyBytes_map (fun k => .uni (225 + k) (maskWord s.co.exm k)) (n := 12)
    ((List.range 3).filter fun k => maskWord s.co.st.mask k != 0) (fun _ _ => by simp [RecBody.size])
  have hlen := List.length_filter_le (fun k => maskWord s.co.st.mask k != 0) (List.range 3)
  rw [List.length_range] at hlen
  unfold exitRecs
  dsimp only
  rw [bodyBytes_append]
  split
  · split <;> simp only [bodyBytes, RecBody.size] <;> omega
  · simp only [bodyBytes, RecBody.size]
    omega

/-- Where no entry names the strand and it has no sibling, the cohort ends. -/
theorem emptied_last {s : State} (hin : s.co.innermost s.co.st.id = none) (hsibs : s.co.sibs = []) (old : LaneSet)
    (fuel : Nat) : s.emptied old (fuel + 1) = (s.setCo fun c => { c with ending := true }, [], false) := by
  unfold State.emptied
  dsimp only
  rw [hin, hsibs]
  rfl

/-- The cohort after the last `EXIT` at `pc`, before it ends: its records pushed, its lanes exited. -/
def Cohort.exited (c : Cohort) (recs : List RecBody) (pc : DWord) : Cohort :=
  { c.pushRecs c.st.icnt.low recs with
    exm := c.exm ||| c.st.mask, ending := true
    st := { c.st with held := c.st.held &&& ~~~c.st.mask, mask := 0, icnt := c.st.icnt + 1
                      pc := (seqNext pc 1).setWidth 56, park := none } }

theorem exitLanes_last {s : State} (hin : s.co.innermost s.co.st.id = none) (hsibs : s.co.sibs = [])
    (recs : List RecBody) :
    s.exitLanes recs false = s.finish (s.setCo fun c => c.exited recs s.pcAddr) false := by
  unfold State.exitLanes
  dsimp only
  rw [emptied_last]
  · simp only [Cohort.exited, Cohort.pushRecs, State.setCo, State.setSt, List.append_nil, List.map_reverse,
      Bool.or_false, Bool.false_eq_true, if_false]
  · exact hin
  · exact hsibs

/-- An `EXIT` that empties the running set. -/
theorem exit_empties {o : UForm} {s : State} (hm : s.co.st.mask ≠ 0) (he : exitEmpties s = true) :
    IssuesTo (.exit o) s .own (.whole (s.exitLanes (exitRecs s) false)) := by
  refine ⟨_, _, exec_exit s o, if_pos (Bool.and_eq_true_iff.mpr ⟨bne_iff_ne.mpr hm, he⟩), ?_⟩
  dsimp only
  rw [if_neg hm, if_pos he]

/-- A strand that no entry names runs with all the lanes that it holds (07 R166). -/
theorem running_of_noEntry {c : Cohort} (hin : c.innermost c.st.id = none) : c.running = c.st.held := by
  rw [Cohort.running, hin]

theorem exited_ends (s : State) : Ends s (s.setCo fun c => c.exited (exitRecs s) s.pcAddr) 128 := by
  refine ⟨rfl, rfl, rfl, ?_, .inr (Nat.le_refl _)⟩
  have hpush := wheyt_pushRecs s.co s.co.st.icnt.low (exitRecs s)
  have hrecs := bodyBytes_exitRecs_le s
  show (s.co.pushRecs s.co.st.icnt.low (exitRecs s)).wheyt ≤ _
  omega

/-- Settles O31: the `EXIT` empties the running set, and no strand is left. -/
theorem exitEnds : Obligations.ExitEnds := by
  unfold Obligations.ExitEnds
  intro o s hc hm hheld hin hsibs hr
  have hs : s.co.special = false := modeBad_of_decodeChecks hc
  have he : exitEmpties s = true := by
    rw [exitEmpties, running_of_noEntry hin]
    exact decide_eq_true hheld
  have hroom : s.Room (s.setCo fun c => c.exited (exitRecs s) s.pcAddr) 128 := Room.ofCo hr _ rfl rfl
  have hl := finish_leaves hroom hs (exited_ends s) false
  have ht := (exit_empties (o := o) hm he).concludes_own hc
  rw [exitLanes_last hin hsibs] at ht
  exact ⟨_, ht, hl.keeps (·.ending) fun _ => ⟨rfl, rfl⟩, hl.keeps (·.st.mask) fun _ => ⟨rfl, rfl⟩,
    (hl.keeps (·.st.held) fun _ => ⟨rfl, rfl⟩).trans hheld, hl.keeps (·.exm) fun _ => ⟨rfl, rfl⟩,
    hl.keeps (·.st.icnt) fun _ => ⟨rfl, rfl⟩⟩

end Sys2Proof.Machine

/-! The engines and the sluices (08 R192, R193, 15 R314-R336, 16 R349-R358, 22 R446). -/

namespace Sys2Proof.Machine

open Sys2Proof.Claims

/-- The entry that a table of events has for an instruction is met: when it is due, exec answers a next state as it
says. -/
def Answers (T : State → Instr → Option Due) (i : Instr) (s : State) : Prop :=
  ∀ d, T s i = some d → d.need → ∃ t, exec i s = .next t ∧ d.post t

/-- A state that an event leaves is the one of its entry. -/
theorem next_gives {t : State} {need : Prop} {d : Due} (hd : gives need t = some d) :
    ∃ u, (Host.Outcome.next t : Host.Outcome State Fault Refusal) = .next u ∧ d.post u := by
  obtain rfl := Option.some.inj hd
  exact ⟨t, rfl, rfl⟩

/-! ### Copies and tile stores (15 R320, R321, 16 R353) -/

theorem copyCompletion_answers (core k : Nat) (s : State) : Answers engineEvents (.copyCompletion core k) s := by
  intro d hd hn
  obtain ⟨cp, hcp, hd⟩ := Option.bind_eq_some_iff.mp hd
  split at hd
  · next t hlook =>
    refine next_of_gives hd hn fun hmoves => ?_
    simp only [exec_copyCompletion, execCopyCompletion, hcp, hmoves, hlook, Bool.not_true, Bool.false_eq_true, if_false]
  · cases hd

theorem copyFault_answers (core k : Nat) (s : State) : Answers engineEvents (.copyFault core k) s := by
  intro d hd hn
  obtain ⟨cp, hcp, hd⟩ := Option.bind_eq_some_iff.mp hd
  split at hd
  · next t c va hlook =>
    refine next_of_gives hd hn fun hmoves => ?_
    simp only [exec_copyFault, execCopyFault, hcp, hmoves, hlook, Bool.not_true, Bool.false_eq_true, if_false,
      State.stopCopy]
  · cases hd

theorem zstEngine_answers (core k : Nat) (s : State) : Answers engineEvents (.zstEngine core k) s := by
  intro d hd hn
  obtain ⟨cp, hcp, hd⟩ := Option.bind_eq_some_iff.mp hd
  split at hd
  · next p z ofmt pitch rm ftz hkind =>
    refine next_of_gives hd hn fun hready => ?_
    simp only [exec_zstEngine, execZstEngine, hcp, State.runZst, hkind, hready, Bool.not_true, Bool.false_eq_true,
      if_false]
  · cases hd

/-! ### The matrix pairs (15 R322, R326, R329, 16 R349) -/

theorem modifyAt_modifyAt {α : Type} (f g : α → α) (l : List α) (k : Nat) :
    modifyAt f (modifyAt g l k) k = modifyAt (fun x => f (g x)) l k := by
  simp only [modifyAt_eq_modify, List.modify_modify_eq]
  rfl

/-- Two changes of one pair are one change. -/
theorem State.modPair_modPair (s : State) (k : Nat) (f g : Pair → Pair) :
    (s.modPair k g).modPair k f = s.modPair k fun q => f (g q) := by
  simp only [State.modPair, modifyAt_modifyAt]

theorem acquireAt_cycle (s : State) (k scope : Nat) : (s.acquireAt k scope).cycle = s.cycle := by
  unfold State.acquireAt
  split <;> rfl

/-- A command queued again after a mismatch goes on to its check (15 R329). -/
theorem runMma_redo {s : State} {p : Nat} {m : MmaCmd} {rest : List MmaCmd} (hqueue : (s.pair p).queue = m :: rest)
    (hredo : m.redo = true) : s.runMma p = s.modPair p fun q => { q with
      queue := rest, checks := q.checks ++ [{ m with redo := false }], idle := s.cycle } := by
  rw [State.runMma, hqueue]
  exact if_pos hredo

/-- A command whose tile is computed and whose lines are present computes its result, after its acquire (15 R326, 16
R349). -/
theorem runMma_computes {s v : State} {p : Nat} {m : MmaCmd} {rest : List MmaCmd} {src : List (List Word)}
    (hqueue : (s.pair p).queue = m :: rest) (hredo : m.redo = false) (hsrc : s.tileVals p m.src = some src)
    (hlines : s.mmaLines p m = true) (hv : v = if m.acq then s.acquireAt (2 * p) m.scope else s) :
    s.runMma p = v.modPair p fun q => { q with
      queue := rest, checks := q.checks ++ [m], idle := s.cycle
      tiles := modifyFirst (·.id == m.dst) (fun t => { t with vals := some (v.mmaResult p m src) }) q.tiles } := by
  have hcycle : v.cycle = s.cycle := by
    rw [hv]
    split
    · exact acquireAt_cycle s _ _
    · rfl
  have hm : { m with redo := false } = m := by rw [← hredo]
  rw [State.runMma, hqueue]
  simp only [hredo, hsrc, hlines, Bool.not_true, Bool.false_eq_true, if_false, ← hv, State.modPair_modPair, hm]
  rw [← hcycle]
  rfl

theorem mmaExecute_answers (p : Nat) (s : State) : Answers engineEvents (.mmaExecute p) s := by
  intro d hd hn
  rw [exec_mmaExecute, execMmaExecute]
  simp only [engineEvents] at hd
  split at hd
  · cases hd
  · next m rest hqueue =>
    split at hd
    · next hredo =>
      rw [runMma_redo hqueue hredo]
      obtain rfl := Option.some.inj hd
      exact ⟨_, rfl, rfl⟩
    · next hredo =>
      obtain ⟨src, hsrc, hd⟩ := Option.bind_eq_some_iff.mp hd
      obtain rfl := Option.some.inj hd
      exact ⟨_, congrArg _ (runMma_computes hqueue (Bool.eq_false_iff.mpr hredo) hsrc hn rfl), rfl⟩

/-! ### Cohorts by their uid, after a change of one -/

/-- The cohort of a uid stands in focus or among the others. -/
theorem State.cohort?_eq_find? {s : State} {uid : Nat} (h : uid ≠ 0) :
    s.cohort? uid = (s.co :: s.others).find? (·.uid == uid) := by
  rw [State.cohort?, State.cohorts, List.find?_filter]
  refine congrArg (fun p => List.find? p (s.co :: s.others)) (funext fun a => ?_)
  by_cases ha : a.uid = uid <;> simp [ha, h]

theorem State.modCohort_all (s : State) (uid : Nat) (f : Cohort → Cohort) :
    (s.modCohort uid f).co :: (s.modCohort uid f).others = modifyFirst (·.uid == uid) f (s.co :: s.others) := by
  unfold State.modCohort
  rw [modifyFirst]
  split <;> rfl

/-- A change of a cohort that keeps its uid changes the cohort of that uid. -/
theorem State.cohort?_modCohort {s : State} {uid : Nat} {f : Cohort → Cohort} (hf : ∀ c, (f c).uid = c.uid)
    (h : uid ≠ 0) : (s.modCohort uid f).cohort? uid = (s.cohort? uid).map f := by
  rw [State.cohort?_eq_find? h, State.cohort?_eq_find? h, State.modCohort_all,
    find?_modifyFirst fun c => by rw [hf]]

/-- No cohort has uid 0. -/
theorem State.uid_ne_zero {s : State} {uid : Nat} {c : Cohort} (h : s.cohort? uid = some c) : uid ≠ 0 := by
  have hu : c.uid = uid := by simpa using List.find?_some h
  have h0 : (c.uid != 0) = true := (List.mem_filter.mp (List.mem_of_find?_eq_some h)).2
  simpa [hu] using h0

/-- A change of a cohort leaves all but the cohorts. -/
theorem State.modCohort_rest (s : State) (uid : Nat) (f : Cohort → Cohort) :
    s.modCohort uid f = { s with co := (s.modCohort uid f).co, others := (s.modCohort uid f).others } := by
  unfold State.modCohort
  split <;> rfl

/-- A third mismatch of a result halts the cohort that issued its command, and is reported (15 R329). -/
theorem checkMma_halts {s : State} {p : Nat} {m : MmaCmd} {rest : List MmaCmd} {c : Cohort}
    (hchecks : (s.pair p).checks = m :: rest) (hmiss : 2 ≤ m.miss) (hc : s.cohort? m.cohort = some c) :
    (s.checkMma p false).cohort? m.cohort = some { c with halt := some .check }
      ∧ (s.checkMma p false).fw = s.fw ++ [.check m.cohort m.count.low] ∧ (s.checkMma p false).mem = s.mem := by
  rw [State.checkMma, hchecks]
  simp only [Bool.false_eq_true, if_false, hmiss, if_true]
  refine ⟨?_, ?_, ?_⟩
  · refine (State.cohort?_modCohort (fun _ => ?_) (State.uid_ne_zero hc)).trans ?_
    · rfl
    · exact congrArg (Option.map _) hc
  · rw [State.modCohort_rest]
    rfl
  · rw [State.modCohort_rest]
    rfl

theorem mmaCheck_answers (p : Nat) (agree : Bool) (s : State) : Answers engineEvents (.mmaCheck p agree) s := by
  intro d hd hn
  rw [exec_mmaCheck, execMmaCheck]
  simp only [engineEvents] at hd
  split at hd
  · cases hd
  · next m rest hchecks =>
    cases agree with
    | true =>
      obtain rfl := Option.some.inj hd
      exact ⟨_, congrArg _ (by rw [State.checkMma, hchecks]; rfl), rfl⟩
    | false =>
      simp only [Bool.false_eq_true, if_false] at hd
      split at hd
      · next hmiss =>
        obtain rfl := Option.some.inj hd
        exact ⟨_, congrArg _ (by rw [State.checkMma, hchecks]; exact if_neg (Nat.not_le.mpr hmiss)), rfl⟩
      · next hmiss =>
        obtain rfl := Option.some.inj hd
        obtain ⟨c, hc⟩ := Option.isSome_iff_exists.mp hn
        obtain ⟨hcohort, hfw, hmem⟩ := checkMma_halts hchecks (Nat.not_lt.mp hmiss) hc
        exact ⟨_, rfl, ⟨_, hcohort, rfl⟩, hfw, hmem⟩

/-! ### Leave (08 R192, R193, 16 R358) -/

theorem leaveGrant_answers (die : Nat) (s : State) : Answers engineEvents (.leaveGrant die) s := by
  intro d hd hn
  obtain ⟨r, hr, hd⟩ := Option.bind_eq_some_iff.mp hd
  obtain ⟨c, hc, hd⟩ := Option.bind_eq_some_iff.mp hd
  refine next_of_gives hd hn fun ⟨hthr, hfits⟩ => ?_
  have hres : ∀ f, (s.modDie die f).cohort? r.cohort = some c := fun _ => hc
  simp only [exec_leaveGrant, execLeaveGrant, hr, hthr, Nat.not_lt.mpr hfits, decide_false, Bool.or_self,
    Bool.false_eq_true, if_false, State.addGrant, hres]
  rfl

theorem leaveChainRelease_answers (co tile : Nat) (s : State) :
    Answers engineEvents (.leaveChainRelease co tile) s := by
  intro d hd hn
  obtain ⟨c, hc, hd⟩ := Option.bind_eq_some_iff.mp hd
  refine next_of_gives hd hn fun ⟨hqueue, hidle⟩ => ?_
  simp only [exec_leaveChainRelease, execLeaveChainRelease, hc, pairOfCore, hqueue, hidle, List.isEmpty_nil,
    decide_true, Bool.and_self, if_true]

theorem leaveUnusedExpiry_answers (co : Nat) (s : State) : Answers engineEvents (.leaveUnusedExpiry co) s := by
  intro d hd hn
  exact next_of_gives hd hn fun _ => exec_leaveUnusedExpiry s co

/-- A die lends watts to another (08 R193). -/
def State.lendTo (die q : Nat) (s : State) (e : Nat) : State :=
  (s.modDie e fun d => { d with borrowed := d.borrowed + q }).modDie die fun d => { d with lent := d.lent + q }

theorem lendTo_die {die q e : Nat} {s : State} (hdie : die < s.dies.length) (he : e < s.dies.length) (hne : e ≠ die)
    (k : Nat) : (s.lendTo die q e).die k = if k = die then { s.die die with lent := (s.die die).lent + q }
      else if k = e then { s.die e with borrowed := (s.die e).borrowed + q } else s.die k := by
  rw [State.lendTo, State.die_modDie, State.length_dies_modDie, State.die_modDie, State.die_modDie]
  simp [hdie, he, Ne.symm hne]

theorem lendTo_dies (die q : Nat) (s : State) (e : Nat) : (s.lendTo die q e).dies.length = s.dies.length := by
  rw [State.lendTo, State.length_dies_modDie, State.length_dies_modDie]

/-- A die that lends to several others lends as much to each. -/
theorem foldl_lendTo_die {die q : Nat} {es : List Nat} {s : State} (hdie : die < s.dies.length)
    (hes : ∀ e ∈ es, e < s.dies.length ∧ e ≠ die) (hnodup : es.Nodup) (k : Nat) :
    (es.foldl (State.lendTo die q) s).die k
      = if k = die then { s.die die with lent := (s.die die).lent + es.length * q }
        else if k ∈ es then { s.die k with borrowed := (s.die k).borrowed + q } else s.die k := by
  induction es generalizing s with
  | nil =>
    by_cases hk : k = die
    · simp [hk]
    · simp [hk]
  | cons e es ih =>
    obtain ⟨he, hne⟩ := hes e List.mem_cons_self
    obtain ⟨hnot, hnodup⟩ := List.nodup_cons.mp hnodup
    rw [List.foldl_cons, ih (by rwa [lendTo_dies]) (fun x hx => by
      rw [lendTo_dies]
      exact hes x (List.mem_cons_of_mem _ hx)) hnodup, lendTo_die hdie he hne, lendTo_die hdie he hne]
    by_cases hk : k = die
    · simp [hk, Nat.add_mul, Nat.add_assoc, Nat.add_comm q]
    · by_cases hke : k = e
      · subst hke
        simp [hk, hnot]
      · simp [hk, hke]

/-- The dies but one are three. -/
theorem otherDies_length {die : Nat} (h : die < 4) : ((List.range 4).filter (· != die)).length = 3 := by
  obtain rfl | rfl | rfl | rfl : die = 0 ∨ die = 1 ∨ die = 2 ∨ die = 3 := by omega
  all_goals rfl

theorem sluiceLend_answers (die : Nat) (s : State) : Answers engineEvents (.sluiceLend die) s := by
  intro d hd hn
  simp only [engineEvents] at hd
  split at hd
  · next hwaiting =>
    obtain rfl := Option.some.inj hd
    obtain ⟨hdie, hdies⟩ := hn
    have hes : ∀ e ∈ (List.range 4).filter (· != die), e < s.dies.length ∧ e ≠ die := fun e he => by
      simpa [hdies] using he
    have hlend := foldl_lendTo_die (q := (s.sluiceFree die - (s.die die).borrowed) / 3) (hdies ▸ hdie) hes
      (List.nodup_range.filter _)
    refine ⟨((List.range 4).filter (· != die)).foldl
      (State.lendTo die ((s.sluiceFree die - (s.die die).borrowed) / 3)) s, ?_, ?_, fun e he hne => ?_⟩
    · rw [exec_sluiceLend, execSluiceLend, if_neg (by omega), hwaiting]
      rfl
    · exact (hlend die).trans (by rw [if_pos rfl, otherDies_length hdie]; rfl)
    · exact (hlend e).trans (by rw [if_neg hne, if_pos (by simp [he, hne])]; rfl)
  · next hwaiting =>
    refine next_of_gives hd hn fun hdie => ?_
    have hsome : (s.die die).waiting.isEmpty = false := by simpa using hwaiting
    rw [exec_sluiceLend, execSluiceLend, if_neg (by omega), hsome]
    rfl

/-! ### Chunks of collectives (15 R335, R336) -/

/-- A chunk is due for a rank: the rank has not had it, every rank of this device has joined, and a plan of several
devices has scope `.sy` (15 R335, R336). -/
def chunkDue (s : State) (p : Plan) (j : RankIn) (c : Nat) : Prop :=
  c < (Header.ofWords p.header).chunks ∧ c ∉ j.bits ∧ s.allJoined p = true
    ∧ ((s.planDevices p).length ≤ 1 ∨ (Header.ofWords p.header).scope = 5)

theorem chunkDue_open {s : State} {p : Plan} {j : RankIn} {c : Nat} (h : chunkDue s p j c) :
    (decide ((Header.ofWords p.header).chunks ≤ c) || j.bits.contains c || !s.allJoined p) = false := by
  obtain ⟨hc, hbits, hall, -⟩ := h
  simp [Nat.not_le.mpr hc, hbits, hall]

theorem chunkDue_scope {s : State} {p : Plan} {j : RankIn} {c : Nat} (h : chunkDue s p j c) :
    (decide (1 < (s.planDevices p).length) && (Header.ofWords p.header).scope != 5) = false := by
  obtain ⟨-, -, -, hone | hscope⟩ := h
  · simp [Nat.not_lt.mpr hone]
  · simp [hscope]

theorem collChunk_answers (va : DWord) (c r : Nat) (s : State) : Answers engineEvents (.collChunk va c r) s := by
  intro d hd hn
  obtain ⟨p, hp, hd⟩ := Option.bind_eq_some_iff.mp hd
  obtain ⟨j, hj, hd⟩ := Option.bind_eq_some_iff.mp hd
  have hdue : chunkDue s p j c := by
    simp only [gives] at hd
    (repeat' split at hd) <;> cases hd <;> exact hn
  simp only [exec_collChunk, execCollChunk, State.runChunk, hp, hj, chunkDue_open hdue, chunkDue_scope hdue,
    Bool.false_eq_true, if_false]
  cases hlook : s.chunkFor p c r j.die with
  | wait t =>
    simp only [hlook] at hd
    exact next_gives hd
  | fault code a =>
    simp only [hlook] at hd
    cases hd
  | nothing t =>
    cases hbit : t.setChunkBit (s.rankEntry va r).bits c with
    | fault code a =>
      simp only [hlook, hbit] at hd
      cases hd
    | _ =>
      simp only [hlook, hbit] at hd ⊢
      exact next_gives hd
  | write t parts =>
    cases hwrite : t.writeParts (s.rankEntry va r).dst parts with
    | fault code a =>
      simp only [hlook, hwrite] at hd
      cases hd
    | miss a =>
      simp only [hlook, hwrite] at hd ⊢
      exact next_gives hd
    | ok u =>
      cases hbit : u.setChunkBit (s.rankEntry va r).bits c with
      | fault code a =>
        simp only [hlook, hwrite, hbit] at hd
        cases hd
      | _ =>
        simp only [hlook, hwrite, hbit] at hd ⊢
        exact next_gives hd

/-! ### Copies within the device (15 R314-R321) -/

/-- What a look at a copy comes to when its units have been moved as far as they go (15 R320, R321). -/
def State.lookAfter (s : State) (core : Nat) (cp : Copy) : MoveRes → CopyLook
  | .ok t => .goes (t.finishCopy core cp)
  | .miss va => .goes (s.absent (dieOf core) va)
  | .stop t c va => .fails t c (BitVec.ofNat 64 va)

section

variable {s : State} {core n : Nat} {cp : Copy} {us : List CopyUnit} {out : Bool} (h : plainCopy s core cp us n out)

include h

theorem plainCopy_unpoisoned : (if out then s.outPoison core us else none) = none := by
  obtain ⟨-, -, -, -, hpoison, -⟩ := h
  cases out with
  | true => exact hpoison rfl
  | false => rfl

theorem plainCopy_present : (out && !(((us.filter (·.va.isSome)).flatMap (·.offs)).all fun o =>
    (s.core core).present (o / 128))) = false := by
  obtain ⟨-, -, -, -, -, hout⟩ := h
  cases out with
  | true =>
    obtain ⟨-, hpresent⟩ := hout rfl
    have hall : ∀ o ∈ (us.filter (·.va.isSome)).flatMap (·.offs), (s.core core).present (o / 128) = true := by
      intro o ho
      obtain ⟨u, hu, ho⟩ := List.mem_flatMap.mp ho
      obtain ⟨hu, hva⟩ := List.mem_filter.mp hu
      exact hpresent u hu hva o ho
    rw [List.all_eq_true.mpr hall]
    rfl
  | false => rfl

/-- A plain copy does not wait for the completion of its writes: it makes no release at `.pk` or `.sy`. -/
theorem plainCopy_unreleased (late : Bool) : (out && cp.rel && decide (4 ≤ cp.scope) && late) = false := by
  obtain ⟨-, -, -, -, -, hout⟩ := h
  cases out with
  | true =>
    obtain ⟨hrel, -⟩ := hout rfl
    rw [Bool.true_and, hrel, Bool.false_and]
  | false => rfl

/-- No unit of a plain copy has a fabric address. -/
theorem plainCopy_noFabric {α : Type} {f : CopyUnit → Option α}
    (hf : ∀ u, (∀ va, u.va = some va → isFabric va = false) → f u = none) : us.filterMap f = [] := by
  obtain ⟨-, -, hunits, -⟩ := h
  exact List.filterMap_eq_nil_iff.mpr fun u hu => hf u (hunits u hu)

end

/-- A look at a copy within the device moves all its units. -/
theorem lookCopy_plain {s : State} {core : Nat} {cp : Copy} {us : List CopyUnit} {out : Bool} (hmoves : cp.moves = true)
    (hout : out = (copyWay cp).1)
    (hus : us = (Layout.ofWords cp.layout).units out cp.origin (copyWay cp).2 cp.spm (s.blockRange cp.block).1)
    (h : plainCopy s core cp us (Layout.ofWords cp.layout).esize out) :
    s.lookCopy core cp = s.lookAfter core cp (if out then s.moveOut core (Layout.ofWords cp.layout).esize us
      else s.moveIn core (Layout.ofWords cp.layout).esize cp.fab us) := by
  have hpoison := plainCopy_unpoisoned h
  have hpresent := plainCopy_present h
  have hrel := plainCopy_unreleased h
  have ⟨hstage, hfab, _, hdenied, _, _⟩ := h
  generalize hmoved : (if out then s.moveOut core _ us else s.moveIn core _ cp.fab us) = moved
  unfold State.lookCopy
  cases hkind : cp.kind with
  | zst => simp [Copy.moves, hkind] at hmoves
  | _ =>
    simp only [copyWay, hkind] at hout hus
    subst hout
    dsimp only at hpoison hmoved ⊢
    rw [← hus, hstage, hpresent, hdenied, hpoison, hmoved, hfab, if_neg (by decide), if_neg (by decide)]
    dsimp only
    generalize hfabs : us.filterMap _ = fabs
    obtain rfl : fabs = [] := by
      refine hfabs.symm.trans (plainCopy_noFabric h fun u hu => ?_)
      split
      · next va hva => rw [hu va hva]; rfl
      · rfl
    cases moved with
    | ok t =>
      simp only [hrel, State.lookAfter, List.isEmpty_nil, Bool.not_true, Bool.and_false, Bool.false_eq_true, if_false,
        List.any_nil, List.find?_nil, ite_self]
    | miss va => simp [State.lookAfter]
    | stop t c va => simp [State.lookAfter]

end Sys2Proof.Machine

/-! The theorem of the table has the table's name, so it stands in a namespace of its own. -/

namespace Sys2Proof.Machine.EngineMoves

/-- Settles O48: each event of the table has a lemma `…_answers` above, and no other instruction has an entry; a look at
a copy within the device is `lookCopy_plain`. -/
theorem engineEvents : Obligations.EngineEvents := by
  unfold Obligations.EngineEvents
  refine ⟨fun i s d hd hn => ?_, fun s core cp hmoves hplain => ?_⟩
  · cases i with
    | copyCompletion => exact copyCompletion_answers _ _ _ d hd hn
    | copyFault => exact copyFault_answers _ _ _ d hd hn
    | mmaExecute => exact mmaExecute_answers _ _ d hd hn
    | mmaCheck => exact mmaCheck_answers _ _ _ d hd hn
    | zstEngine => exact zstEngine_answers _ _ _ d hd hn
    | collChunk => exact collChunk_answers _ _ _ _ d hd hn
    | leaveGrant => exact leaveGrant_answers _ _ d hd hn
    | sluiceLend => exact sluiceLend_answers _ _ d hd hn
    | leaveChainRelease => exact leaveChainRelease_answers _ _ _ d hd hn
    | leaveUnusedExpiry => exact leaveUnusedExpiry_answers _ _ d hd hn
    | _ => cases hd
  · exact lookCopy_plain hmoves rfl rfl hplain

end Sys2Proof.Machine.EngineMoves

/-! The launch and task controllers, pre-emption and the firmware (08 R183-R201, 09 R218, 10 R245, 19 R384-R393, 21
R432). -/

namespace Sys2Proof.Machine

open Sys2Proof.Claims

/-! ### Launches (08 R183-R186, 21 R432) -/

theorem launchRecord_answers (q : Nat) (s : State) : Answers launchEvents (.launchRecord q) s := by
  intro d hd hn
  simp only [launchEvents] at hd
  split at hd
  · next desc t hopen =>
    obtain ⟨bs, hbs, hd⟩ := Option.bind_eq_some_iff.mp hd
    split at hd
    · next status hjudge =>
      refine next_of_gives hd hn fun hkind => ?_
      have hkind : (desc.kind != 0) = false := bne_eq_false_iff_eq.mpr hkind
      simp only [exec_launchRecord, execLaunchRecord, hopen, hkind, hbs, hjudge, Bool.false_eq_true, if_false]
      unfold arenaFor
      generalize ((LaunchRec.ofBytes bs).ten && !_) = quiet
      cases quiet with
      | false => rfl
      | true => cases t.host.regions <;> rfl
    · cases hd
  · cases hd

theorem anyBefore_false {s : State} {l : Launch} (h : ∀ x ∈ s.before l, s.spotsFor x = none) :
    (s.before l).any (fun x => (s.spotsFor x).isSome) = false := by
  simpa using h

theorem blockPlacement_answers (launch : Nat) (s : State) : Answers launchEvents (.blockPlacement launch) s := by
  intro d hd hn
  obtain ⟨l, hl, hd⟩ := Option.bind_eq_some_iff.mp hd
  obtain ⟨spots, hspots, hd⟩ := Option.bind_eq_some_iff.mp hd
  refine next_of_gives hd hn fun ⟨hwaits, hreturns, hbefore, hdeps⟩ => ?_
  have hrefused : (decide (l.phase = 0) && decide (l.status = 0) && l.record.deps.any s.depFailed) = false := by
    refine Bool.eq_false_iff.mpr fun h => hdeps ?_
    simp only [Bool.and_eq_true, decide_eq_true_eq] at h
    obtain ⟨⟨hphase, -⟩, hfailed⟩ := h
    exact ⟨hphase, hfailed⟩
  simp only [exec_blockPlacement, execBlockPlacement, hl, hrefused, hwaits, hspots, hreturns, anyBefore_false hbefore,
    Bool.not_true, Bool.or_self, Bool.false_eq_true, if_false]
  rfl

theorem launchCompletion_answers (launch : Nat) (s : State) : Answers launchEvents (.launchCompletion launch) s := by
  intro d hd hn
  obtain ⟨l, hl, hd⟩ := Option.bind_eq_some_iff.mp hd
  refine next_of_gives hd hn fun ⟨hphase, hstatus, hunwritten, hended, htasks, hpresses, hcohorts, hblocks⟩ => ?_
  have hlive : (s.cohorts.any (·.launch == launch)
      || s.blocks.any fun b => b.launch == launch && decide (b.phase < 3)) = false := by
    simp only [Bool.or_eq_false_iff, List.any_eq_false]
    refine ⟨fun c hc => by simpa using hcohorts c hc, fun b hb => ?_⟩
    simpa using hblocks b hb
  have hclose : exec (.launchCompletion launch) s = .next (s.closeLaunch l 0) := by
    rw [exec_launchCompletion, execLaunchCompletion, hl]
    dsimp only
    rw [hlive]
    simp only [hphase, hstatus, hunwritten, hended, htasks, hpresses, Option.isSome_none, Bool.false_eq_true, if_false,
      decide_true, Bool.not_false, bne_self_eq_false, List.isEmpty_nil, Bool.and_self, Bool.false_or, if_true]
  refine hclose.trans (congrArg Host.Outcome.next ?_)
  cases hstore : s.planStore l.record.done.toNat (doneBytes 0 l.seq s.time) with
  | _ => simp only [State.closeLaunch, hunwritten, Option.getD_none, hstore]

theorem placementReport_answers (launch device : Nat) (status : Option Byte) (s : State) :
    Answers launchEvents (.placementReport launch device status) s := by
  intro d hd hn
  cases status with
  | _ =>
    obtain ⟨l, hl, hd⟩ := Option.bind_eq_some_iff.mp hd
    refine next_of_gives hd hn fun ⟨hdomain, hphase, hgated⟩ => ?_
    simp [exec_placementReport, execPlacementReport, hl, hdomain, hphase, hgated]

/-! ### Tasks (08 R195-R201, 09 R218) -/

theorem taskGather_answers (launch : Nat) (s : State) : Answers launchEvents (.taskGather launch) s := by
  intro d hd hn
  obtain ⟨l, hl, hd⟩ := Option.bind_eq_some_iff.mp hd
  split at hd
  · next desc t hopen =>
    obtain ⟨f, hf, hd⟩ := Option.bind_eq_some_iff.mp hd
    obtain ⟨m, hm, hd⟩ := Option.bind_eq_some_iff.mp hd
    obtain ⟨⟨spot, rooms⟩, hspot, hd⟩ := Option.bind_eq_some_iff.mp hd
    refine next_of_gives hd hn fun ⟨hphase, hstatus, hten, hroom⟩ => ?_
    obtain ⟨rest, hrest⟩ := List.head?_eq_some_iff.mp hf
    simp only [exec_taskGather, execTaskGather, hl, hphase, hstatus, hten, hopen, hrest, hm, hspot, hroom,
      bne_self_eq_false, Bool.not_true, Bool.or_self, Bool.false_eq_true, if_false, if_true]
  · cases hd

theorem press_answers (entry : DWord) (s : State) : Answers launchEvents (.press entry) s := by
  intro d hd hn
  obtain ⟨l, hl, hd⟩ := Option.bind_eq_some_iff.mp hd
  obtain ⟨p, hp, hd⟩ := Option.bind_eq_some_iff.mp hd
  obtain ⟨x, hx, hd⟩ := Option.bind_eq_some_iff.mp hd
  have hentry : p.entry = entry := by
    have h := List.find?_some hp
    simp only [Bool.and_eq_true, beq_iff_eq] at h
    exact h.1
  subst hentry
  split at hd
  · next t hdone =>
    refine next_of_gives hd hn fun _ => ?_
    simp only [exec_press, execPress, hl, hp, State.runPress, hx, hdone]
  · cases hd

/-! ### Pre-emption (08 R187, 19 R387-R393) -/

theorem preemptRequest_answers (launch : Nat) (s : State) : Answers launchEvents (.preemptRequest launch) s := by
  intro d hd hn
  obtain ⟨l, hl, hd⟩ := Option.bind_eq_some_iff.mp hd
  obtain ⟨b, hb, hd⟩ := Option.bind_eq_some_iff.mp hd
  refine next_of_gives hd hn fun ⟨hwaits, htime, hroom⟩ => ?_
  have hwaits : ((s.absentBlock launch).isSome || s.waitsForPlace l) = true := Bool.or_eq_true_iff.mpr hwaits
  simp only [exec_preemptRequest, execPreemptRequest, hl, hb, hwaits, Nat.not_lt.mpr htime, hroom, Bool.not_true,
    decide_false, Bool.or_self, Bool.false_eq_true, if_false]

theorem Cohort.takesPreempt_modes {c : Cohort} (h : c.takesPreempt = true) : c.debug = false ∧ c.tm = false := by
  simp only [Cohort.takesPreempt, Bool.and_eq_true, Bool.not_eq_true'] at h
  obtain ⟨⟨⟨⟨⟨⟨-, htm⟩, -⟩, hdebug⟩, -⟩, -⟩, -⟩ := h
  exact ⟨hdebug, htm⟩

theorem preemptTrap_answers (co : Nat) (s : State) : Answers launchEvents (.preemptTrap co) s := by
  intro d hd hn
  obtain ⟨c, hc, hd⟩ := Option.bind_eq_some_iff.mp hd
  obtain ⟨t, ht, hd⟩ := Option.bind_eq_some_iff.mp hd
  obtain rfl := Option.some.inj hd
  obtain ⟨htakes, hcan⟩ := hn
  obtain ⟨hfd, hft⟩ := State.focus_modes hc t.id
  obtain ⟨hdebug, htm⟩ := Cohort.takesPreempt_modes htakes
  have he := raise_entered hcan (hfd.trans hdebug) (hft.trans htm) (trapOf 0x17 0 0)
  refine ⟨_, ?_, _, he, rfl⟩
  simp only [exec_preemptTrap, execPreemptTrap, hc, htakes, ht, State.preemptTrap, he.tm, Bool.not_true,
    Bool.false_eq_true, if_false, Bool.true_or, if_true]

theorem forcedSave_answers (co : Nat) (s : State) : Answers launchEvents (.forcedSave co) s := by
  intro d hd hn
  obtain ⟨c, hc, hd⟩ := Option.bind_eq_some_iff.mp hd
  obtain ⟨b, hb, hd⟩ := Option.bind_eq_some_iff.mp hd
  obtain ⟨t0, ht0, hd⟩ := Option.bind_eq_some_iff.mp hd
  dsimp only at hd
  split at hd
  · next u hflush =>
    refine next_of_gives hd hn fun ⟨hsaved, htime, hquiet, hforced⟩ => ?_
    simp only [exec_forcedSave, execForcedSave, hc, hb, ht0, hsaved, Nat.not_lt.mpr htime, hquiet, hforced, hflush,
      Option.bind_some, Option.isSome_none, Bool.not_true, decide_false, Bool.or_self, Bool.false_eq_true, if_false,
      Nat.lt_irrefl]
  · cases hd

theorem blockLeave_answers (block : Nat) (s : State) : Answers launchEvents (.blockLeave block) s := by
  intro d hd hn
  obtain ⟨b, hb, hd⟩ := Option.bind_eq_some_iff.mp hd
  refine next_of_gives hd hn fun ⟨hphase, hgo⟩ => ?_
  simp only [exec_blockLeave, execBlockLeave, hb, hphase, List.all_eq_true.mpr hgo, decide_true, Bool.and_self, if_true]

theorem blockRestore_answers (block : Nat) (s : State) : Answers launchEvents (.blockRestore block) s := by
  intro d hd hn
  obtain ⟨b, hb, hd⟩ := Option.bind_eq_some_iff.mp hd
  obtain ⟨l, hl, hd⟩ := Option.bind_eq_some_iff.mp hd
  obtain ⟨spots, hspots, hd⟩ := Option.bind_eq_some_iff.mp hd
  refine next_of_gives hd hn fun ⟨hphase, hbefore⟩ => ?_
  simp only [exec_blockRestore, execBlockRestore, hb, hl, hphase, hspots, anyBefore_false hbefore, bne_self_eq_false,
    Bool.false_eq_true, if_false]
  rfl

/-! ### The firmware (09 R218, 10 R245, 19 R384) -/

theorem firmwareResume_answers (co : Nat) (s : State) : Answers launchEvents (.firmwareResume co) s := by
  intro d hd hn
  obtain ⟨c, hc, hd⟩ := Option.bind_eq_some_iff.mp hd
  refine next_of_gives hd hn fun hhalt => ?_
  rw [exec_firmwareResume, execFirmwareResume]
  exact congrArg _ (State.modCohort_congr hc (by rw [hhalt]))

theorem firmwarePressResume_answers (entry : DWord) (s : State) :
    Answers launchEvents (.firmwarePressResume entry) s := by
  intro d hd hn
  exact next_of_gives hd hn fun _ => exec_firmwarePressResume s entry

theorem mem_insertAsc (n : Nat) (l : List Nat) : n ∈ insertAsc n l := by
  induction l with
  | nil => exact List.mem_singleton_self n
  | cons x l ih =>
    unfold insertAsc
    split
    · exact List.mem_cons_self
    · split
      · next h => simp [beq_iff_eq.mp h]
      · exact List.mem_cons_of_mem _ ih

/-- A wait for a page that is absent. -/
def pageWait (page : Nat) : Wait → Bool
  | .page v => v.toNat / 2 ^ 16 == page
  | _ => false

/-- The page is invalid from now on, and the reports of its absence are done with. -/
def State.withInvalid (s : State) (page : Nat) : State :=
  { s with invalid := insertAsc page s.invalid
           fw := s.fw.filter fun r => match r with
             | .page _ v => v.toNat / 2 ^ 16 != page
             | _ => true }

/-- A page that is absent is declared invalid, and its accesses go on, and find it out. -/
theorem execFirmwareDeclareInvalid_absent {va : DWord} {s : State} (h : s.pageWalk va.toNat = none) :
    execFirmwareDeclareInvalid va s
      = .next ((s.withInvalid (va.toNat / 2 ^ 16)).wake fun _ w => pageWait (va.toNat / 2 ^ 16) w) := by
  unfold execFirmwareDeclareInvalid
  rw [h]
  rfl

theorem firmwareDeclareInvalid_answers (va : DWord) (s : State) :
    Answers launchEvents (.firmwareDeclareInvalid va) s := by
  intro d hd hn
  obtain rfl := Option.some.inj hd
  refine ⟨_, (exec_firmwareDeclareInvalid s va).trans (execFirmwareDeclareInvalid_absent hn), mem_insertAsc _ _,
    noneWaits_wake fun c f w hw => ?_, rfl⟩
  obtain ⟨v, rfl, hv⟩ := hw
  exact beq_iff_eq.mpr hv

/-- A launch that the firmware has aborted. -/
def Launch.aborted (l : Launch) : Launch :=
  { l with status := 0x0A, placed := l.blocks, tasks := [], queued := [], closed := [], presses := [] }

/-- A cohort after the abort of a launch: one of the launch ends. -/
def Cohort.aborted (launch : Nat) (c : Cohort) : Cohort :=
  if c.uid != 0 && c.launch == launch then
    { c with ending := true, halt := none, saved := none, walk := none, dir := false, debug := false
             spawn := List.replicate 96 ⟨0, 0, 0⟩ }
  else c

theorem Cohort.aborted_uid (launch : Nat) (c : Cohort) : (c.aborted launch).uid = c.uid := by
  unfold Cohort.aborted
  split <;> rfl

theorem Cohort.aborted_launch (launch : Nat) (c : Cohort) : (c.aborted launch).launch = c.launch := by
  unfold Cohort.aborted
  split <;> rfl

theorem Cohort.aborted_ends {launch : Nat} {c : Cohort} (hu : c.uid ≠ 0) (hl : c.launch = launch) :
    (c.aborted launch).ending = true ∧ (c.aborted launch).halt = none := by
  rw [Cohort.aborted, if_pos (by simp [hu, hl])]
  exact ⟨rfl, rfl⟩

/-- An abort changes the launch, its cohorts and its blocks, and frees the program buffer (19 R384). -/
theorem execFirmwareAbort_eq {launch : Nat} {s : State} {l : Launch} (hl : s.launch? launch = some l)
    (hphase : l.phase ≠ 2) :
    ∃ bs g, execFirmwareAbort launch s = .next { s.modLaunch launch Launch.aborted with
      co := s.co.aborted launch, others := s.others.map (·.aborted launch), blocks := bs, dbg := g } := by
  unfold execFirmwareAbort
  rw [hl]
  dsimp only
  rw [if_neg hphase]
  split <;> exact ⟨_, _, rfl⟩

theorem firmwareAbort_answers (launch : Nat) (s : State) : Answers launchEvents (.firmwareAbort launch) s := by
  intro d hd hn
  obtain ⟨l, hl, hd⟩ := Option.bind_eq_some_iff.mp hd
  obtain rfl := Option.some.inj hd
  obtain ⟨bs, g, he⟩ := execFirmwareAbort_eq hl hn
  refine ⟨_, (exec_firmwareAbort s launch).trans he, ⟨l.aborted, ?_, rfl, rfl⟩, fun c hc hlaunch => ?_, rfl⟩
  · exact (find?_modifyFirst (f := Launch.aborted) (fun _ => rfl) s.launches).trans (congrArg (Option.map _) hl)
  · obtain ⟨hmem, hu⟩ := List.mem_filter.mp hc
    rw [← List.map_cons (f := Cohort.aborted launch)] at hmem
    obtain ⟨b, -, rfl⟩ := List.mem_map.mp hmem
    rw [Cohort.aborted_uid] at hu
    rw [Cohort.aborted_launch] at hlaunch
    exact Cohort.aborted_ends (bne_iff_ne.mp hu) hlaunch

end Sys2Proof.Machine

/-! The theorem of the table has the table's name, so it stands in a namespace of its own. -/

namespace Sys2Proof.Machine.LaunchMoves

/-- Settles O49: each event of the table has a lemma `…_answers` above, and no other instruction has an entry. -/
theorem launchEvents : Obligations.LaunchEvents := by
  unfold Obligations.LaunchEvents
  intro i s d hd hn
  cases i with
  | launchRecord => exact launchRecord_answers _ _ d hd hn
  | blockPlacement => exact blockPlacement_answers _ _ d hd hn
  | placementReport => exact placementReport_answers _ _ _ _ d hd hn
  | launchCompletion => exact launchCompletion_answers _ _ d hd hn
  | taskGather => exact taskGather_answers _ _ d hd hn
  | press => exact press_answers _ _ d hd hn
  | preemptRequest => exact preemptRequest_answers _ _ d hd hn
  | preemptTrap => exact preemptTrap_answers _ _ d hd hn
  | forcedSave => exact forcedSave_answers _ _ d hd hn
  | blockLeave => exact blockLeave_answers _ _ d hd hn
  | blockRestore => exact blockRestore_answers _ _ d hd hn
  | firmwareAbort => exact firmwareAbort_answers _ _ d hd hn
  | firmwareResume => exact firmwareResume_answers _ _ d hd hn
  | firmwarePressResume => exact firmwarePressResume_answers _ _ d hd hn
  | firmwareDeclareInvalid => exact firmwareDeclareInvalid_answers _ _ d hd hn
  | _ => cases hd

end Sys2Proof.Machine.LaunchMoves

/-! Queues and tasks (09 R211-R223). -/

namespace Sys2Proof.Machine

open Sys2Proof.Claims

/-! ### Claims, and the effects that make them good (01 R21) -/

/-- A cohort put in place that spills as many entries takes no room. -/
theorem State.Room.withCo {s p : State} {n : Nat} (h : s.Room p n) {c : Cohort} (hl : c.lim = p.co.lim) :
    s.Room { p with co := c } n := by
  refine ⟨h.limit.imp id fun hlim => Nat.le_trans hlim (Nat.le_of_eq hl.symm),
    h.writeBack.imp id fun ⟨hsz, htr⟩ => ⟨hsz, fun k m hk => ?_⟩⟩
  obtain ⟨pas, hpas⟩ := htr k m hk
  exact ⟨pas, (walkRun_co p c p.dbg .write none _).trans hpas⟩

/-- Neither does an entry of the log. -/
theorem State.Room.logTime {s p : State} {n : Nat} (h : s.Room p n) (i : Instr) : s.Room (p.logTime i) n := by
  obtain ⟨d, hd, -⟩ := logTime_eq p i
  rw [hd]
  refine ⟨h.limit, h.writeBack.imp id fun ⟨hsz, htr⟩ => ⟨hsz, fun k m hk => ?_⟩⟩
  obtain ⟨pas, hpas⟩ := htr k m hk
  exact ⟨pas, (walkRun_co p p.co d .write none _).trans hpas⟩

theorem Effect.Fresh.logTime {s : State} {e : Effect} (h : e.Fresh s) (i : Instr) :
    ({ e with post := e.post.logTime i } : Effect).Fresh s := by
  obtain ⟨d, hd, -⟩ := logTime_eq e.post i
  rw [hd]
  exact ⟨h.whey, h.wheyWb, h.wheyBase, h.core, h.pc, h.icnt, h.floor⟩

/-- When an instruction completes: its records fit, no flag traps, and the write-back can be made (01 R21). -/
theorem tryComplete_eq_ok {s t : State} {e : Effect} {next : DWord} : s.tryComplete e next = .ok t ↔
    (!s.co.special && decide ((e.pushed s next).lim < (e.pushed s next).wheyt)) = false
    ∧ trappedFlags s.co.fmode e.flags = 0
    ∧ ∃ u, ({ e.post with co := e.pushed s next } : State).wheyFlush 1024 = .ok u
      ∧ { u with co := u.co.counted s.co.debug s.co.special e.wrote e.hard next s.co.st.icnt } = t := by
  unfold State.tryComplete
  dsimp only
  split
  · next hfull => exact ⟨(nomatch ·), fun ⟨hroom, _⟩ => absurd hfull (Bool.eq_false_iff.mp hroom)⟩
  · next hroom =>
    split
    · next htrap => exact ⟨(nomatch ·), fun ⟨_, hz, _⟩ => absurd hz (bne_iff_ne.mp htrap)⟩
    · next htrap =>
      have hroom := Bool.eq_false_iff.mpr hroom
      have htrap := bne_eq_false_iff_eq.mp (Bool.eq_false_iff.mpr htrap)
      split
      · next hu => simp [hu]
      · next hu => simp [hu]
      · next u hu => simp only [hu, hroom, htrap, true_and, Except.ok.injEq, XRes.ok.injEq, exists_eq_left']

/-- What completes after a commit completes from the state before it: a completion reads neither the floors nor the
records of the state that it starts from. -/
theorem tryComplete_of_commit {s t : State} {e : Effect} {next : DWord}
    (h : (s.setCo Cohort.commit).tryComplete e next = .ok t) : s.tryComplete e next = .ok t := by
  have hpushed : e.pushed (s.setCo Cohort.commit) next = e.pushed s next := rfl
  obtain ⟨hroom, htrap, u, hu, ht⟩ := tryComplete_eq_ok.mp h
  rw [hpushed] at hroom hu
  exact tryComplete_eq_ok.mpr ⟨hroom, htrap, u, hu, ht⟩

/-- What answers the claim `c` about an instruction: an effect without flags, which the instruction's own rules give. -/
structure Fulfils (i : Instr) (s : State) (c : Claim) (e : Effect) : Prop where
  base : c.base = s ∨ c.base = s.setCo Cohort.commit
  flags : e.flags = 0
  anchored : Anchored c.base e.post
  stands : e.stands = c.post
  hard : e.hard = c.hard
  records : bodyBytes e.recs + 16 ≤ c.room
  issues : IssuesTo i s .seq (.done e)

/-- The effect needs the room of the claim's state. -/
theorem Effect.room_of_stands {s : State} {e : Effect} {n : Nat} (h : s.Room e.stands n) : s.Room e.post n :=
  State.Room.withCo (c := e.post.co) h rfl

theorem Fulfils.completes {i : Instr} {s : State} {c : Claim} {e : Effect} (h : Fulfils i s c e) (hc : s.Clear i)
    (hr : c.base.Room c.post c.room) :
    ∃ t, exec i s = .next t ∧ Completes c.base t c.post (s.after i) c.hard := by
  have hfresh : e.Fresh c.base := h.anchored.fresh rfl
  have hroom : c.base.Room e.post c.room := Effect.room_of_stands (h.stands ▸ hr)
  have hbytes : e.bytes c.base ≤ c.room := Effect.bytes_le_of_noFlags h.flags c.base h.records
  have htrap (f : Word) : trappedFlags f e.flags = 0 := h.flags ▸ trapped_zero f
  obtain ⟨t, ht, hcomp⟩ := conclude_completes (i := i) (next := s.after i) hfresh hroom hbytes (htrap _)
    (by rw [h.anchored.dbg])
  rw [h.stands, h.hard] at hcomp
  obtain ⟨u, hu, -⟩ := tryComplete_completes (next := s.after i) (hfresh.logTime i) (hroom.logTime i) hbytes (htrap _)
  have hsame : s.conclude i (.done e) (s.after i) = c.base.conclude i (.done e) (s.after i) := by
    obtain hb | hb := h.base
    · rw [hb]
    · rw [hb] at hu ⊢
      simp only [State.conclude, State.complete, tryComplete_of_commit hu, hu]
  exact ⟨t, by rw [h.issues.concludes_seq hc, hsame, ht], hcomp⟩

/-- An entry of a table of claims that the instruction makes good under its need. -/
def MakesGood (i : Instr) (s : State) (entry : Option Claim) : Prop :=
  ∀ c, entry = some c → c.need → ∃ e, Fulfils i s c e

theorem makesGood_none (i : Instr) (s : State) : MakesGood i s none := fun _ h => nomatch h

/-- An entry whose effect is its state. -/
theorem makesGood_plain {i : Instr} {s base post : State} {need : Prop} {hard : Bool} {room : Nat}
    (hb : base = s ∨ base = s.setCo Cohort.commit) (hk : Anchored base post) (hroom : 16 ≤ room)
    (hi : need → IssuesTo i s .seq (.done { post, hard })) :
    MakesGood i s (some { base, need, post, hard, room }) := by
  rintro _ ⟨⟩ hn
  exact ⟨_, hb, rfl, hk, Effect.stands_plain rfl rfl, rfl, by simpa [bodyBytes] using hroom, hi hn⟩

/-- An entry whose effect leaves a result outstanding (03 R65). -/
theorem makesGood_result {i : Instr} {s p : State} {need : Prop} {hard : Bool} {room : Nat} {cls : ResClass}
    {dests : List Dest} (recs : List RecBody) (hk : Anchored s p) (hb : bodyBytes recs + 16 ≤ room)
    (hi : need → IssuesTo i s .seq (.done { post := p, recs, hard, outst := outstOf s cls dests })) :
    MakesGood i s (some { base := s, need, post := p.withResult cls s.co.st.icnt dests, hard, room }) := by
  rintro _ ⟨⟩ hn
  refine ⟨_, .inl rfl, rfl, hk, ?_, rfl, hb, hi hn⟩
  rw [Effect.stands, withFlags_zero]
  rfl

/-! ### Queues (09 R219-R223) -/

theorem Anchored.queuePut (s : State) (n : Nat) (e : QEntry) : Anchored s (s.queuePut n e) := by
  unfold State.queuePut
  split
  · exact Anchored.modBlock _ _ _
  · split
    · exact ⟨rfl⟩
    · exact Anchored.refl s

theorem Anchored.queueDrop (s : State) (n : Nat) : Anchored s (s.queueDrop n) := by
  unfold State.queueDrop
  split
  · exact Anchored.modBlock _ _ _
  · exact ⟨rfl⟩

/-- A pop or peek of a queue with an entry goes on with the oldest. -/
theorem withEntry_of {s : State} {a : BitVec 7} {e : QEntry} {rest : List QEntry}
    (he : s.queueEntries (a.toNat % 8) = e :: rest) (ht : s.co.st.ticket 2 < 15) (k : Nat → QEntry → Act) :
    withEntry s a k = k (a.toNat % 8) e := by
  simp only [withEntry, he]
  exact withTicket_of ht _

/-- At an empty queue it raises cause 0x14, or waits. -/
theorem withEntry_empty {s : State} {a : BitVec 7} (he : s.queueEntries (a.toNat % 8) = []) (k : Nat → QEntry → Act) :
    withEntry s a k = if a.getLsbD 3 then .trap (trapOf 0x14 0 (BitVec.ofNat 64 (a.toNat % 8)))
      else .park (.queue (a.toNat % 8)) s := by
  simp only [withEntry, he]

theorem qpush_good (o : LForm) (s : State) : MakesGood (.qpush o) s (queues s (.qpush o)) := by
  refine makesGood_plain (.inl rfl) ((Anchored.releaseAt s _ _).trans (Anchored.queuePut _ _ _)) (by decide)
    fun ⟨hbar, hfree, hrel⟩ => issuesTo_seq (exec_qpush s o) ?_
  simp only [hbar, if_neg hfree, withRelease_of hrel]
  rfl

theorem qpop_good (o : LForm) (s : State) : MakesGood (.qpop o) s (queues s (.qpop o)) := by
  cases he : s.queueEntries (o.a.toNat % 8) with
  | nil =>
    simp only [queues, he]
    exact makesGood_none _ s
  | cons e rest =>
    simp only [queues, he]
    refine makesGood_result [] ?_ (by simp [bodyBytes]) fun ht => issuesTo_seq (exec_qpop s o) ?_
    · have hdrop := (Anchored.queueDrop s (o.a.toNat % 8)).trans
        (Anchored.acquireAt _ s.co.core (queueScope (o.a.toNat % 8)))
      split
      · exact hdrop
      · exact hdrop.trans ⟨rfl⟩
    · rw [withEntry_of he ht]
      simp only [bne_iff_ne, ne_eq, ite_not]

theorem qpeek_good (o : LForm) (s : State) : MakesGood (.qpeek o) s (queues s (.qpeek o)) := by
  cases he : s.queueEntries (o.a.toNat % 8) with
  | nil =>
    simp only [queues, he]
    exact makesGood_none _ s
  | cons e rest =>
    simp only [queues, he]
    refine makesGood_result (laneRecs s.co o.d.toNat s.co.st.mask) (Anchored.acquireAt s _ _) ?_
      fun ht => issuesTo_seq (exec_qpeek s o) (withEntry_of he ht _)
    unfold laneRecs State.recordRoom
    split <;> simp only [bodyBytes, RecBody.size] <;> omega

theorem qstat_good (o : UxForm) (s : State) : MakesGood (.qstat o) s (queues s (.qstat o)) := by
  refine makesGood_result (s.recsU false [o.d.toNat]) (Anchored.refl s) ?_
    fun ⟨ht, hw, hm⟩ => issuesTo_seq (exec_qstat s o) ?_
  · exact Nat.le_trans (Nat.add_le_add_right (bodyBytes_recsU s false [o.d.toNat]) 16) (by simp)
  · rw [withTicket_of ht]
    simp only [uniLater, List.findSome?_cons, hw, List.findSome?_nil, List.append_nil]
    exact guardMse_of hm

theorem queues_good (i : Instr) (s : State) : MakesGood i s (queues s i) := by
  cases i with
  | qpush o => exact qpush_good o s
  | qpop o => exact qpop_good o s
  | qpeek o => exact qpeek_good o s
  | qstat o => exact qstat_good o s
  | _ => exact makesGood_none _ s

/-- None of them commits before it completes. -/
theorem queues_base {i : Instr} {s : State} {c : Claim} (h : queues s i = some c) : c.base = s := by
  cases i with
  | qpush o | qstat o =>
    cases h
    rfl
  | qpop o | qpeek o =>
    simp only [queues] at h
    split at h <;> cases h
    rfl
  | _ => cases h

/-- Settles O37: each entry of the table is what the instruction's rules do. -/
theorem queueResults : Obligations.QueueResults := by
  unfold Obligations.QueueResults
  intro i s c hq hn hc hr
  obtain ⟨e, he⟩ := queues_good i s c hq hn
  exact he.completes hc ((queues_base hq).symm ▸ hr)

theorem conclude_ite {i : Instr} {s : State} {b : Bool} {t : Trap} {w : Wait} {next : DWord} :
    s.conclude i (if b then .trap t else .park w s) next = if b then s.raise t else s.parkSt w := by
  cases b <;> rfl

/-- Settles O38: the rules of each instruction look for an entry, or for room, before anything else. -/
theorem queueFullOrEmpty : Obligations.QueueFullOrEmpty := by
  unfold Obligations.QueueFullOrEmpty
  refine ⟨fun o s hc hbar hfree => ?_, fun i o s hi hc hempty => ?_⟩
  · rw [exec_qpush, execQpush, issueSeq_concludes hc]
    simp only [hbar, if_pos hfree, conclude_ite]
  · obtain rfl | rfl := hi
    · rw [exec_qpop, execQpop, issueSeq_concludes hc, withEntry_empty hempty, conclude_ite]
    · rw [exec_qpeek, execQpeek, issueSeq_concludes hc, withEntry_empty hempty, conclude_ite]

end Sys2Proof.Machine

namespace Sys2Proof.Machine

open Sys2Proof.Claims

/-! ### What the operations of tasks leave of a cohort (08 R195-R201, 09 R211-R216) -/

/-- Of the focused cohort no more than the lanes' spawn state has changed, and nothing of the debug unit. -/
structure OnlySpawn (s t : State) : Prop where
  co : t.co = { s.co with spawn := t.co.spawn }
  dbg : t.dbg = s.dbg

theorem OnlySpawn.refl (s : State) : OnlySpawn s s := ⟨rfl, rfl⟩

theorem OnlySpawn.trans {s t u : State} (h : OnlySpawn s t) (k : OnlySpawn t u) : OnlySpawn s u :=
  ⟨by rw [k.co, h.co], k.dbg.trans h.dbg⟩

theorem OnlySpawn.foldl {α : Type} {f : State → α → State} (hf : ∀ s a, OnlySpawn s (f s a)) (l : List α) (s : State) :
    OnlySpawn s (l.foldl f s) :=
  List.foldlRecOn l f (OnlySpawn.refl s) fun t ht a _ => ht.trans (hf t a)

theorem OnlySpawn.st {s t : State} (h : OnlySpawn s t) : t.co.st = s.co.st := by rw [h.co]

theorem OnlySpawn.core {s t : State} (h : OnlySpawn s t) : t.co.core = s.co.core := by rw [h.co]

theorem OnlySpawn.anchored {s t : State} (h : OnlySpawn s t) : Anchored s t := by
  refine ⟨?_⟩
  rw [State.anchor, h.dbg, h.co]
  rfl

theorem Anchored.core {s t : State} (h : Anchored s t) : t.co.core = s.co.core := congrArg Anchor.core h.eq

/-- A commit takes the anchor along. -/
theorem Anchored.commit {s t : State} (h : Anchored s t) : Anchored (s.setCo Cohort.commit) (t.setCo Cohort.commit) := by
  obtain ⟨h⟩ := h
  simp only [State.anchor, Anchor.mk.injEq] at h
  obtain ⟨-, -, hbase, hcore, hpc, hicnt, -, hdbg⟩ := h
  refine ⟨?_⟩
  show (⟨[], 0, t.co.wheyBase, t.co.core, t.co.st.pc, t.co.st.icnt, t.co.st.icnt, t.dbg⟩ : Anchor) = _
  rw [hbase, hcore, hpc, hicnt, hdbg]
  rfl

theorem Anchored.setV (s : State) (f : Cohort → List (List Word)) : Anchored s (s.setCo fun c => { c with v := f c }) :=
  ⟨rfl⟩

theorem OnlySpawn.commit {s t : State} (h : OnlySpawn s t) :
    OnlySpawn (s.setCo Cohort.commit) (t.setCo Cohort.commit) := by
  refine ⟨?_, h.dbg⟩
  rw [State.setCo_co, State.setCo_co, h.co]
  rfl

/-- Whether an exit empties the running set does not rest on the spawn state. -/
theorem OnlySpawn.exitEmpties {s t : State} (h : OnlySpawn s t) : exitEmpties t = exitEmpties s := by
  unfold Machine.exitEmpties
  rw [h.co]
  rfl

theorem OnlyMem.onlySpawn {s t : State} (h : OnlyMem s t) : OnlySpawn s t := ⟨by rw [h.co], h.dbg⟩

theorem OnlySpawn.modLaunch (s : State) (k : Nat) (f : Launch → Launch) : OnlySpawn s (s.modLaunch k f) := ⟨rfl, rfl⟩

theorem OnlySpawn.setSpawn (s : State) (f : Cohort → List SpawnLane) :
    OnlySpawn s (s.setCo fun c => { c with spawn := f c }) := ⟨rfl, rfl⟩

theorem OnlyMem.releaseAt (s : State) (k scope : Nat) : OnlyMem s (s.releaseAt k scope) := by
  unfold State.releaseAt State.releaseL1
  split
  · exact OnlyMem.foldl _ (fun s wa => OnlyMem.writeBack s k wa) _ _
  · exact OnlyMem.refl s

theorem OnlyMem.homeStore (s : State) (l : List (Nat × Byte)) : OnlyMem s (s.homeStore l) := by
  induction l generalizing s with
  | nil => exact OnlyMem.refl s
  | cons p l ih =>
    exact (((OnlyMem.takeBack s (p.1 / 128)).trans (OnlyMem.recall _ none (p.1 / 4))).trans
      (OnlyMem.homePut _ p.1 [p.2])).trans (ih _)

theorem agentLoad_onlyMem {s t : State} {va n : Nat} {bs : List Byte} (h : s.agentLoad va n = .ok (bs, t)) :
    OnlyMem s t := by
  unfold State.agentLoad at h
  split at h <;> cases h
  exact OnlyMem.bringHome _ _

theorem agentStore_onlySpawn {s t : State} {va : Nat} {bs : List Byte} (h : s.agentStore va bs = .ok t) :
    OnlySpawn s t := by
  unfold State.agentStore at h
  split at h <;> cases h
  exact (OnlyMem.homeStore s _).onlySpawn.trans ⟨rfl, rfl⟩

theorem OnlySpawn.put (s : State) (va : Nat) (bs : List Byte) : OnlySpawn s (s.put va bs) := by
  unfold State.put
  split
  · next h => exact agentStore_onlySpawn h
  · exact OnlySpawn.refl s

theorem OnlySpawn.reportDead (s : State) (q : Nat) : OnlySpawn s (s.reportDead q) := by
  unfold State.reportDead
  split
  · exact OnlySpawn.refl s
  · exact ⟨rfl, rfl⟩

theorem openQueue_onlySpawn {s t : State} {q : Nat} {d : Option Desc} (h : s.openQueue q = .ok (d, t)) :
    OnlySpawn s t := by
  unfold State.openQueue at h
  split at h
  · cases h
    exact OnlySpawn.refl s
  · split at h
    · cases h
    · cases h
    · next hload =>
      have hmem := (agentLoad_onlyMem hload).onlySpawn
      dsimp only at h
      generalize (!_ && _) = changed at h
      split at h
      · cases h
        refine OnlySpawn.trans ?_ (OnlySpawn.reportDead _ q)
        exact hmem.trans ⟨rfl, rfl⟩
      · split at h
        · cases h
          exact hmem.trans (OnlySpawn.reportDead _ q)
        · cases h
          exact hmem.trans ⟨rfl, rfl⟩

theorem OnlySpawn.postAll (q : Nat) (es : List PostEntry) (s : State) : OnlySpawn s (s.postAll q es).2 := by
  induction es generalizing s with
  | nil => exact OnlySpawn.refl s
  | cons e rest ih =>
    unfold State.postAll
    split
    · next hopen =>
      have hq := openQueue_onlySpawn hopen
      split
      · split
        · next hpost => exact (hq.trans (agentStore_onlySpawn hpost)).trans (ih _)
        · exact hq
      · exact hq
    · exact OnlySpawn.refl s

theorem OnlySpawn.setTaskSt (s : State) (launch : Nat) (e : DWord) (st : Nat) : OnlySpawn s (s.setTaskSt launch e st) :=
  (OnlySpawn.modLaunch s launch _).trans (OnlySpawn.put _ _ _)

theorem OnlySpawn.addDue (s : State) (launch : Nat) (e : DWord) (cohort strand lane : Nat) :
    OnlySpawn s (s.addDue launch e cohort strand lane) := by
  unfold State.addDue
  split
  · exact OnlySpawn.refl s
  · exact iteInduction (motive := OnlySpawn s) (fun _ => OnlySpawn.modLaunch _ _ _) fun _ => OnlySpawn.refl s

theorem OnlySpawn.settleTask (s : State) (launch : Nat) (e : DWord) (cohort strand lane : Nat) :
    OnlySpawn s (s.settleTask launch e cohort strand lane) := by
  have hfinal (b : Bool) : OnlySpawn s (if b then s.setTaskSt launch e 3 else s) := by
    cases b with
    | false => exact OnlySpawn.refl s
    | true => exact OnlySpawn.setTaskSt s launch e 3
  have hdue (b : Bool) := (hfinal b).trans (OnlySpawn.addDue _ launch e cohort strand lane)
  unfold State.settleTask
  dsimp only
  split
  · exact (hdue _).trans (OnlySpawn.addDue _ _ _ _ _ _)
  · exact hdue _

theorem OnlySpawn.joinLane (s : State) (strand i : Nat) : OnlySpawn s (s.joinLane strand i) := by
  unfold State.joinLane
  dsimp only
  split
  · exact OnlySpawn.refl s
  · split
    · exact OnlySpawn.setSpawn s fun c => c.spawn.set i _
    · exact (OnlySpawn.modLaunch s _ _).trans (OnlySpawn.settleTask _ _ _ _ _ _)

theorem OnlySpawn.joinLanes (s : State) (strand : Nat) (m : LaneSet) : OnlySpawn s (s.joinLanes strand m) :=
  OnlySpawn.foldl (fun s i => OnlySpawn.joinLane s strand i) _ s

theorem OnlySpawn.endTasks (s : State) (strand : Nat) (m : LaneSet) : OnlySpawn s (s.endTasks strand m) := by
  refine OnlySpawn.foldl (fun s i => ?_) _ s
  dsimp only
  split
  · exact (OnlySpawn.setTaskSt s _ _ 2).trans (OnlySpawn.settleTask _ _ _ _ _ _)
  · exact OnlySpawn.refl s

theorem OnlySpawn.claimLane (s : State) (i : Nat) : OnlySpawn s (s.claimLane i).2 := by
  refine iteInduction (motive := fun r : Bool × State => OnlySpawn s r.2) (fun _ => OnlySpawn.refl s) fun _ => ?_
  exact ((OnlySpawn.modLaunch s _ _).trans (OnlySpawn.setTaskSt _ _ _ 0)).trans
    (OnlySpawn.setSpawn _ fun c => c.spawn.set i _)

theorem OnlySpawn.spawnOne (s : State) (l : Launch) (child : DWord) (a i ticket : Nat) :
    OnlySpawn s (s.spawnOne l child a i ticket).2 := by
  unfold State.spawnOne
  dsimp only
  generalize viewBytes _ _ _ _ _ _ _ = entry
  exact (OnlySpawn.put s _ entry).trans ⟨rfl, rfl⟩

theorem OnlySpawn.spawnAll (l : Launch) (child : DWord) (a t : Nat) (is : List Nat) (s : State) :
    OnlySpawn s (s.spawnAll l child a t is).2 := by
  induction is generalizing s t with
  | nil => exact OnlySpawn.refl s
  | cons i rest ih => exact (OnlySpawn.spawnOne s l child a i t).trans (ih _ _)

/-! ### Posting (08 R176, R177) -/

/-- Once every entry is posted, what waits for it goes on. -/
theorem postOn_of {s : State} {q : Nat} {es : List PostEntry} (h : (s.postAll q es).1 = []) (fin : State → Act) :
    postOn s q es fin = fin (s.postAll q es).2 := by
  unfold postOn
  generalize s.postAll q es = r at h ⊢
  obtain ⟨rest, t⟩ := r
  obtain rfl : rest = [] := h
  rfl

/-! ### `SPAWN` and `TCLAIM` (09 R212, R215) -/

theorem spawn_good (o : UeForm) (s : State) : MakesGood (.spawn o) s (tasks s (.spawn o)) := by
  simp only [tasks]
  split
  · next q es hpark =>
    refine makesGood_plain (.inl rfl) (OnlySpawn.postAll q es s).anchored (by decide)
      fun hall => issuesTo_seq (exec_spawn s o) ?_
    simp only [hpark]
    exact postOn_of hall _
  · next hpark =>
    split
    · exact makesGood_none _ s
    · next l hl =>
      split
      · next hn =>
        refine makesGood_plain (.inl rfl) (Anchored.refl s) (by decide)
          fun ⟨_, hwin⟩ => issuesTo_seq (exec_spawn s o) ?_
        simp only [hl, hwin, hn, bne_self_eq_false, Bool.false_eq_true, if_false, if_true]
      · next hn =>
        split
        · next d u hopen =>
          refine makesGood_plain (.inr rfl) ?_ (by decide)
            fun ⟨⟨_, hwin⟩, hcheck, harena, hrel, hall⟩ => issuesTo_seq (exec_spawn s o) ?_
          · have hu := (openQueue_onlySpawn hopen).trans (OnlyMem.releaseAt u u.co.core 5).onlySpawn
            refine ((OnlySpawn.commit ?_).trans (OnlySpawn.postAll _ _ _)).anchored
            exact (hu.trans (OnlySpawn.put _ _ _)).trans (OnlySpawn.spawnAll _ _ _ _ _ _)
          · simp only [hl, hwin, hn, hopen, bne_self_eq_false, Bool.false_eq_true, if_false, XRes.act,
              hcheck, harena, withRelease_of hrel, Bool.not_true]
            exact postOn_of hall _
        · exact makesGood_none _ s

theorem tclaim_good (o : UForm) (s : State) : MakesGood (.tclaim o) s (tasks s (.tclaim o)) := by
  refine makesGood_plain (.inl rfl) ((OnlySpawn.anchored ?_).trans (Anchored.setV _ _)) (by decide)
    fun _ => issuesTo_seq (exec_tclaim s o) rfl
  refine List.foldlRecOn (motive := fun r : List (Nat × Word) × State => OnlySpawn s r.2) _ _ (OnlySpawn.refl s)
    fun r hr i _ => ?_
  exact hr.trans (OnlySpawn.claimLane r.2 i)

/-! ### `TJOIN` and `TEND` (09 R213, R214) -/

/-- A join begins from the state itself or from a commit, and changes no register. -/
theorem joining_begins (s : State) :
    ((tasks.joining s).1 = s ∨ (tasks.joining s).1 = s.setCo Cohort.commit)
      ∧ OnlySpawn (tasks.joining s).1 (tasks.joining s).2.2 := by
  unfold tasks.joining
  split
  · exact ⟨.inl rfl, OnlySpawn.refl s⟩
  · exact ⟨.inr rfl, (OnlyMem.releaseAt s s.co.core 4).onlySpawn.commit.trans (OnlySpawn.modLaunch _ _ _)⟩

/-- The beginning of a join leaves the strand its id and its lanes, on its core. -/
theorem joining_lanes (s : State) : (tasks.joining s).2.2.co.st.id = s.co.st.id
    ∧ (tasks.joining s).2.2.co.st.mask = s.co.st.mask ∧ (tasks.joining s).2.2.co.core = s.co.core := by
  obtain ⟨hbase, hjoin⟩ := joining_begins s
  rw [hjoin.st, hjoin.core]
  obtain h | h := hbase <;> rw [h] <;> exact ⟨rfl, rfl, rfl⟩

/-- Nor does a join change whether an exit empties the running set. -/
theorem joining_exitEmpties (s : State) : exitEmpties (tasks.joining s).2.2 = exitEmpties s := by
  obtain ⟨hbase, hjoin⟩ := joining_begins s
  rw [hjoin.exitEmpties]
  obtain h | h := hbase <;> rw [h]
  rfl

/-- A join that may begin looks at its lanes. -/
theorem withJoin_of {s : State} (h : (tasks.joining s).2.1) (k : State → Act) :
    withJoin s k = k (tasks.joining s).2.2 := by
  unfold tasks.joining at h ⊢
  unfold withJoin
  split
  · next hpark =>
    rw [if_pos hpark] at h
    rw [h]
  · next hpark =>
    rw [if_neg hpark] at h
    exact withRelease_of h _

theorem tjoin_good (o : UForm) (s : State) : MakesGood (.tjoin o) s (tasks s (.tjoin o)) := by
  obtain ⟨hbase, hjoin⟩ := joining_begins s
  obtain ⟨hid, hmask, hcore⟩ := joining_lanes s
  have hlanes := OnlySpawn.joinLanes (tasks.joining s).2.2 s.co.st.id s.co.st.mask
  refine makesGood_plain hbase ((hjoin.trans hlanes).anchored.trans (Anchored.acquireAt _ _ _)) (by decide)
    fun ⟨hneed, hall, hpress⟩ => issuesTo_seq (exec_tjoin s o) ?_
  simp only [withJoin_of hneed, hid, hmask, hlanes.st, hlanes.core, hcore, hall, hpress, List.isEmpty_nil, Bool.and_self,
    if_true]

/-- The lanes of a set end: they exit, and the strand goes on without active lanes (09 R214). -/
def Cohort.endLanes (c : Cohort) (m : LaneSet) : Cohort :=
  { c with exm := c.exm ||| m, st := { c.st with held := c.st.held &&& ~~~m, mask := 0, park := none } }

theorem Cohort.endLanes_zero {c : Cohort} (h : c.st.mask = 0) :
    c.endLanes 0 = { c with st := { c.st with park := none } } := by
  have hheld : c.st.held &&& ~~~0 = c.st.held := (congrArg (c.st.held &&& ·) BitVec.not_zero).trans BitVec.and_allOnes
  simp only [Cohort.endLanes, hheld, h, show c.exm ||| 0 = c.exm from BitVec.or_zero]

theorem tend_good (o : UForm) (s : State) : MakesGood (.tend o) s (tasks s (.tend o)) := by
  obtain ⟨hbase, hjoin⟩ := joining_begins s
  obtain ⟨hid, hmask, -⟩ := joining_lanes s
  have hlanes := OnlySpawn.joinLanes (tasks.joining s).2.2 s.co.st.id s.co.st.mask
  have hends := hlanes.trans (OnlySpawn.endTasks _ s.co.st.id s.co.st.mask)
  simp only [tasks]
  refine iteInduction (motive := MakesGood _ s) (fun _ => makesGood_none _ s) fun hexit => ?_
  refine makesGood_plain hbase ((hjoin.trans hends).anchored.trans ⟨rfl⟩) (by decide)
    fun ⟨_, hneed, hall, hpress⟩ => ⟨_, _, exec_tend s o, if_neg (by simpa using hexit), ?_⟩
  simp only [withJoin_of hneed, hid, hmask, hall, hpress, List.isEmpty_nil, Bool.not_true, Bool.false_eq_true, if_false]
  have hst := hends.st
  have hrun := hends.exitEmpties
  generalize State.endTasks _ _ _ = u at hst hrun ⊢
  by_cases hm : s.co.st.mask = 0
  · rw [if_pos hm, hm]
    have hu : u.co.st.mask = 0 := by rw [hst, hmask, hm]
    exact congrArg (fun c => Act.done { post := { u with co := c } }) (Cohort.endLanes_zero hu).symm
  · have hu : exitEmpties (u.setSt fun st => { st with park := none }) = false := by
      refine hrun.trans ((joining_exitEmpties s).trans ?_)
      exact Bool.eq_false_iff.mpr fun h => hexit ⟨hm, h⟩
    rw [if_neg hm, hu]
    rfl

/-! ### `QPOST` (09 R216) -/

theorem qpost_good (o : UeForm) (s : State) : MakesGood (.qpost o) s (tasks s (.qpost o)) := by
  simp only [tasks]
  split
  · next q es hpark =>
    refine makesGood_plain (.inl rfl) ((OnlySpawn.postAll q es s).anchored.trans (writeU_keeps _ _ _).anchored) (by decide)
      fun hall => issuesTo_seq (exec_qpost s o) ?_
    simp only [hpark]
    exact postOn_of hall _
  · next hpark =>
    split
    · exact makesGood_none _ s
    · next hq =>
      split
      · next d u hopen =>
        split
        · next p hp =>
          have hread := (openQueue_onlySpawn hopen).anchored.trans
            (Anchored.readPlaces u [] [(⟨127, (s.readU2 o.b.toNat).toNat⟩, p)])
          refine makesGood_plain (.inr rfl) ?_ (by decide)
            fun ⟨hreach, hw, hcheck, hrel, hall⟩ => issuesTo_seq (exec_qpost s o) ?_
          · refine ((Anchored.commit ?_).trans (OnlySpawn.postAll _ _ _).anchored).trans (writeU_keeps _ _ _).anchored
            exact (hread.trans (Anchored.releaseAt _ _ _)).trans (OnlySpawn.put _ _ _).anchored
          · simp only [hq, hopen, if_false, XRes.act, withAccess_of hreach, hw, hcheck, withRelease_of hrel,
              hread.core]
            exact postOn_of hall _
        · exact makesGood_none _ s
      · exact makesGood_none _ s

theorem tasks_good (i : Instr) (s : State) : MakesGood i s (tasks s i) := by
  cases i with
  | spawn o => exact spawn_good o s
  | tjoin o => exact tjoin_good o s
  | tend o => exact tend_good o s
  | tclaim o => exact tclaim_good o s
  | qpost o => exact qpost_good o s
  | _ => exact makesGood_none _ s

/-- Settles O41: each entry of the table is what the instruction's rules do, from the state that its commit leaves. -/
theorem taskResults : Obligations.TaskResults := by
  unfold Obligations.TaskResults
  intro i s c ht hn hc hr
  obtain ⟨e, he⟩ := tasks_good i s c ht hn
  exact he.completes hc hr

end Sys2Proof.Machine

/-! Engine instructions (15 R311-R333, 16 R340-R358): each completes, and leaves its work to the engine. -/

namespace Sys2Proof.Machine

open Sys2Proof.Claims

/-! ### Changes of cohorts by their uid -/

/-- A change that keeps the anchor when made to the cohort in focus keeps it whichever cohort it is made to. -/
theorem Anchored.modCohort (s : State) (uid : Nat) {f : Cohort → Cohort} (hf : Anchored s (s.setCo f)) :
    Anchored s (s.modCohort uid f) := by
  unfold State.modCohort
  split
  · exact hf
  · exact ⟨rfl⟩

/-- A change of the cohort in focus. -/
theorem modCohort_focused (s : State) (f : Cohort → Cohort) : s.modCohort s.co.uid f = s.setCo f :=
  if_pos (beq_self_eq_true _)

theorem Anchored.modPair (s : State) (k : Nat) (f : Pair → Pair) : Anchored s (s.modPair k f) := ⟨rfl⟩
theorem Anchored.gcTiles (s : State) (p : Nat) : Anchored s (s.gcTiles p) := ⟨rfl⟩
theorem Anchored.setGrants (s : State) (f : Cohort → List Grant) :
    Anchored s (s.setCo fun c => { c with grants := f c }) := ⟨rfl⟩
theorem Anchored.setTile (s : State) (f : Cohort → List ZMap) :
    Anchored s (s.setCo fun c => { c with z := f c }) := ⟨rfl⟩
theorem Anchored.setPlans (s : State) (l : List Plan) : Anchored s { s with plans := l } := ⟨rfl⟩

/-! ### Leave (08 R192, R193, 16 R340, R357, R358) -/

theorem Anchored.dropGrants (s : State) (cohort : Nat) (p : Grant → Bool) : Anchored s (s.dropGrants cohort p) := by
  unfold State.dropGrants
  split
  · exact Anchored.refl s
  · exact (Anchored.modCohort s cohort (Anchored.setGrants s _)).trans
      (Anchored.foldl _ (fun s (g : Grant) => Anchored.modDie s g.die _) _ _)

theorem Anchored.closeChain (s : State) (t : Nat) : Anchored s (s.closeChain t) := Anchored.dropGrants s _ _

theorem Anchored.useGrant (s : State) (need : Bool) (cls use tile : Nat) : Anchored s (s.useGrant need cls use tile) := by
  unfold State.useGrant
  split
  · exact Anchored.refl s
  · exact Anchored.setGrants s _

/-- A state with other grants of its focused cohort and other sluices. -/
def State.granted (s : State) (gs : List Grant) (ds : List Die) : State :=
  { s with co := { s.co with grants := gs }, dies := ds }

theorem Anchored.granted (s : State) (gs : List Grant) (ds : List Die) : Anchored s (s.granted gs ds) := ⟨rfl⟩

theorem addGrant_granted (s : State) (cls : Nat) : ∃ gs ds, s.addGrant s.co.uid cls = s.granted gs ds := by
  unfold State.addGrant
  split
  · exact ⟨s.co.grants, s.dies, rfl⟩
  · dsimp only
    rw [modCohort_focused]
    exact ⟨_, _, rfl⟩

/-- Asking for leave changes nothing but grants and sluices. -/
theorem askLeave_granted (s : State) (cls : Nat) : ∃ gs ds, (s.askLeave cls).2 = s.granted gs ds := by
  unfold State.askLeave
  split
  · exact ⟨s.co.grants, s.dies, rfl⟩
  · split
    · exact addGrant_granted s cls
    · exact ⟨s.co.grants, _, rfl⟩

theorem leave_granted (s : State) (need : Bool) (cls : Nat) : ∃ gs ds, leave s need cls = s.granted gs ds := by
  cases need with
  | false => exact ⟨s.co.grants, s.dies, rfl⟩
  | true => exact askLeave_granted s cls

/-- With leave to hand an instruction goes on. -/
theorem withLeave_of {s : State} {need : Bool} {cls : Nat} (h : need = true → (s.askLeave cls).1 = true)
    (k : State → Act) : withLeave s need cls k = k (leave s need cls) := by
  cases need with
  | false => rfl
  | true =>
    have hyes := h rfl
    rw [leave, if_pos rfl, withLeave]
    generalize s.askLeave cls = r at hyes ⊢
    obtain ⟨b, t⟩ := r
    obtain rfl : b = true := hyes
    rfl

theorem leave_good (o : UxForm) (s : State) : MakesGood (.leave o) s (engines s (.leave o)) := by
  refine iteInduction (motive := MakesGood _ s) (fun h5 => ?_) fun h5 => ?_
  · exact makesGood_plain (.inl rfl) (Anchored.dropGrants s _ _) (by decide) fun _ =>
      issuesTo_seq (exec_leave s o) (if_pos (congrArg BitVec.toNat h5))
  · have h5 : ¬ o.ext.toNat = 5 := fun h => h5 (BitVec.eq_of_toNat_eq h)
    obtain ⟨gs, ds, ht⟩ := askLeave_granted s o.ext.toNat
    refine makesGood_plain (.inl rfl) (ht ▸ Anchored.granted s gs ds) (by decide) fun hleave =>
      issuesTo_seq (exec_leave s o) ((if_neg h5).trans ?_)
    exact withLeave_of (fun _ => hleave) _

/-! ### Copies (15 R311-R320, 16 R340-R347) -/

theorem laychk_good (o : UxForm) (s : State) : MakesGood (.laychk o) s (engines s (.laychk o)) :=
  makesGood_plain (.inl rfl) (Anchored.refl s) (by decide) fun ⟨hfault, halign⟩ => issuesTo_seq (exec_laychk s o) (by
    simp only [hfault, halign])

theorem Anchored.setCopies (s : State) (f : Strand → List (Nat × Bool)) (n : Nat) :
    Anchored s { s.setSt fun st => { st with copies := f st } with fresh := n } := ⟨rfl⟩

theorem Anchored.copyStarted (s t : State) (c : CopyCmd) : Anchored t (copyStarted s t c) := by
  unfold Claims.copyStarted
  exact ((Anchored.useGrant t _ _ _ _).trans (Anchored.modCore _ _ _)).trans (Anchored.setCopies _ _ _)

/-- An instruction whose rules are those of the copy command `c` makes its entry good. -/
theorem copy_good {i : Instr} {s : State} {c : CopyCmd} {act : State → Act} (hcmd : copyCmd s i = some c)
    (he : exec i s = issueSeq i act s) (ha : act s = copyAct s c) : MakesGood i s (copies s i) := by
  unfold copies
  rw [hcmd]
  obtain ⟨gs, ds, ht⟩ := leave_granted s (decide (1048576 < (Layout.ofWords c.lay).bytes)) 3
  dsimp only
  refine makesGood_plain (.inl rfl) ?_ (by decide)
    fun ⟨hfault, hlines, hclean, hleave, hslots, hcp⟩ => issuesTo_seq he (ha.trans ?_)
  · rw [ht]
    exact (Anchored.granted s gs ds).trans (Anchored.copyStarted _ _ _)
  · unfold copyAct
    rw [hfault]
    refine (if_neg (Bool.eq_false_iff.mp (congrArg not hlines))).trans ?_
    split
    · next hpoison => exact nomatch hpoison.symm.trans hclean
    · refine (withLeave_of hleave _).trans ?_
      rw [ht] at hslots hcp ⊢
      refine (if_neg (Nat.not_le.mpr hslots)).trans ((if_neg (Nat.not_le.mpr hcp)).trans ?_)
      unfold Claims.copyStarted
      cases c.idx <;> rfl

theorem copies_good (i : Instr) (s : State) : MakesGood i s (copies s i) := by
  cases i with
  | copy o => exact copy_good rfl (exec_copy s o) rfl
  | gather o => exact copy_good rfl (exec_gather s o) rfl
  | _ => exact makesGood_none _ s

/-! ### The matrix pair (15 R322-R329, 16 R342, R348-R353) -/

theorem znew_good (o : UForm) (s : State) : MakesGood (.znew o) s (engines s (.znew o)) :=
  makesGood_plain (.inl rfl)
    (((Anchored.closeChain s _).trans (Anchored.setTile _ _)).trans (Anchored.gcTiles _ _)) (by decide)
    fun hpair => issuesTo_seq (exec_znew s o) (by simp only [hpair]; rfl)

theorem zclr_good (o : UxForm) (s : State) : MakesGood (.zclr o) s (engines s (.zclr o)) := by
  simp only [engines]
  split
  · next htile =>
    exact makesGood_plain (.inl rfl) (Anchored.closeChain s _) (by decide)
      fun hpair => issuesTo_seq (exec_zclr s o) (by simp only [hpair, htile])
  · next k htile =>
    refine makesGood_plain (.inl rfl) ?_ (by decide)
      fun hpair => issuesTo_seq (exec_zclr s o) (by simp only [hpair, htile, pairOfCore])
    exact (((Anchored.closeChain s _).trans (Anchored.modPair _ _ _)).trans (Anchored.setTile _ _)).trans
      (Anchored.gcTiles _ _)

theorem countBits_pos {n x : Nat} (hx : x < 2 ^ n) (h0 : x ≠ 0) : 0 < countBits n x := by
  induction n generalizing x with
  | zero => omega
  | succ n ih =>
    rw [countBits]
    by_cases hhalf : x / 2 = 0
    · omega
    · have := ih (x := x / 2) (by omega) hhalf
      omega

/-- A set of lanes that is not empty has a lane. -/
theorem laneCount_pos {m : LaneSet} (h : m ≠ 0) : 0 < laneCount m :=
  countBits_pos m.isLt fun h0 => h (BitVec.eq_of_toNat_eq h0)

/-- Records of eight registers over the active lanes take no more than one access may (12 R270). -/
theorem bodyBytes_regRecs_eight {s : State} (h : s.co.st.mask ≠ 0) (d : Nat) :
    bodyBytes (regRecs s.co d 8) + 16 ≤ s.recordRoom := by
  have hone (r : Nat) : bodyBytes (laneRecs s.co r s.co.st.mask) ≤ 20 + 4 * laneCount s.co.st.mask := by
    rw [laneRecs, if_neg h]
    simp only [bodyBytes, RecBody.size]
    omega
  have hall := bodyBytes_flatMap _ _ hone (spanNat d 8)
  have hpos := laneCount_pos h
  simp only [spanNat, List.length_map, List.length_range] at hall
  unfold regRecs State.recordRoom spanNat
  omega

theorem zrd_good (o : UeForm) (s : State) : MakesGood (.zrd o) s (engines s (.zrd o)) := by
  refine iteInduction (motive := MakesGood _ s) (fun hm => ?_) fun hm => ?_
  · exact makesGood_plain (.inl rfl) (Anchored.refl s) (by decide)
      fun hpair => issuesTo_seq (exec_zrd s o) (by simp only [hpair, if_pos hm])
  · refine makesGood_result (regRecs s.co (o.d.toNat % 128) 8) (Anchored.refl s) (bodyBytes_regRecs_eight hm _)
      fun ⟨hpair, ht⟩ => issuesTo_seq (exec_zrd s o) ?_
    simp only [hpair, if_neg hm]
    exact withTicket_of (cls := .zr) ht _

/-- No byte of a run of rows lies beyond the scratchpad or the block's part of it (16 R342). -/
theorem rows_inside {dst pitch row p : Nat}
    (h : ∀ i < 96, ∀ a ∈ spanNat (dst + i * pitch) row, a ≤ 0x1FFFFF ∧ a < p) :
    ((List.range 96).findSome? fun i =>
      (spanNat (dst + i * pitch) row).find? fun a => 0x1FFFFF < a || p ≤ a) = none := by
  rw [List.findSome?_eq_none_iff]
  intro i hi
  rw [List.find?_eq_none]
  intro a ha
  obtain ⟨hmax, hp⟩ := h i (List.mem_range.mp hi) a ha
  simp [Nat.not_lt.mpr hmax, Nat.not_le.mpr hp]

theorem zst_good (o : UxForm) (s : State) : MakesGood (.zst o) s (engines s (.zst o)) := by
  refine makesGood_plain (.inl rfl) ⟨rfl⟩ (by decide)
    fun ⟨hpair, hdst, hdst16, hpitch, hrows, hdsg⟩ => issuesTo_seq (exec_zst s o) ?_
  have hform : ((s.dsgOf o.bit19 o.b.toNat).bind fun d => dsgFault d 16) = none :=
    Option.bind_eq_none_iff.mpr hdsg
  simp only [hpair, if_neg (Nat.not_lt.mpr hdst), rows_inside hrows, hdst16, Nat.not_lt.mpr hpitch, hform,
    bne_self_eq_false, decide_false, Bool.or_self, Bool.false_eq_true, if_false]
  rfl

/-- A half-tile pair is to be had: fewer than sixteen stand, and a tile that maps none may map one (15 R328). -/
theorem tiles_free {held mapped : Nat} {src : Option Nat} (hheld : held < 16) (hmapped : src = none → mapped < 12) :
    ¬ (decide (16 ≤ held) || (src.isNone && decide (12 ≤ mapped))) = true := by
  cases src with
  | none => simp [hheld, hmapped rfl]
  | some k => simp [hheld]

theorem mma_good (o : UeForm) (s : State) : MakesGood (.mma o) s (engines s (.mma o)) := by
  simp only [engines]
  split
  · exact makesGood_none _ s
  · next fol hfol =>
    obtain ⟨gs, ds, ht⟩ := leave_granted s (!s.co.chainOpen o.d.toNat)
      (mmaClass (FmtBlock.ofWords ((spanNat o.b.toNat 4).map s.readU)).afmt)
    refine makesGood_plain (.inl rfl) ?_ (by decide)
      fun ⟨hpair, hfmt, hrange, hleave, hqueue, htiles, hmapped⟩ => issuesTo_seq (exec_mma s o) ?_
    · rw [ht]
      refine (Anchored.granted s gs ds).trans ?_
      exact (((Anchored.gcTiles _ _).trans (Anchored.useGrant _ _ _ _ _)).trans (Anchored.modPair _ _ _)).trans
        (Anchored.setTile _ _)
    · simp only [hpair, hfol, hfmt, hrange]
      rw [withLeave_of hleave]
      refine (if_neg (Nat.not_le.mpr hqueue)).trans ((if_neg (tiles_free htiles hmapped)).trans ?_)
      rw [ht]
      rfl

theorem engines_good (i : Instr) (s : State) : MakesGood i s (engines s i) := by
  cases i with
  | laychk o => exact laychk_good o s
  | leave o => exact leave_good o s
  | znew o => exact znew_good o s
  | zclr o => exact zclr_good o s
  | zrd o => exact zrd_good o s
  | zst o => exact zst_good o s
  | mma o => exact mma_good o s
  | _ => exact makesGood_none _ s

/-- None of them commits before it completes. -/
theorem copies_base {i : Instr} {s : State} {c : Claim} (h : copies s i = some c) : c.base = s := by
  unfold copies at h
  split at h <;> cases h
  rfl

theorem engines_base {i : Instr} {s : State} {c : Claim} (h : engines s i = some c) : c.base = s := by
  cases i with
  | laychk o | znew o | zst o =>
    cases h
    rfl
  | leave o | zclr o | zrd o | mma o =>
    simp only [engines] at h
    split at h <;> cases h <;> rfl
  | _ => cases h

/-- Settles O42: each entry of the two tables is what the instruction's rules do. -/
theorem engineResults : Obligations.EngineResults := by
  unfold Obligations.EngineResults
  intro i s c htable hn hc hr
  have hgood : MakesGood i s (some c) := by
    obtain h | h := htable
    · exact h ▸ copies_good i s
    · exact h ▸ engines_good i s
  have hbase : c.base = s := htable.elim copies_base engines_base
  obtain ⟨e, he⟩ := hgood c rfl hn
  exact he.completes hc (hbase.symm ▸ hr)

/-! ### What reads leave (10 R236, 12 R269) -/

/-- `t` is `s` with other cores, dies, memory and packets: what filling caches and taking lines back may change. -/
structure OnlyFills (s t : State) : Prop where
  eq : t = { s with cores := t.cores, dies := t.dies, mem := t.mem, packets := t.packets }

theorem OnlyFills.refl (s : State) : OnlyFills s s := ⟨rfl⟩

theorem OnlyFills.trans {s t u : State} (h : OnlyFills s t) (k : OnlyFills t u) : OnlyFills s u :=
  ⟨by rw [k.eq, h.eq]⟩

theorem OnlyMem.onlyFills {s t : State} (h : OnlyMem s t) : OnlyFills s t := ⟨by rw [h.eq]⟩

theorem OnlyFills.missRdc (s : State) (die line : Nat) : OnlyFills s (s.missRdc die line) := by
  unfold State.missRdc
  split
  · exact ⟨rfl⟩
  · exact OnlyFills.refl s

theorem OnlyFills.missLine (s : State) (k line : Nat) (read own upd : Bool) :
    OnlyFills s (s.missLine k line read own upd) := by
  unfold State.missLine
  dsimp only
  split
  · refine OnlyFills.trans ?_ (OnlyFills.missRdc _ _ _)
    exact ⟨rfl⟩
  · exact ⟨rfl⟩

theorem loadWord_state (s : State) (k wa : Nat) : (s.loadWord k wa).2 = s.takeBack (wa / 32) := by
  unfold State.loadWord
  dsimp only
  split
  · rfl
  · split
    · rfl
    · split <;> rfl

theorem OnlyFills.loadBytes (s : State) (k : Nat) (pas : List Nat) : OnlyFills s (s.loadBytes k pas).2 := by
  induction pas generalizing s with
  | nil => exact OnlyFills.refl s
  | cons pa rest ih =>
    have hword : OnlyFills s (s.loadWord k (pa / 4)).2 := loadWord_state s k _ ▸ (OnlyMem.takeBack s _).onlyFills
    unfold State.loadBytes
    dsimp only
    split
    · exact (hword.trans (OnlyFills.missLine _ _ _ _ _ _)).trans (ih _)
    · exact hword.trans (ih _)

theorem OnlyFills.loadPlace (s : State) (p : Place) : OnlyFills s (s.loadPlace p).2 := by
  cases p with
  | mem pas => exact OnlyFills.loadBytes s _ pas
  | sp k offs => exact OnlyFills.refl s
  | fab va => exact OnlyFills.refl s

theorem OnlyFills.readPlaces (s : State) (ans : List (Nat × List Byte)) (ps : List (LaneAcc × Place)) :
    OnlyFills s (s.readPlaces ans ps).2 := by
  induction ps generalizing s with
  | nil => exact OnlyFills.refl s
  | cons p rest ih =>
    obtain ⟨x, p⟩ := p
    cases p with
    | fab va => exact ih s
    | mem pas => exact (OnlyFills.loadPlace s (.mem pas)).trans (ih _)
    | sp k offs => exact (OnlyFills.loadPlace s (.sp k offs)).trans (ih _)

/-! ### `COLL` (15 R333, 16 R354, R355) -/

theorem Anchored.toFw (s : State) (r : FwRec) : Anchored s (s.toFw r) := ⟨rfl⟩

theorem Anchored.addReport (s : State) (strand : Nat) (r : Report) :
    Anchored s (s.setCo fun c => c.modStrand strand fun t => { t with reports := t.reports ++ [r] }) := by
  refine ⟨?_⟩
  by_cases h : s.co.st.id = strand <;> simp [State.anchor, Cohort.modStrand, Cohort.mapStrands, h]

theorem Anchored.report (s : State) (cohort strand sub : Nat) (addr : DWord) :
    Anchored s (s.report cohort strand sub addr) := by
  unfold State.report
  split
  · exact Anchored.toFw s _
  · split
    · exact Anchored.toFw s _
    · exact Anchored.modCohort s cohort (Anchored.addReport s _ _)

theorem Anchored.dropPlan (s : State) (p : Plan) : Anchored s (s.dropPlan p) :=
  (Anchored.setPlans s _).trans (Anchored.foldl _ (fun s (j : RankIn) => Anchored.dropGrants s j.cohort _) _ _)

theorem Anchored.abortPlan (s : State) (p : Plan) (sub : Nat) (addr : DWord) : Anchored s (s.abortPlan p sub addr) :=
  (Anchored.dropPlan s p).trans (Anchored.foldl _ (fun s (j : RankIn) => Anchored.report s j.cohort _ _ _) _ _)

theorem Anchored.settlePlan (s : State) (va : DWord) : Anchored s (s.settlePlan va) := by
  unfold State.settlePlan
  split
  · exact Anchored.refl s
  · dsimp only
    split
    · exact Anchored.dropPlan s _
    · exact Anchored.refl s

theorem Anchored.joinPlan (s : State) (va : DWord) (header : List Word) (rank : Nat) :
    Anchored s (s.joinPlan va header rank) := by
  unfold State.joinPlan
  dsimp only
  split
  · exact Anchored.setPlans s _
  · split
    · exact (Anchored.setPlans s _).trans (Anchored.abortPlan _ _ _ _)
    · exact Anchored.setPlans s _

/-- A read of one place brings the bytes of one lane. -/
theorem readPlaces_one (s : State) (ans : List (Nat × List Byte)) (x : LaneAcc) (p : Place) :
    s.readPlaces ans [(x, p)] = ([(x.lane, ((s.readPlaces ans [(x, p)]).1.map (·.2)).headD [])],
      (s.readPlaces ans [(x, p)]).2) := by
  cases p <;> rfl

/-- Settles O43: both reads find their places, header and entry pass, and with leave to hand the rank joins. -/
theorem collResults : Obligations.CollResults := by
  unfold Obligations.CollResults
  intro o s p q va rk spec a r header x e post hc hplan hheader hrank hentry hdevice hdie hjoined hleave hmse hroom
  have hx : OnlyFills s x.2 := (OnlyFills.readPlaces s [] _).trans (OnlyFills.readPlaces r.2 [] _)
  obtain ⟨gs, ds, ht⟩ := askLeave_granted x.2 4
  have hreads : Anchored s x.2 := (Anchored.readPlaces s [] _).trans (Anchored.readPlaces r.2 [] _)
  have hanchor : Anchored s post :=
    (((hreads.trans (ht ▸ Anchored.granted x.2 gs ds)).trans (Anchored.useGrant _ _ _ _ _)).trans
      (Anchored.joinPlan _ _ _ _)).trans (Anchored.settlePlan _ _)
  have hvalid : (e.device != x.2.fabric.device || e.die != dieOf x.2.co.core
      || x.2.plans.any fun p => p.addr == va && p.joined.any (·.rank == rk)) = false := by
    rw [hx.eq]
    simp only [hdevice, hdie, hjoined, bne_self_eq_false, Bool.or_self]
  have hissue : IssuesTo (.coll o) s .seq (.done { post, hard := true }) := by
    refine issuesTo_seq (exec_coll s o) ((withAccess_of hplan _).trans ?_)
    dsimp only
    rw [readPlaces_one]
    dsimp only
    split
    · next hbad => exact nomatch hbad.symm.trans hheader
    · refine (if_neg (Nat.not_le.mpr hrank)).trans ((withAccess_of hentry _).trans ?_)
      rw [readPlaces_one]
      refine (if_neg (Bool.eq_false_iff.mp hvalid)).trans ((withLeave_of (fun _ => hleave) _).trans ?_)
      exact guardMse_of (hreads.core ▸ hmse)
  have hf : Fulfils (.coll o) s { base := s, post, hard := true } { post, hard := true } :=
    ⟨.inl rfl, rfl, hanchor, Effect.stands_plain rfl rfl, rfl, by simp [bodyBytes], hissue⟩
  exact hf.completes hc hroom

end Sys2Proof.Machine

/-! The crossbar and the links (21 R415, R420-R425, 22 R444). -/

namespace Sys2Proof.Machine

open Sys2Proof.Claims

/-! ### Links that are up -/

theorem State.upLink_cases {s : State} {k : Nat} {l : Link} (h : s.upLink k = some l) :
    s.fabric.links[k]? = some l ∧ l.down = false := by
  unfold State.upLink at h
  split at h
  · next m hm =>
    split at h
    · cases h
    · next hup =>
      obtain rfl := Option.some.inj h
      exact ⟨hm, Bool.eq_false_iff.mpr hup⟩
  · cases h

/-- A link replaced. -/
def State.setLink (s : State) (k : Nat) (l : Link) : State :=
  { s with fabric := { s.fabric with links := s.fabric.links.set k l } }

/-- A change of a link that is up is made. -/
theorem State.modLink_of_up {s : State} {k : Nat} {l : Link} (h : s.upLink k = some l) (f : Link → Link) :
    s.modLink k f = s.setLink k (f l) := by
  obtain ⟨hl, hup⟩ := State.upLink_cases h
  have hlinks : modifyAt (fun l => if l.down then l else f l) s.fabric.links k = s.fabric.links.set k (f l) := by
    rw [modifyAt_eq_modify]
    apply List.ext_getElem?
    intro j
    rw [List.getElem?_modify, List.getElem?_set]
    by_cases hj : k = j
    · subst hj
      obtain ⟨hlt, hget⟩ := List.getElem?_eq_some_iff.mp hl
      simp [hlt, hget, hup]
    · simp [hj]
  rw [State.modLink, hlinks]
  rfl

/-- An event of the table `linkEvents` that changes a link that is up is due when its need holds, and makes the change. -/
theorem next_of_upLink {i : Instr} {s : State} {k : Nat} {l : Link} {need : Link → Prop} {f g : Link → Link} {d : Due}
    (hl : s.upLink k = some l) (hd : onLink s k need f = some d) (hn : d.need)
    (h : need l → exec i s = .next (s.modLink k g) ∧ g l = f l) : ∃ t, exec i s = .next t ∧ d.post t := by
  obtain ⟨m, hm, hd⟩ := Option.bind_eq_some_iff.mp hd
  obtain rfl : m = l := Option.some.inj (hm.symm.trans hl)
  refine next_of_gives hd hn fun hneed => ?_
  obtain ⟨he, hfg⟩ := h hneed
  rw [he, State.modLink_of_up hl, hfg]
  rfl

theorem next_of_onLink {i : Instr} {s : State} {k : Nat} {need : Link → Prop} {f g : Link → Link} {d : Due}
    (hd : onLink s k need f = some d) (hn : d.need)
    (h : ∀ l, s.upLink k = some l → need l → exec i s = .next (s.modLink k g) ∧ g l = f l) :
    ∃ t, exec i s = .next t ∧ d.post t := by
  obtain ⟨l, hl, -⟩ := Option.bind_eq_some_iff.mp hd
  exact next_of_upLink hl hd hn (h l hl)

/-! ### The crossbar (21 R415) -/

theorem crossbarPacket_answers (ch : Nat) (good : Bool) (s : State) : Answers linkEvents (.crossbarPacket ch good) s := by
  intro d hd hn
  cases good with
  | true => exact next_of_gives hd hn fun _ => exec_crossbarPacket s ch true
  | false => exact next_of_gives hd hn fun _ => exec_crossbarPacket s ch false

/-! ### Flits received (21 R420, R422) -/

/-- The failed replays begin anew when an ACK takes SEQs out of the replay buffer, which is when it stands there. -/
theorem fails_ackReplay (ack : BitVec 16) (l : List (BitVec 16)) (n : Nat) :
    (if (ackReplay ack l).length = l.length then n else 0) = if l.contains ack then 0 else n := by
  unfold ackReplay
  cases h : l.contains ack with
  | false => simp
  | true =>
    have hpos : 0 < l.length := List.length_pos_of_mem (List.contains_iff_mem.mp h)
    have hle : (l.dropWhile (· != ack)).length ≤ l.length := (List.dropWhile_sublist _).length_le
    simp only [if_true, List.length_drop]
    exact if_neg (by omega)

theorem flitReceive_answers (k : Nat) (f : RxFlit) (s : State) : Answers linkEvents (.flitReceive k f) s := by
  intro d hd hn
  simp only [linkEvents] at hd
  split at hd
  · next hgood =>
    obtain ⟨htag, hfec⟩ := Bool.and_eq_true_iff.mp hgood
    obtain ⟨l, hl, hd⟩ := Option.bind_eq_some_iff.mp hd
    split at hd
    · next hseq =>
      refine next_of_upLink hl hd hn fun _ => ⟨exec_flitReceive s k f, ?_⟩
      rw [if_neg (by simp [htag, hfec, hseq])]
      dsimp only
      rw [fails_ackReplay]
      rfl
    · next hseq =>
      refine next_of_upLink hl hd hn fun _ => ⟨exec_flitReceive s k f, if_pos ?_⟩
      rw [bne_iff_ne.mpr hseq, Bool.or_true]
  · next hbad =>
    refine next_of_onLink hd hn fun l _ _ => ⟨exec_flitReceive s k f, if_pos ?_⟩
    rw [← Bool.not_and, Bool.eq_false_iff.mpr hbad]
    rfl

/-! ### Replays and masks (21 R422-R424) -/

theorem nak_answers (k : Nat) (seq : BitVec 16) (s : State) : Answers linkEvents (.nak k seq) s := by
  intro d hd hn
  obtain ⟨l, hl, hd⟩ := Option.bind_eq_some_iff.mp hd
  refine next_of_gives hd hn fun hseq => ?_
  have hreplay : l.tx.replay.contains seq = true := List.contains_iff_mem.mpr hseq
  simp only [exec_nak, execNak, hl, hreplay, State.modLink_of_up hl, beq_iff_eq, Bool.not_true, Bool.false_eq_true,
    if_false, ← Nat.not_le (b := 16), ite_not]
  rfl

theorem wreq_answers (k : Nat) (mask : Byte) (s : State) : Answers linkEvents (.wreq k mask) s := by
  intro d hd hn
  simp only [linkEvents] at hd
  split at hd
  · next hmask =>
    obtain ⟨l, hl, hd⟩ := Option.bind_eq_some_iff.mp hd
    rw [exec_wreq, execWreq, if_pos hmask, hl]
    exact next_gives hd
  · next hmask => exact next_of_onLink hd hn fun l _ _ => ⟨(exec_wreq s k mask).trans (if_neg hmask), rfl⟩

theorem wchg_answers (k : Nat) (mask : Byte) (s : State) : Answers linkEvents (.wchg k mask) s := by
  intro d hd hn
  exact next_of_onLink hd hn fun l _ _ => ⟨exec_wchg s k mask, rfl⟩

theorem wack_answers (k : Nat) (seq : BitVec 16) (s : State) : Answers linkEvents (.wack k seq) s := by
  intro d hd hn
  refine next_of_onLink hd hn fun l _ ⟨m, hm⟩ => ⟨exec_wack s k seq, ?_⟩
  simp only [hm, bne_self_eq_false, Bool.false_eq_true, if_false]
  cases l.tx.wants with
  | none => rfl
  | some w => rfl

/-! ### The bits of wavelengths (21 R423, R425) -/

theorem waveBit_of_lt {wave : Nat} (h : wave < 8) : waveBit wave = 1#8 <<< wave := if_pos h

theorem getLsbD_waveBit {wave : Nat} (h : wave < 8) (j : Nat) : (waveBit wave).getLsbD j = decide (j = wave) := by
  rw [waveBit_of_lt h, BitVec.getLsbD_shiftLeft, BitVec.getLsbD_one]
  by_cases hj : j = wave
  · simp [hj, h]
  · simp only [hj, decide_false]
    by_cases hlt : j < wave
    · simp [hlt]
    · simp [show j - wave ≠ 0 by omega]

/-- A set shares no bit with a wavelength's when it does not hold the wavelength. -/
theorem waveBit_and_eq_zero {wave : Nat} (h : wave < 8) (m : Byte) : waveBit wave &&& m = 0 ↔ m.getLsbD wave = false := by
  constructor
  · intro h0
    have hbit : (waveBit wave &&& m).getLsbD wave = false := by rw [h0]; exact BitVec.getLsbD_zero
    simpa [getLsbD_waveBit h] using hbit
  · intro hm
    apply BitVec.eq_of_getLsbD_eq
    intro j _
    rw [BitVec.getLsbD_and, getLsbD_waveBit h]
    by_cases hj : j = wave
    · simp [hj, hm]
    · simp [hj]

/-- A receiver's set of bad wavelengths replaced. -/
def Link.withBad (bad : Byte) (l : Link) : Link := { l with rx := { l.rx with bad := bad } }

/-- A wavelength in service whose window exceeds the threshold is marked bad: with none left the link goes down, else the
receiver asks for the good ones (21 R425). -/
theorem execRetrainWindow_marks {k wave count : Nat} {s : State} {l : Link} (hl : s.upLink k = some l) (hwave : wave < 8)
    (hcount : l.rx.thresh < count) (hgood : l.rx.bad.getLsbD wave = false) {bad : Byte}
    (hb : bad = l.rx.bad ||| (1#8 <<< wave)) : execRetrainWindow k wave count s =
      if bad = 0xFF then .next ((s.modLink k (Link.withBad bad)).linkDown k)
      else .next (s.modLink k fun m => (m.withBad bad).send (.wreq (~~~bad))) := by
  have hin : ¬ waveBit wave &&& ~~~l.rx.bad = 0 := by
    rw [waveBit_and_eq_zero hwave, BitVec.getLsbD_not, hgood]
    simp [hwave]
  rw [execRetrainWindow, hl]
  dsimp only
  rw [if_neg (by simpa [hcount] using hin), waveBit_of_lt hwave, ← hb]
  rfl

theorem retrainWindow_answers (k wave count : Nat) (s : State) : Answers linkEvents (.retrainWindow k wave count) s := by
  intro d hd hn
  obtain ⟨l, hl, hd⟩ := Option.bind_eq_some_iff.mp hd
  dsimp only at hd
  split at hd
  · next hnone =>
    refine next_of_gives hd hn fun ⟨hwave, hcount, hgood⟩ => ?_
    rw [exec_retrainWindow, execRetrainWindow_marks hl hwave hcount hgood rfl, if_pos hnone, State.modLink_of_up hl]
    rfl
  · next hsome =>
    exact next_of_upLink hl hd hn fun ⟨hwave, hcount, hgood⟩ => ⟨(exec_retrainWindow s k wave count).trans
      ((execRetrainWindow_marks hl hwave hcount hgood rfl).trans (if_neg hsome)), rfl⟩

theorem trainingComplete_answers (k wave count : Nat) (s : State) :
    Answers linkEvents (.trainingComplete k wave count) s := by
  intro d hd hn
  refine next_of_onLink hd hn fun l _ ⟨hwave, htrain, hcount⟩ => ⟨exec_trainingComplete s k wave count, ?_⟩
  have hin : ¬ l.rx.training &&& waveBit wave = 0 := by
    rw [BitVec.and_comm, waveBit_and_eq_zero hwave, htrain]
    exact Bool.noConfusion
  rw [if_neg (by simpa [hcount] using hin), waveBit_of_lt hwave]
  rfl

theorem widthPolicy_answers (k : Nat) (sense : WidthSense) (s : State) : Answers linkEvents (.widthPolicy k sense) s := by
  intro d hd hn
  refine next_of_onLink hd hn fun l _ hneed => ⟨exec_widthPolicy s k sense, ?_⟩
  dsimp only
  split
  · rfl
  · next hm =>
    obtain ⟨hpending, hlit⟩ := hneed.resolve_left hm
    rw [if_neg (by simp [hpending, hlit])]
    rfl

theorem linkRekey_answers (k : Nat) (s : State) : Answers linkEvents (.linkRekey k) s := by
  intro d hd hn
  refine next_of_onLink hd hn fun l _ hused => ⟨exec_linkRekey s k, ?_⟩
  rw [if_neg (by simp; omega)]
  rfl

theorem relight_answers (k wave : Nat) (s : State) : Answers linkEvents (.relight k wave) s := by
  intro d hd hn
  refine next_of_onLink hd hn fun l _ ⟨hwave, hactive, hbad⟩ => ⟨exec_relight s k wave, ?_⟩
  have hdark : waveBit wave &&& (l.tx.active ||| l.tx.bad) = 0 := by
    rw [waveBit_and_eq_zero hwave, BitVec.getLsbD_or, hactive, hbad]
    rfl
  rw [if_pos hdark, waveBit_of_lt hwave]

end Sys2Proof.Machine

/-! The theorem of the table has the table's name, so it stands in a namespace of its own. -/

namespace Sys2Proof.Machine.LinkMoves

/-- Settles O51: each event of the table has a lemma `…_answers` above, and no other instruction has an entry. -/
theorem linkEvents : Obligations.LinkEvents := by
  unfold Obligations.LinkEvents
  intro i s d hd hn
  cases i with
  | crossbarPacket => exact crossbarPacket_answers _ _ _ d hd hn
  | flitReceive => exact flitReceive_answers _ _ _ d hd hn
  | nak => exact nak_answers _ _ _ d hd hn
  | wreq => exact wreq_answers _ _ _ d hd hn
  | wchg => exact wchg_answers _ _ _ d hd hn
  | wack => exact wack_answers _ _ _ d hd hn
  | retrainWindow => exact retrainWindow_answers _ _ _ _ d hd hn
  | trainingComplete => exact trainingComplete_answers _ _ _ _ d hd hn
  | widthPolicy => exact widthPolicy_answers _ _ _ d hd hn
  | linkRekey => exact linkRekey_answers _ _ d hd hn
  | relight => exact relight_answers _ _ _ d hd hn
  | _ => cases hd

end Sys2Proof.Machine.LinkMoves

/-! The debug agent, the trace unit and the snapshot triggers (20 R398-R409). -/

namespace Sys2Proof.Machine

open Sys2Proof.Claims

/-! ### Halts (20 R398, R399) -/

/-- A halt of the focused cohort, and its record, before the packet that it puts into a trace. -/
def State.halted (s : State) (source : Nat) (tag : Word) : State :=
  (s.setCo fun c => { c with halt := some (.debug source tag c.st.id), haltReq := none, stepping := none }).toAgent
    (.halt source tag s.co.core s.co.blockIdx s.co.cid s.co.st.id (s.co.st.pc.setWidth 64) s.co.st.icnt)

theorem haltDebug_eq (s : State) (source : Nat) (tag : Word) :
    s.haltDebug source tag = (s.halted source tag).trace 12 source [] := rfl

theorem haltDebug_untraced {s : State} (h : s.co.traced = false) (source : Nat) (tag : Word) :
    s.haltDebug source tag = s.halted source tag :=
  (haltDebug_eq s source tag).trans (trace_untraced (s := s.halted source tag) h 12 source [])

theorem haltDebug_haltedNow (s : State) : haltedNow s (s.haltDebug 0 0) := by
  have h := (OnlyTrace.trace (s.halted 0 0) 12 0 []).eq
  rw [← haltDebug_eq] at h
  exact ⟨congrArg State.co h, congrArg State.dbg h⟩

/-- No strand of a list is free when each waits. -/
theorem any_free_eq_not (l : List Strand) : l.any Strand.free = !l.all (·.park.isSome) := by
  rw [List.not_all_eq_any_not]
  exact congrArg l.any (funext fun t => (Option.not_isSome t.park).symm)

theorem haltRequest_answers (co : Nat) (s : State) : Answers debugEvents (.haltRequest co) s := by
  intro d hd hn
  obtain ⟨c, hc, hd⟩ := Option.bind_eq_some_iff.mp hd
  have hdue : c.halt = none ∧ c.ending = false ∧ s.host.debugOpen = true → exec (.haltRequest co) s =
      if c.saved.isNone && !(c.dir && !c.tm) && c.strands.all (·.park.isSome) then
        .next ((s.focus co c.lowest).haltDebug 0 0)
      else .next (s.modCohort co fun c => { c with haltReq := some 0 }) := by
    rintro ⟨hhalt, hending, hopen⟩
    simp only [exec_haltRequest, execHaltRequest, hc, hhalt, hending, hopen, any_free_eq_not, Option.isSome_none,
      Bool.not_true, Bool.not_not, Bool.or_self, Bool.false_eq_true, if_false]
  split at hd
  · next hnow =>
    obtain rfl := Option.some.inj hd
    exact ⟨_, (hdue hn).trans (if_pos hnow), haltDebug_haltedNow _⟩
  · next hlater => exact next_of_gives hd hn fun hneed => (hdue hneed).trans (if_neg hlater)

/-! ### The halted strand (20 R400-R402) -/

theorem programBuffer_answers (co : Nat) (words : List Word) (s : State) :
    Answers debugEvents (.programBuffer co words) s := by
  intro d hd hn
  obtain ⟨c, hc, hd⟩ := Option.bind_eq_some_iff.mp hd
  obtain ⟨id, hid, hd⟩ := Option.bind_eq_some_iff.mp hd
  refine next_of_gives hd hn fun ⟨hbuffer, hopen, hwords, hlen, hsaved⟩ => ?_
  simp only [exec_programBuffer, execProgramBuffer, hc, hid, hbuffer, hopen, hsaved, Nat.not_lt.mpr hlen,
    List.isEmpty_eq_false_iff.mpr hwords, Option.isSome_none, Bool.not_true, decide_false, Bool.or_self,
    Bool.false_eq_true, if_false]
  rfl

theorem dargWrite_answers (value : DWord) (s : State) : Answers debugEvents (.dargWrite value) s := by
  intro d hd hn
  exact next_of_gives hd hn fun hopen => (exec_dargWrite s value).trans (if_pos hopen)

theorem resume_answers (co : Nat) (s : State) : Answers debugEvents (.resume co) s := by
  intro d hd hn
  obtain ⟨id, hid, hd⟩ := Option.bind_eq_some_iff.mp hd
  refine next_of_gives hd hn fun _ => ?_
  rw [exec_resume, execResume, hid]
  rfl

theorem singleStep_answers (co : Nat) (s : State) : Answers debugEvents (.singleStep co) s := by
  intro d hd hn
  obtain ⟨id, hid, hd⟩ := Option.bind_eq_some_iff.mp hd
  refine next_of_gives hd hn fun _ => ?_
  rw [exec_singleStep, execSingleStep, hid]
  rfl

theorem resumeAtPc_answers (co : Nat) (pc : DWord) (s : State) : Answers debugEvents (.resumeAtPc co pc) s := by
  intro d hd hn
  obtain ⟨id, hid, hd⟩ := Option.bind_eq_some_iff.mp hd
  refine next_of_gives hd hn fun harr => ?_
  rw [exec_resumeAtPc, execResumeAtPc, hid]
  dsimp only
  rw [harr]
  rfl

/-! ### The trace unit (20 R406-R408) -/

/-- A packet with its word 0 worked out. -/
theorem packet_of_word {kind strand spec n : Nat} {extra : List Word}
    (h : kind * 2 ^ 28 + strand * 2 ^ 26 + extra.length * 2 ^ 22 + spec % 2 ^ 22 = n) :
    packet kind strand spec extra = BitVec.ofNat 32 n :: extra := by
  rw [packet, h]

theorem length_dwordWords (x : DWord) : (dwordWords x).length = 2 := rfl

theorem traceTimePacket_answers (core : Nat) (s : State) : Answers debugEvents (.traceTimePacket core) s := by
  intro d hd hn
  refine next_of_gives hd hn fun hactive => (exec_traceTimePacket s core).trans ((if_pos hactive).trans ?_)
  rw [packet_of_word (n := 9 * 2 ^ 28 + 2 * 2 ^ 22) (by rw [length_dwordWords]; omega)]

theorem traceSummary_answers (co : Nat) (s : State) : Answers debugEvents (.traceSummary co) s := by
  intro d hd hn
  obtain ⟨c, hc, hd⟩ := Option.bind_eq_some_iff.mp hd
  refine next_of_gives hd hn fun ⟨htraced, hactive⟩ => ?_
  rw [exec_traceSummary, execTraceSummary, hc]
  dsimp only
  rw [State.summary, htraced, hactive]
  dsimp only
  rw [packet_of_word (n := 10 * 2 ^ 28 + 4 * 2 ^ 22)
    (by rw [List.length_append, length_dwordWords, List.length_cons, List.length_singleton]; omega)]
  rfl

theorem tracedOn_modCore (s : State) (k : Nat) (f : Core → Core) (core : Nat) :
    (s.modCore k f).tracedOn core = s.tracedOn core := rfl

/-- A packet leaves every cohort as it is, its words put or lost. -/
theorem tracedOn_tracePut (s : State) (k : Nat) (ws : List Word) (core : Nat) :
    (s.tracePut k ws).tracedOn core = s.tracedOn core := by
  unfold State.tracePut
  dsimp only
  split <;> exact tracedOn_modCore _ _ _ _

theorem packet_overflow (n : Nat) : packet 11 0 n [] = [BitVec.ofNat 32 (11 * 2 ^ 28 + n % 2 ^ 22)] :=
  packet_of_word (by rw [List.length_nil]; omega)

theorem packet_sync (id : Nat) (pc icnt : DWord) : packet 1 id 0 (dwordWords pc ++ dwordWords icnt)
    = BitVec.ofNat 32 (2 ^ 28 + id * 2 ^ 26 + 4 * 2 ^ 22) :: (dwordWords pc ++ dwordWords icnt) :=
  packet_of_word (by rw [List.length_append, length_dwordWords, length_dwordWords]; omega)

theorem traceRoomReturn_answers (core : Nat) (s : State) : Answers debugEvents (.traceRoomReturn core) s := by
  intro d hd hn
  unfold debugEvents at hd
  rw [exec_traceRoomReturn, execTraceRoomReturn]
  dsimp only at hd ⊢
  split at hd
  · next hnone =>
    rw [if_pos hnone]
    exact next_gives hd
  · next hlost =>
    rw [if_neg hlost, tracedOn_tracePut, tracedOn_modCore, packet_overflow]
    split at hd
    · next hnone =>
      rw [hnone]
      exact next_gives hd
    · next c hc =>
      rw [hc]
      dsimp only
      rw [packet_sync]
      exact next_gives hd

/-! ### Snapshots (20 R409) -/

theorem trigger_eq (s : State) (source : Nat) : s.trigger source 0 = triggered s source := by
  unfold State.trigger triggered
  congr 1
  refine congrArg (fun f => s.blocks.map f) (funext fun b => ?_)
  cases b.armed <;> cases b.latched <;> rfl

theorem snapshotAgentTrigger_answers (s : State) : Answers debugEvents .snapshotAgentTrigger s := by
  intro d hd hn
  exact next_of_gives hd hn fun _ => (exec_snapshotAgentTrigger s).trans (congrArg _ (trigger_eq s 0))

theorem snapshotInput_answers (s : State) : Answers debugEvents .snapshotInput s := by
  intro d hd hn
  exact next_of_gives hd hn fun _ => (exec_snapshotInput s).trans (congrArg _ (trigger_eq s 3))

theorem snapshotArm_answers (block : Nat) (s : State) : Answers debugEvents (.snapshotArm block) s := by
  intro d hd hn
  exact next_of_gives hd hn fun _ => exec_snapshotArm s block

end Sys2Proof.Machine

/-! The theorem of the table has the table's name, so it stands in a namespace of its own. -/

namespace Sys2Proof.Machine.DebugMoves

/-- Settles O50: each event of the table has a lemma `…_answers` above, and no other instruction has an entry. -/
theorem debugEvents : Obligations.DebugEvents := by
  unfold Obligations.DebugEvents
  intro i s d hd hn
  cases i with
  | haltRequest => exact haltRequest_answers _ _ d hd hn
  | programBuffer => exact programBuffer_answers _ _ _ d hd hn
  | dargWrite => exact dargWrite_answers _ _ d hd hn
  | resume => exact resume_answers _ _ d hd hn
  | singleStep => exact singleStep_answers _ _ d hd hn
  | resumeAtPc => exact resumeAtPc_answers _ _ _ d hd hn
  | traceTimePacket => exact traceTimePacket_answers _ _ d hd hn
  | traceSummary => exact traceSummary_answers _ _ d hd hn
  | traceRoomReturn => exact traceRoomReturn_answers _ _ d hd hn
  | snapshotAgentTrigger => exact snapshotAgentTrigger_answers _ d hd hn
  | snapshotInput => exact snapshotInput_answers _ d hd hn
  | snapshotArm => exact snapshotArm_answers _ _ d hd hn
  | _ => cases hd

end Sys2Proof.Machine.DebugMoves

/-! Breakpoints and the saving of a cohort (19 R388, R389, 20 R403). -/

namespace Sys2Proof.Machine

open Sys2Proof.Claims

/-! ### `DBRK` (20 R403) -/

/-- An instruction leaves its cohort under full trace when its effect does. -/
theorem Completes.traced {s t post : State} {next : DWord} {hard : Bool} (h : Completes s t post next hard) :
    t.co.traced = post.co.traced := by
  have hregs : t.co.regs.traced = post.co.regs.traced := by rw [h.regs]
  exact hregs

/-- Settles O35: the `DBRK` completes without an effect, and the halt of a cohort that is not under full trace puts no
packet. -/
theorem breakHalts : Obligations.BreakHalts := by
  unfold Obligations.BreakHalts
  intro o s hc hr htraced hopen hbreaks
  obtain ⟨t, ht, hcomp⟩ := tryComplete_completes (e := { post := s }) (next := s.after (.dbrk o))
    ((Anchored.refl s).fresh rfl) hr (Effect.bytes_le_of_noFlags rfl s (by simp [bodyBytes])) (trapped_zero _)
  rw [Effect.stands_plain rfl rfl] at hcomp
  refine ⟨t, hcomp, ?_⟩
  have hissue : IssuesTo (.dbrk o) s .seq (.whole (t.haltDebug 1 ((o.ext.setWidth 16).setWidth 32))) := by
    refine issuesTo_seq (exec_dbrk s o) ?_
    rw [if_pos (by rw [hopen, hbreaks]; rfl), show seqNext s.pcAddr (Instr.dbrk o).length = s.after (.dbrk o) from rfl, ht]
  rw [hissue.concludes_seq hc, haltDebug_untraced (hcomp.traced.trans htraced)]
  rfl

/-! ### `YIELD` (19 R388, R389) -/

/-- A save leaves the record mechanism and the strand's place as they are. -/
theorem Anchored.save (s : State) (keepv zk keeps : Nat) : Anchored s (s.save keepv zk keeps) := by
  have hdies (t : State) (f : Die → Die) : Anchored t { t with dies := t.dies.map f } := ⟨rfl⟩
  have hsaved (t : State) (x : Nat × Nat) :
      Anchored t (t.setCo fun c => { c with saved := some x, preempt := none }) := ⟨rfl⟩
  exact (((Anchored.dropGrants s _ _).trans (hdies _ _)).trans (Anchored.modBlock _ _ _)).trans (hsaved _ _)

/-- Records that are in memory need no write-back. -/
theorem wheyFlush_of_le {s : State} {keep : Nat} (h : s.co.wheyt - keep ≤ s.co.wheyWb) : s.wheyFlush keep = .ok s :=
  if_pos h

/-- A `YIELD` that may issue stands in trap mode (19 R388). -/
theorem special_of_yield {o : UxForm} {s : State} (h : s.Clear (.yield o)) : s.co.special = true := by
  have hmode : (!s.co.tm || s.co.debug) = false := modeBad_of_decodeChecks h.checks
  obtain ⟨htm, -⟩ := Bool.or_eq_false_iff.mp hmode
  exact Bool.or_eq_true_iff.mpr (.inl (by simpa using htm))

/-- A `YIELD` whose waits are over saves the cohort (19 R388, R389). -/
theorem yield_issues {o : UxForm} {s : State} (hleaving : s.leaving = true) (hquiet : s.cohortQuiet = true)
    (hkeepv : (s.readU o.a.toNat).toNat % 8 = 0) (hnregs : (s.readU o.a.toNat).toNat ≤ s.co.nregs)
    (hkeeps : (s.readU o.b.toNat).toNat % 128 = 0) (hblock : (s.readU o.b.toNat).toNat ≤ (s.blockRange s.co.block).2)
    (hforced : (s.modBlock s.co.block Block.forceAll).forcedLeft s.co.block = 0) (hwhey : s.co.wheyt ≤ s.co.wheyWb) :
    IssuesTo (.yield o) s .seq (.done
      { post := (s.modBlock s.co.block Block.forceAll).save (s.readU o.a.toNat).toNat o.ext.toNat
          (s.readU o.b.toNat).toNat }) := by
  have hrange : ((s.readU o.a.toNat).toNat % 8 != 0 || decide (s.co.nregs < (s.readU o.a.toNat).toNat)
      || (s.readU o.b.toNat).toNat % 128 != 0
      || decide ((s.blockRange s.co.block).2 < (s.readU o.b.toNat).toNat)) = false := by
    simp [hkeepv, hkeeps, Nat.not_lt.mpr hnregs, Nat.not_lt.mpr hblock]
  have hflush : (s.modBlock s.co.block Block.forceAll).wheyFlush 0 = .ok (s.modBlock s.co.block Block.forceAll) :=
    wheyFlush_of_le hwhey
  refine issuesTo_seq (exec_yield s o) ?_
  simp only [hrange, hleaving, hquiet, hforced, hflush, State.modBlock_co, Bool.not_true, Bool.false_eq_true, if_false,
    Nat.lt_irrefl]

/-- Settles O36: the waits are over, nothing is left to write back, and the save is the instruction's effect. -/
theorem yieldSaves : Obligations.YieldSaves := by
  unfold Obligations.YieldSaves
  intro o s hc hleaving hquiet hkeepv hnregs hkeeps hblock hforced hwhey
  have hissue := yield_issues hleaving hquiet hkeepv hnregs hkeeps hblock hforced hwhey
  generalize hpost : (s.modBlock s.co.block Block.forceAll).save _ _ _ = post at hissue ⊢
  have hanchor : Anchored s post := hpost ▸ (Anchored.modBlock s _ _).trans (Anchored.save _ _ _ _)
  have hroom : s.Room post 16 := ⟨.inl (special_of_yield hc), .inl (by omega)⟩
  have hf : Fulfils (.yield o) s { base := s, post, room := 16 } { post } :=
    ⟨.inl rfl, rfl, hanchor, Effect.stands_plain rfl rfl, rfl, by simp [bodyBytes], hissue⟩
  exact hf.completes hc hroom

end Sys2Proof.Machine

/-! Every move ends in a next state, until the thermal trip (22 R446). -/

namespace Sys2Proof.Machine

/-- The outcome is a next state: no fault, and no refusal. -/
def GoesOn (o : Host.Outcome State Fault Refusal) : Prop := ∃ t, o = .next t

theorem goesOn_next (t : State) : GoesOn (.next t) := ⟨t, rfl⟩

theorem goesOn_ite {c : Prop} [Decidable c] {o p : Host.Outcome State Fault Refusal} (ho : GoesOn o) (hp : GoesOn p) :
    GoesOn (if c then o else p) := by
  split
  · exact ho
  · exact hp

/-! ### Instructions (01 R21, 03 R75) -/

/-- What an issue does once its checks pass and the checks of the arrival are made: a fault of the arrival is raised, a wait
parks the strand, else the instruction's own rules conclude. -/
def State.arriving (s : State) (i : Instr) (a : Act) (va : DWord) : Arrive → Host.Outcome State Fault Refusal
  | .bad c sub info => .next (s.raise (trapOf c sub info))
  | .fill l => .next (s.parkSt (.fill l))
  | .page p => .next (s.parkSt (.page p))
  | .ok => .next (s.conclude i a va)

theorem goesOn_arriving (s : State) (i : Instr) (a : Act) (va : DWord) (r : Arrive) : GoesOn (s.arriving i a va r) := by
  cases r with
  | _ => exact goesOn_next _

/-- The same for an instruction that goes on in sequence; debug mode makes no checks of an arrival (20 R400). -/
def State.inSequence (s : State) (i : Instr) (a : Act) : Host.Outcome State Fault Refusal :=
  if s.co.debug then .next (s.conclude i a (s.after i))
  else s.arriving i a (s.after i) (s.checkArrival (s.after i) true false)

theorem goesOn_inSequence (s : State) (i : Instr) (a : Act) : GoesOn (s.inSequence i a) :=
  goesOn_ite (goesOn_next _) (goesOn_arriving _ _ _ _ _)

/-- The same for an instruction that has picked where control goes. -/
def State.goesTo (s : State) (i : Instr) (a : Act) (dest : Next) : Host.Outcome State Fault Refusal :=
  match dest with
  | .own => .next (s.conclude i a s.pcAddr)
  | .seq => s.inSequence i a
  | .to va call => s.arriving i a va (s.checkArrival va false call)

theorem goesOn_goesTo (s : State) (i : Instr) (a : Act) (dest : Next) : GoesOn (s.goesTo i a dest) := by
  rcases dest with _ | ⟨va, call⟩ | _
  · exact goesOn_inSequence s i a
  · exact goesOn_arriving s i a va _
  · exact goesOn_next _

/-- Past the checks at issue, every instruction with words goes on: it transfers control, picks where control goes, decides
itself, or goes on in sequence. -/
theorem exec_checked_goesOn {i : Instr} (h : i.isEvent = false) (s : State) :
    ∃ rest, exec i s = s.checked i rest ∧ GoesOn rest := by
  cases i with
  | br | call | ret | jmpr => exact ⟨_, rfl, goesOn_arriving _ _ _ _ _⟩
  | brz | brnz | brl | brlz | regang | exit | tend | rewind | rewindt => exact ⟨_, rfl, goesOn_goesTo _ _ _ _⟩
  | tret => exact ⟨_, rfl, goesOn_next _⟩
  | _ => cases h <;> exact ⟨_, rfl, goesOn_inSequence _ _ _⟩

theorem goesOn_checked {s : State} {i : Instr} {rest : Host.Outcome State Fault Refusal} (h : GoesOn rest) :
    GoesOn (s.checked i rest) := by
  unfold State.checked
  split
  · exact goesOn_next _
  · exact goesOn_next _
  · exact h

/-! ### Events -/

/-- A request to the mailbox goes on when what it asks for does (22 R438, R439). -/
theorem goesOn_withRequest {s : State} {recovery session : Bool} {k : Host.Outcome State Fault Refusal} (h : GoesOn k) :
    GoesOn (s.withRequest recovery session k) :=
  goesOn_ite (goesOn_ite (goesOn_next _) h) (goesOn_next _)

/-- Every event goes on: whether it is due or not, each branch of its rules ends in a next state. -/
theorem exec_event_goesOn {i : Instr} (h : i.isEvent = true) (s : State) : GoesOn (exec i s) := by
  cases i with
  | stallCycle | illegalInstruction | horizonPassed | l1WritebackTimer | accWindowRollover | eddyAgeExpiry |
    mmaExecute | mmaCheck | collChunk | leaveUnusedExpiry | firmwareResume | firmwarePressResume |
    snapshotAgentTrigger | snapshotInput | snapshotArm | flitReceive | wchg | wack | trainingComplete | widthPolicy |
    linkRekey | read | write | readModifyWrite | accumulate | arrive | reductionPiece | chunkBit | apbaseWrite |
    powerSample | mctpControl | pldmMonitoring | vendorAttest | relight => exact goesOn_next _
  | unmap | setregBaseAllowance | setregAccControl | setregLease | setregDebugKey | attest | session | debugReq =>
    exact goesOn_withRequest (goesOn_ite (goesOn_next _) (goesOn_next _))
  | map => exact goesOn_withRequest (goesOn_ite (goesOn_next _) (goesOn_ite (goesOn_next _) (goesOn_next _)))
  | regions | stats | reset => exact goesOn_withRequest (goesOn_next _)
  | rdcFill | firmwareDeclareInvalid | dargWrite | traceTimePacket | crossbarPacket | clockStepDown | clockStepUp |
    thermalTrip => exact goesOn_ite (goesOn_next _) (goesOn_next _)
  | resultLanding => rw [exec_resultLanding]; fun_cases execResultLanding <;> exact goesOn_next _
  | checkMismatch => rw [exec_checkMismatch]; fun_cases execCheckMismatch <;> exact goesOn_next _
  | lateFault => rw [exec_lateFault]; fun_cases execLateFault <;> exact goesOn_next _
  | pageWalk => rw [exec_pageWalk]; fun_cases execPageWalk <;> exact goesOn_next _
  | codeFill => rw [exec_codeFill]; fun_cases execCodeFill <;> exact goesOn_next _
  | lineFill => rw [exec_lineFill]; fun_cases execLineFill <;> exact goesOn_next _
  | storeAck => rw [exec_storeAck]; fun_cases execStoreAck <;> exact goesOn_next _
  | updateOnlyRequest => rw [exec_updateOnlyRequest]; fun_cases execUpdateOnlyRequest <;> exact goesOn_next _
  | forcedDelivery => rw [exec_forcedDelivery]; fun_cases execForcedDelivery <;> exact goesOn_next _
  | storeArrival => rw [exec_storeArrival]; fun_cases execStoreArrival <;> exact goesOn_next _
  | linkEntryArrival => rw [exec_linkEntryArrival]; fun_cases execLinkEntryArrival <;> exact goesOn_next _
  | copyCompletion => rw [exec_copyCompletion]; fun_cases execCopyCompletion <;> exact goesOn_next _
  | copyFault => rw [exec_copyFault]; fun_cases execCopyFault <;> exact goesOn_next _
  | reportDelivery => rw [exec_reportDelivery]; fun_cases execReportDelivery <;> exact goesOn_next _
  | zstEngine => rw [exec_zstEngine]; fun_cases execZstEngine <;> exact goesOn_next _
  | launchRecord => rw [exec_launchRecord]; fun_cases execLaunchRecord <;> exact goesOn_next _
  | blockPlacement => rw [exec_blockPlacement]; fun_cases execBlockPlacement <;> exact goesOn_next _
  | launchCompletion => rw [exec_launchCompletion]; fun_cases execLaunchCompletion <;> exact goesOn_next _
  | taskGather => rw [exec_taskGather]; fun_cases execTaskGather <;> exact goesOn_next _
  | press => rw [exec_press]; fun_cases execPress <;> exact goesOn_next _
  | leaveGrant => rw [exec_leaveGrant]; fun_cases execLeaveGrant <;> exact goesOn_next _
  | sluiceLend => rw [exec_sluiceLend]; fun_cases execSluiceLend <;> exact goesOn_next _
  | leaveChainRelease => rw [exec_leaveChainRelease]; fun_cases execLeaveChainRelease <;> exact goesOn_next _
  | preemptRequest => rw [exec_preemptRequest]; fun_cases execPreemptRequest <;> exact goesOn_next _
  | preemptTrap => rw [exec_preemptTrap]; fun_cases execPreemptTrap <;> exact goesOn_next _
  | forcedSave => rw [exec_forcedSave]; fun_cases execForcedSave <;> exact goesOn_next _
  | blockLeave => rw [exec_blockLeave]; fun_cases execBlockLeave <;> exact goesOn_next _
  | blockRestore => rw [exec_blockRestore]; fun_cases execBlockRestore <;> exact goesOn_next _
  | firmwareAbort => rw [exec_firmwareAbort]; fun_cases execFirmwareAbort <;> exact goesOn_next _
  | haltRequest => rw [exec_haltRequest]; fun_cases execHaltRequest <;> exact goesOn_next _
  | programBuffer => rw [exec_programBuffer]; fun_cases execProgramBuffer <;> exact goesOn_next _
  | resume => rw [exec_resume]; fun_cases execResume <;> exact goesOn_next _
  | singleStep => rw [exec_singleStep]; fun_cases execSingleStep <;> exact goesOn_next _
  | resumeAtPc => rw [exec_resumeAtPc]; fun_cases execResumeAtPc <;> exact goesOn_next _
  | traceSummary => rw [exec_traceSummary]; fun_cases execTraceSummary <;> exact goesOn_next _
  | traceRoomReturn => rw [exec_traceRoomReturn]; fun_cases execTraceRoomReturn <;> exact goesOn_next _
  | nak => rw [exec_nak]; fun_cases execNak <;> exact goesOn_next _
  | wreq => rw [exec_wreq]; fun_cases execWreq <;> exact goesOn_next _
  | retrainWindow => rw [exec_retrainWindow]; fun_cases execRetrainWindow <;> exact goesOn_next _
  | response => rw [exec_response]; fun_cases execResponse <;> exact goesOn_next _
  | writeAcknowledgement => rw [exec_writeAcknowledgement]; fun_cases execWriteAcknowledgement <;> exact goesOn_next _
  | hostWrite => rw [exec_hostWrite]; fun_cases execHostWrite <;> exact goesOn_next _
  | hostRead => rw [exec_hostRead]; fun_cases execHostRead <;> exact goesOn_next _
  | doorbellTicket => rw [exec_doorbellTicket]; fun_cases execDoorbellTicket <;> exact goesOn_next _
  | doorbellHead => rw [exec_doorbellHead]; fun_cases execDoorbellHead <;> exact goesOn_next _
  | registerWrite => rw [exec_registerWrite]; fun_cases execRegisterWrite <;> exact goesOn_next _
  | bringUp => rw [exec_bringUp]; fun_cases execBringUp <;> exact goesOn_next _
  | placementReport => rw [exec_placementReport]; fun_cases execPlacementReport <;> exact goesOn_next _
  | _ => cases h

theorem exec_goesOn (i : Instr) (s : State) : GoesOn (exec i s) := by
  cases h : i.isEvent with
  | true => exact exec_event_goesOn h s
  | false =>
    obtain ⟨rest, he, hrest⟩ := exec_checked_goesOn h s
    rw [he]
    exact goesOn_checked hrest

/-! ### Steps (03 R62, 08 R189, 19 R381) -/

section

/-! The moves of a module whose instructions and events all go on. -/

variable {run : Sem} (hrun : ∀ i s, GoesOn (run i s))
include hrun

theorem goesOn_runWords (ws : List Word) (s : State) : GoesOn (s.runWords run ws) := by
  unfold State.runWords
  split
  · exact hrun _ _
  · exact hrun _ _
  · exact hrun _ _
  · exact hrun _ _

theorem goesOn_fetch (s : State) : GoesOn (s.fetch run) := by
  unfold State.fetch
  dsimp only
  split
  · split
    · exact goesOn_next _
    · exact goesOn_next _
    · exact goesOn_next _
  · split
    · exact goesOn_next _
    · exact goesOn_runWords hrun _ _

theorem goesOn_attempt (s : State) : GoesOn (s.attempt run) := by
  unfold State.attempt
  split
  · exact goesOn_runWords hrun _ _
  · exact goesOn_next _
  · exact goesOn_fetch hrun _

/-- A strand's move at its issue boundary goes on: a step of its walk, a halt, a late event, or the attempt to issue. -/
theorem goesOn_issueHere (s : State) : GoesOn (s.issueHere run) := by
  unfold State.issueHere
  split
  · exact goesOn_next _
  · split
    · exact goesOn_next _
    · split
      · exact goesOn_next _
      · obtain ⟨t, ht⟩ := goesOn_attempt hrun s
        rw [ht]
        exact goesOn_next _

theorem goesOn_issueSlot (core half : Nat) (vector : Bool) (s : State) : GoesOn (s.issueSlot run core half vector) := by
  unfold State.issueSlot
  dsimp only
  split
  · exact goesOn_next _
  · exact goesOn_issueHere hrun _

theorem goesOn_move (m : Move) (s : State) : GoesOn (s.move run m) := by
  unfold State.move
  split
  · exact goesOn_issueSlot hrun _ _ _ _
  · exact goesOn_next _
  · exact goesOn_ite (hrun _ _) (goesOn_next _)
  · exact goesOn_next _
  · exact goesOn_next _
  · exact goesOn_next _
  · exact goesOn_next _

theorem goesOn_runStep (s : State) : GoesOn (s.runStep run) := by
  unfold State.runStep
  dsimp only
  split
  · next m rest _ =>
    obtain ⟨t, ht⟩ := goesOn_move hrun m { s with agenda := rest }
    rw [ht]
    exact goesOn_next _
  · obtain ⟨t, ht⟩ := goesOn_move hrun (s.defaultMove run) { s with turn := s.turn + 1 }
    rw [ht]
    exact goesOn_next _

end

/-- Settles O16: every instruction and every event goes on, so every move does while the power is on. -/
theorem everyStepSafe : Obligations.EveryStepSafe := by
  unfold Obligations.EveryStepSafe
  refine ⟨exec_goesOn, fun s h => ?_, fun s h => ?_⟩
  · rw [SafeStep, step, h]
    exact goesOn_runStep exec_goesOn s
  · rw [step, h]
    rfl

end Sys2Proof.Machine
